-- ==== Sys2Proof/Word.lean ====
section
/-!
DEFINITION. Words and bytes: the units in which the manual counts (R7, R8), and their plainest arithmetic.
-/
namespace Sys2Proof

/-- A byte. -/
abbrev Byte := BitVec 8
/-- A 32-bit word. -/
abbrev Word := BitVec 32
/-- A 64-bit word (a register of 8 bytes, an address, a GTC value). -/
abbrev Word64 := BitVec 64

/-- CCLK and GTC counts in one microsecond: CCLK runs at 320 MHz (R545, R676). -/
def countsPerUs : Nat := 320

/-- `⌈a / b⌉`. -/
def ceilDiv (a b : Nat) : Nat := (a + b - 1) / b

/-- The least multiple of `b` that is at least `a`. -/
def alignUp (a b : Nat) : Nat := ceilDiv a b * b

end Sys2Proof
end

