-- ==== Sys2Proof/Machine/Operands.lean ====
section
/-!
DEFINITION. The operand forms of the commands: what a command carries beside plain numbers.
-/
namespace Sys2Proof.Machine

/-- What the block finds in host memory when a command makes it read there: the bytes that software has
written since (R2: host memory is outside the block), and the ranges (address, length) whose reads return an
error completion or poison (R407, R445). The writes are merged into the host memory of the state first. -/
structure HostView where
  writes : List (Nat × List Byte)
  bad : List (Nat × Nat)
  deriving DecidableEq, Repr

/-- A host view in which software has written nothing and every read answers. -/
def HostView.quiet : HostView := { writes := [], bad := [] }

/-- A fault of a tensor array as its check meets it (R150 to R155): bits `mask` turned in the final sum of a row, in a logical
column of R156 (0 to 511 data, 512 to 519 checksum). `tile` counts the weight tiles along N, batch item by batch item; of fused
attention tile 2j are the scores of key block j and 2j + 1 the weighted sums. -/
structure ArrFault where
  tile : Nat
  row : Nat
  col : Nat
  mask : Nat
  deriving DecidableEq, Repr

/-- One operation of an executing stage: the job (queue, serial), the stage, the logical cluster of the
instance (R66), the loop iteration (R62), and the record index of the operation within the stage (R55). -/
structure OpRef where
  q : Nat
  s : Nat
  stage : Nat
  lc : Nat
  iter : Nat
  idx : Nat
  deriving DecidableEq, Repr

/-- Two writes that meet at one word of a cluster's memory in one cycle (R348), the operation's own being the one discarded: whether the
word lies in the accumulator memory, the bank, the word. -/
structure BankHit where
  acc : Bool
  bank : Nat
  word : Nat
  deriving DecidableEq, Repr

end Sys2Proof.Machine
end

