-- ==== Sys2Proof/Syntax.lean ====
section
/-!
DEFINITION. The commands: one constructor per row of the table of operations and events, each with the operands
this model gives it (the table gives none).  p: the host port of arrival, q: a queue, s: a job serial, d and a: dies,
c: a physical cluster, k: a port, partition or slice, r: an operation of an executing stage, hv: what the block finds in host memory,
errs: symbols of an HBM line in error as read, each with the bits that differ.  An operand with := may be left out:
the fields of a command register that the command does not use read 0, an error or a hit is absent, a link comes up at full width and rate.
at_: the bus address of a sideband message, none for one of the target's own; assign: a dynamic address assigned before it; second and third:
the later two samples of the straps.
-/
namespace Sys2Proof
open Sys2Proof.Machine (HostView OpRef ArrFault BankHit)

/-- A command or event (opcode_table.json). -/
inductive Instr where
  /-- QTB_CMD ENABLE checks a queue's Queue Table entry, reads and delivers its doorbell line, and makes the queue ENABLED. (R418) -/
  | queueEnable (p : Nat) (q : Nat) (hv : HostView) (die : Nat := 0)
  /-- QTB_CMD DRAIN stops acceptance on a queue and lets its accepted jobs run to completion. (R418) -/
  | queueDrain (p : Nat) (q : Nat) (die : Nat := 0)
  /-- QTB_CMD WITHDRAW stops acceptance and suspends or parks every job of the queue. (R418) -/
  | queueWithdraw (p : Nat) (q : Nat) (die : Nat := 0)
  /-- QTB_CMD MOVE starts re-homing a queue to another die through the Ledger. (R477) -/
  | queueMove (p : Nat) (q : Nat) (d : Nat)
  /-- The target die receives a moved queue's jobs and checkpoints and writes MOVED ACCEPT records for them. (R477) -/
  | moveTransfer (q : Nat)
  /-- SCH_GROUP_CMD ENABLE marks a service group enabled and zeroes its deficits. (R510) -/
  | groupEnable (p : Nat) (g : Nat)
  /-- SCH_GROUP_CMD DRAIN disables a group and drains every enabled queue of that group. (R510) -/
  | groupDrain (p : Nat) (g : Nat)
  /-- SCH_GROUP_CMD WITHDRAW disables a group and withdraws every enabled queue of that group. (R510) -/
  | groupWithdraw (p : Nat) (g : Nat)
  /-- Starts the fetch and per-die verification of the firmware image, ending with FW_READY. (R662) -/
  | secBootGo (p : Nat) (hv : HostView)
  /-- Writes a fresh 64-byte challenge to host memory for a later signed command. (R668) -/
  | challenge (p : Nat)
  /-- Enters a public key into a customer slot of the key table if its hash matches the slot's fuse. (R659) -/
  | keyLoad (p : Nat) (hv : HostView)
  /-- Fuses the hash of a public key into an empty customer key slot. (R667) -/
  | keyFuse (p : Nat) (hv : HostView) (f : Option Nat)
  /-- Blows the revocation fuse of a customer key slot, unless it is the last unrevoked slot. (R667) -/
  | keyRevoke (p : Nat) (hv : HostView) (f : Option Nat)
  /-- Raises the fused rollback counter to the running image's svn. (R663) -/
  | rollbackCommit (p : Nat) (hv : HostView) (f : Option Nat)
  /-- Blows the SIGN_REQUIRED fuse so that plan signing becomes mandatory. (R667) -/
  | signRequire (p : Nat) (hv : HostView) (f : Option Nat)
  /-- Moves the package from PROVISIONED to FIELD and wipes every Vault. (R667) -/
  | lcField (p : Nat) (hv : HostView) (f : Option Nat)
  /-- Moves the package from FIELD to FIELD_DEBUG. (R667) -/
  | debugUnlock (p : Nat) (hv : HostView)
  /-- Returns the package from FIELD_DEBUG to FIELD. (R667) -/
  | relock (p : Nat) (hv : HostView)
  /-- Sets INJ_STATUS.UNLOCKED so that fault injection becomes available in FIELD. (R648) -/
  | injectUnlock (p : Nat) (hv : HostView)
  /-- Moves the package to RETURNED. (R667) -/
  | lcReturn (p : Nat) (hv : HostView) (f : Option Nat)
  /-- Moves the package to SCRAPPED and destroys the wrapped device key. (R667) -/
  | lcScrap (p : Nat) (hv : HostView) (f : Option Nat)
  /-- RST_CMD level QUEUE clears the cached context of a disabled, empty queue. (R700) -/
  | queueReset (p : Nat) (q : Nat) (die : Nat := 0) (cl : Nat := 0)
  /-- RST_CMD level CLUSTER resets one physical cluster and re-dispatches its jobs. (R700) -/
  | clusterReset (p : Nat) (d : Nat) (c : Nat) (queue : Nat := 0)
  /-- RST_CMD level DIE resets one die, which then returns to service under R702. (R700) -/
  | dieReset (p : Nat) (d : Nat) (cl : Nat := 0) (queue : Nat := 0)
  /-- A first PACKAGE go arms the reset; a second go within 1 ms starts a package warm reset. (R699) -/
  | packageWarmReset (p : Nat) (die : Nat := 0) (cl : Nat := 0) (queue : Nat := 0)
  /-- The 1 ms arming window of a package warm reset lapses without a second go. (R699) -/
  | packageResetArmExpiry
  /-- PWR_DIE_CTL target D0 brings a die back from D1, or returns it to service from D3. (R686) -/
  | diePowerD0 (p : Nat) (d : Nat) (mode : Nat) (mask : Nat)
  /-- PWR_DIE_CTL target D1 drains or withdraws the die's clusters and turns their islands off. (R681) -/
  | diePowerD1 (p : Nat) (d : Nat) (mode : Nat) (mask : Nat)
  /-- PWR_DIE_CTL target D3 moves a die's queues and roles away and turns the die off. (R685) -/
  | diePowerD3 (p : Nat) (d : Nat) (mode : Nat) (mask : Nat)
  /-- PWR_DIE_CTL cl_disable takes physical clusters out of D0 service in DRAIN or WITHDRAW mode. (R682) -/
  | clusterDisable (p : Nat) (d : Nat) (mode : Nat) (mask : Nat)
  /-- Each die reconciles its Ledger segment, and LDG_STATUS.READY is set when all segments are done. (R473) -/
  | ldgCtlStart (p : Nat) (hv : HostView)
  /-- HPT_PORT_CTL.ENABLE returns a retrained, failed host port to service. (R409) -/
  | portEnable (p : Nat) (k : Nat)
  /-- A changed write to HPT_HB_VALUE, or a write of HPT_HB_TIMEOUT, renews the host heartbeat. (R589) -/
  | beat (p : Nat) (timeout : Bool) (v : Nat)
  /-- A write to CLK_PPS_ARM arms the GTC load at the next valid PPS edge, or is refused while jobs are accepted. (R547) -/
  | ppsArm (p : Nat)
  /-- Setting or clearing the freeze bit stops or resumes new grants of an arbiter instance. (R374) -/
  | arbFreeze (p : Nat) (d : Nat) (n : Nat) (on : Bool)
  /-- Zeroes every counter of an arbiter instance. (R373) -/
  | arbClear (p : Nat) (d : Nat) (n : Nat)
  /-- Writing bit 63 of SCH_GAP_MAX clears the recorded largest dispatch gap. (R511) -/
  | gapMaxClear (p : Nat) (d : Nat) (k : Nat)
  /-- Writing zero to RCD_WR_INDEX lets a full STOP-mode trace part take records again. (R532) -/
  | traceIndexReset (p : Nat) (d : Nat)
  /-- Advancing HPT_ERR_CONSUMED frees error-ring slots for held records. (R640) -/
  | errConsumedAdvance (p : Nat) (v : Nat)
  /-- Writing a non-zero HPT_ERR_BASE enables the error ring, which then takes held records. (R642) -/
  | errorRingEnable (p : Nat) (v : Nat)
  /-- A write to an HBM division value takes effect only when nothing is loaded, and otherwise sets DIV_LOCKED or DIV_INVALID. (R361) -/
  | hbmDivisionWrite (p : Nat) (reg : Nat) (v : Nat)
  /-- Setting arm in INJ_CTL arms an injection slot, or is refused in FIELD while a group-0 queue is enabled. (R650) -/
  | injectArm (p : Nat) (d : Nat) (i : Nat) (v : Nat)
  /-- Unmasking an MSI-X vector whose pending bit is set sends one message and clears the bit. (R402) -/
  | vectorUnmask (p : Nat) (v : Option Nat)
  /-- A read of the lower half of a 64-bit register captures the whole value for the following upper-half read. (R13) -/
  | lowerHalfRead (p : Nat) (off : Nat) (width : Nat := 4)
  /-- A write to a register without behaviour of its own is applied, after clamping, on every healthy die. (R729) -/
  | registerWrite (p : Nat) (off : Nat) (width : Nat) (v : Nat)
  /-- A BAR2 read returns striped HBM data of the die selected by HPT_BAR2_DIE. (R390) -/
  | bar2Read (p : Nat) (off : Nat) (n : Nat)
  /-- A BAR2 write stores data with its outer code, or is refused outside the permitted regions. (R391) -/
  | bar2Write (p : Nat) (off : Nat) (bytes : List Byte)
  /-- An I3C or I2C write transfer sets the sideband index and stores its data bytes. (R714) -/
  | sidebandWrite (bytes : List Byte) (at_ : Option Nat := none) (assign : Option Nat := none)
  /-- An I3C or I2C read transfer returns sideband bytes, capturing fields and advancing the trace address. (R715) -/
  | sidebandRead (n : Nat) (at_ : Option Nat := none)
  /-- 0xA5 written to sb_reset arms a package warm reset, and a second 0xA5 within 1 ms starts it. (R716) -/
  | sbReset (v : Nat) (at_ : Option Nat := none)
  /-- An I3C line held low for 25 ms makes the target release both lines and reset its interface. (R713) -/
  | sidebandBusTimeout
  /-- A snoop that invalidates a watched doorbell line makes the agent issue a new RdShared. (R394) -/
  | doorbellSnoop (k : Nat) (q : Nat)
  /-- The contents of a doorbell line arrive and are passed to the owning dispatch partition. (R395) -/
  | doorbellLineRead (k : Nat) (q : Nat) (hv : HostView)
  /-- The coherent sweep period lapses, and the agent re-reads its held doorbell lines through CXL.io. (R396) -/
  | doorbellSweep (k : Nat) (hv : HostView)
  /-- The poll interval lapses, and the port reads its active doorbell lines in queue order. (R397) -/
  | doorbellPoll (k : Nat) (hv : HostView)
  /-- A partition takes a delivered post value, ignoring an invalid one. (R422) -/
  | doorbellDelivery (q : Nat)
  /-- Once the admission window allows, the device reads up to four descriptor slots ahead. (R434) -/
  | descriptorRead (q : Nat)
  /-- Fetched descriptors are checked and ACCEPT records are written for them. (R431) -/
  | descriptorArrival (q : Nat) (hv : HostView)
  /-- An ordering read returns, making earlier records and completions durable and enabling the actions that wait on them. (R450) -/
  | orderingReadComplete (d : Nat) (hv : HostView)
  /-- A queue stall has lasted QTB_BACKLOG_TIME, and BACKLOG is logged once. (R435) -/
  | backlog (q : Nat)
  /-- At least every millisecond of a stall, the stalled time is added to fetch_stall. (R435) -/
  | fetchStallUpdate (q : Nat)
  /-- A job's wait condition holds, and in the next CCLK the job enters FLOW_WAIT or READY. (R490) -/
  | waitMet (q : Nat) (s : Nat)
  /-- The GTC reaches a GTC binding's value and sets its flag. (R489) -/
  | gtcBinding (q : Nat) (s : Nat)
  /-- A job's wait_timeout lapses before its wait condition holds, and the job completes TIMEOUT. (R488) -/
  | waitTimeout (q : Nat) (s : Nat)
  /-- An undispatched job's deadline passes, and it completes EXPIRED. (R518) -/
  | deadlineExpiry (q : Nat) (s : Nat)
  /-- A stage's wait timeout lapses before it is eligible, and the job completes TIMEOUT. (R58) -/
  | stageTimeout (q : Nat) (s : Nat) (st : Nat)
  /-- A watch registration for a SYNC binding reaches the object's primary holder. (R496) -/
  | syncWatch (q : Nat) (s : Nat)
  /-- A primary holder's notification reaches a watching die, which sets the satisfied bound flags. (R496) -/
  | syncNotify (o : Nat) (d : Nat)
  /-- A flow request reaches the flow home and is queued. (R498) -/
  | flowReq (q : Nat) (s : Nat)
  /-- The flow home grants a flow to its next requester. (R498) -/
  | flowGrant (f : Nat)
  /-- A new flow home rebuilds flow state from the owners' reports. (R501) -/
  | flowHomeRebuild (f : Nat)
  /-- A partition picks a ready job by group priority and deficit round robin, checks it and attempts its placement. (R504) -/
  | nextDispatch (d : Nat) (p : Nat) (hv : HostView)
  /-- A die serves a placement's reservation request, granting it or refusing it. (R507) -/
  | reservationRequest (d : Nat) (q : Nat) (s : Nat)
  /-- A NOP completes DONE once its wait is met. (R424) -/
  | nop (q : Nat) (s : Nat)
  /-- A RUN is dispatched, taking its pins and starting its plan's stages. (R483) -/
  | run (q : Nat) (s : Nat)
  /-- A LOAD_PLAN checks the plan slot, marks it LOADING and starts fetching the image. (R82) -/
  | loadPlan (q : Nat) (s : Nat)
  /-- The plan image and its digest are complete, and the image checks run. (R83) -/
  | planImageFetched (i : Nat) (hv : HostView)
  /-- The signing engine finishes verifying a plan signature. (R87) -/
  | signatureVerified (i : Nat)
  /-- The weight blob is complete; its digest and references are checked, and resources are reserved. (R82) -/
  | weightBlobFetched (i : Nat) (hv : HostView)
  /-- The image and weights are present on every healthy die; the slot becomes READY, and the report and completion are written. (R82) -/
  | planReplicated (i : Nat)
  /-- A DROP_PLAN marks its slot DROPPING, or waits, or completes at once, according to the slot state. (R79) -/
  | dropPlan (q : Nat) (s : Nat)
  /-- The last pin on a DROPPING slot is released; the plan's HBM is freed and the slot becomes FREE. (R79) -/
  | dropPlanUnpinned (i : Nat)
  /-- A WORLD_LOAD LATTICE reserves the world and applies its delta list as a new base version. (R230) -/
  | latticeLoad (q : Nat) (s : Nat) (hv : HostView)
  /-- A WORLD_LOAD BODY checks a body record and starts replicating it to its body slot. (R175) -/
  | bodyLoad (q : Nat) (s : Nat) (hv : HostView)
  /-- The new body model is present on every healthy die, and the BODY load completes. (R176) -/
  | bodyReplicated (b : Nat)
  /-- A WORLD_LOAD RELEASE makes a world slot RELEASING, or completes at once. (R244) -/
  | release (q : Nat) (s : Nat)
  /-- No pins remain on a RELEASING world; its reservations are freed and the slot becomes EMPTY. (R244) -/
  | releaseUnpinned (w : Nat)
  /-- A WORLD_UPDATE is checked against the slot's visible version and starts application. (R234) -/
  | worldUpdate (q : Nat) (s : Nat) (hv : HostView)
  /-- A pin release leaves room among the 8 retained versions, and a waiting update proceeds to prepare. (R225) -/
  | worldVersionRoom (w : Nat)
  /-- A die receives a load's or update's header, delta list and obstacle table and starts preparing the new version. (R239) -/
  | worldDataReceived (d : Nat) (w : Nat)
  /-- A GQU finishes one locked record application into its pseudo-channel. (R239) -/
  | worldRecordApply (d : Nat) (w : Nat) (hit : Option Nat := none)
  /-- A die's PREPARED or refusal report reaches the home die. (R239) -/
  | prepared (d : Nat) (w : Nat)
  /-- A die reports a lost lock during preparation, and the home die abandons the update for re-dispatch. (R377) -/
  | prepareLost (d : Nat) (w : Nat)
  /-- A die receives ABANDON and discards the prepared version. (R239) -/
  | abandon (w : Nat)
  /-- A die receives COMMIT, marks the version committed and acknowledges. (R239) -/
  | commit (d : Nat) (w : Nat)
  /-- The home die receives a COMMIT acknowledgement and sends VISIBLE when all have arrived. (R239) -/
  | commitAck (d : Nat) (w : Nat)
  /-- A die makes the new version visible and evaluates the slot's fences. (R239) -/
  | visible (d : Nat) (w : Nat)
  /-- A SIGNAL POST adds to a semaphore under its signal key and returns the new value. (R491) -/
  | signalPost (q : Nat) (s : Nat)
  /-- A SIGNAL FIRE sets an event FIRED. (R494) -/
  | signalFire (q : Nat) (s : Nat)
  /-- A SIGNAL INIT sets a sync object's type and start state. (R492) -/
  | signalInit (q : Nat) (s : Nat)
  /-- A SUSPEND stops new stages of its target, or suspends an undispatched target at once. (R520) -/
  | suspend (q : Nat) (s : Nat)
  /-- A RESUME returns a suspended target to READY. (R523) -/
  | resume (q : Nat) (s : Nat)
  /-- A CANCEL ends its target and releases the target's resources. (R446) -/
  | cancel (q : Nat) (s : Nat)
  /-- An ATTEST captures measurements and writes a signed quote. (R672) -/
  | attest (q : Nat) (s : Nat) (held : Bool := false)
  /-- A launch message from another die makes the partition place stage instances on its clusters. (R27) -/
  | stageLaunchMessage (d : Nat) (q : Nat) (s : Nat) (st : Nat)
  /-- An ARRIVE reaches the owner's Bugle endpoint, which sends GO when all have arrived. (R549) -/
  | bugleArrive (d : Nat) (q : Nat) (s : Nat) (st : Nat)
  /-- A participant receives GO(g) and schedules its launch. (R549) -/
  | bugleGo (d : Nat) (q : Nat) (s : Nat) (st : Nat)
  /-- The GTC reaches launch count g, and the stage instances issue their first operations. (R548) -/
  | stageLaunch (d : Nat) (q : Nat) (s : Nat) (st : Nat)
  /-- A checkpoint swap of a non-resident logical cluster's regions finishes. (R92) -/
  | logicalClusterSwap (d : Nat) (c : Nat) (q : Nat) (s : Nat) (lc : Nat)
  /-- Operation 0x0100 runs a matrix multiply on the tensor array. (R127) -/
  | matrixMultiply (r : OpRef) (hv : HostView) (faults : List ArrFault) (hit : Option BankHit := none)
  /-- Operation 0x0101 runs a batched matrix multiply. (R127) -/
  | batchedMatrixMultiply (r : OpRef) (hv : HostView) (faults : List ArrFault) (hit : Option BankHit := none)
  /-- Operation 0x0102 computes fused attention. (R147) -/
  | fusedAttention (r : OpRef) (hv : HostView) (faults : List ArrFault) (bad : Option Nat := none) (hit : Option BankHit := none)
  /-- Operation 0x0103 computes a temporal convolution. (R149) -/
  | temporalConvolution (r : OpRef) (hv : HostView) (faults : List ArrFault) (hit : Option BankHit := none)
  /-- Operation 0x0200 applies an elementwise function on the vector engine. (R162) -/
  | elementwise (r : OpRef) (hv : HostView) (bad : Option Nat) (hit : Option BankHit := none)
  /-- Operation 0x0201 normalises rows. (R166) -/
  | normalisation (r : OpRef) (hv : HostView) (bad : Option Nat) (hit : Option BankHit := none)
  /-- Operation 0x0202 applies an activation. (R167) -/
  | activation (r : OpRef) (hv : HostView) (bad : Option Nat) (hit : Option BankHit := none)
  /-- Operation 0x0203 reduces the last dimension. (R168) -/
  | reduction (r : OpRef) (hv : HostView) (bad : Option Nat) (hit : Option BankHit := none)
  /-- Operation 0x0204 gathers table rows. (R169) -/
  | gather (r : OpRef) (hv : HostView) (hit : Option BankHit := none)
  /-- Operation 0x0205 scatters rows into a table. (R169) -/
  | scatter (r : OpRef) (hv : HostView) (bad : Option Nat := none) (hit : Option BankHit := none)
  /-- Operation 0x0206 produces Philox random values. (R205) -/
  | randomGeneration (r : OpRef) (hv : HostView) (bad : Option Nat := none) (hit : Option BankHit := none)
  /-- Operation 0x0300 places primitives at waypoints. (R184) -/
  | pointForwardKinematics (r : OpRef) (hv : HostView) (hit : Option BankHit := none)
  /-- Operation 0x0301 writes swept-box records. (R190) -/
  | intervalForwardKinematics (r : OpRef) (hv : HostView) (hit : Option BankHit := none)
  /-- Operation 0x0400 computes point distances. (R273) -/
  | pointDistance (r : OpRef) (hv : HostView)
  /-- Operation 0x0401 computes distances, phi and gradients. (R274) -/
  | distanceWithGradient (r : OpRef) (hv : HostView)
  /-- Operation 0x0402 tests spheres against the world. (R261) -/
  | sphereTest (r : OpRef) (hv : HostView)
  /-- Operation 0x0403 tests capsules against the world. (R261) -/
  | capsuleTest (r : OpRef) (hv : HostView)
  /-- Operation 0x0404 tests swept boxes, with subdivision lists and compare mode. (R261) -/
  | sweptSphereTest (r : OpRef) (hv : HostView)
  /-- Operation 0x0500 selects the top k entries of each row. (R290) -/
  | topK (r : OpRef) (hv : HostView) (hit : Option BankHit := none)
  /-- Operation 0x0501 merges partial lists through the Joiner. (R301) -/
  | merge (r : OpRef) (hv : HostView) (hit : Option BankHit := none)
  /-- A partial list fetched over Umlin arrives at the Joiner. (R299) -/
  | listArrival (r : OpRef) (i : Nat)
  /-- Operation 0x0600 factors a batch of small matrices. (R314) -/
  | factor (r : OpRef) (hv : HostView) (bad : Option Nat) (hit : Option BankHit := none)
  /-- Operation 0x0601 solves a batch of systems. (R328) -/
  | solve (r : OpRef) (hv : HostView) (bad : Option Nat) (hit : Option BankHit := none)
  /-- Operation 0x0602 runs the Riccati sweeps. (R332) -/
  | riccatiSweep (r : OpRef) (hv : HostView) (bad : Option Nat) (hit : Option BankHit := none)
  /-- Operation 0x0603 runs ADMM refinement with a warm start. (R336) -/
  | refine (r : OpRef) (hv : HostView) (bad : Option Nat) (hit : Option BankHit := none)
  /-- A serialised warm-start store write is applied on a die. (R343) -/
  | warmStoreWrite (d : Nat) (i : Nat)
  /-- Operation 0x0700 copies and converts a tensor. (R742) -/
  | copy (r : OpRef) (hv : HostView) (hit : Option BankHit := none)
  /-- Operation 0x0701 wraps data in an envelope and advances the channel's counter. (R618) -/
  | checkValueWrap (r : OpRef) (hv : HostView) (hit : Option BankHit := none)
  /-- Operation 0x0702 checks a received frame and writes its status record. (R619) -/
  | checkValueUnwrap (r : OpRef) (hv : HostView) (hit : Option BankHit := none)
  /-- Operation 0x0703 computes a CRC over a tensor or a host range. (R622) -/
  | checkValueScan (r : OpRef) (hv : HostView) (hit : Option BankHit := none)
  /-- Operation 0x0704 computes SHA-512 or CRC-64 on the Assayer. (R561) -/
  | digest (r : OpRef) (hv : HostView) (hit : Option BankHit := none)
  /-- An operation completes, freeing its engine to issue the next one. (R59) -/
  | operationComplete (r : OpRef) (hv : HostView)
  /-- A suspended job's regions reach their checkpoint areas, and its clusters are released. (R520) -/
  | checkpointWritten (q : Nat) (s : Nat)
  /-- The emitter sends a query packet when it is full, 16 ACLK old, or the operation's last. (R277) -/
  | queryPacketSend (d : Nat) (c : Nat) (g : Nat)
  /-- A query packet enters the anchor GQU, which issues its tests. (R278) -/
  | queryPacketArrival (d : Nat) (g : Nat) (err : Nat := 0)
  /-- A fragment reaches a home GQU, which walks its brick. (R278) -/
  | fragment (d : Nat) (g : Nat) (err : Nat := 0)
  /-- A partial result reaches the anchor GQU, which combines it into a verdict. (R278) -/
  | partialResult (d : Nat) (c : Nat)
  /-- A result record returns to the emitting cluster's scratchpad. (R278) -/
  | resultRecord (d : Nat) (c : Nat) (hit : Option BankHit := none)
  /-- A World Store line fill from HBM completes. (R279) -/
  | lineFill (d : Nat) (k : Nat) (hit : Option Nat := none)
  /-- An HBM read returns CLEAN, CORRECTED or UNCORRECTABLE, and is corrected, repaired or poisoned. (R366) -/
  | hbmReadOutcome (d : Nat) (pc : Nat) (line : Nat) (errs : List (Nat × Nat)) (sev : Nat) (job : Option (Nat × Nat))
  /-- A line copy from a healthy die arrives, and the line and its waiting read are repaired. (R366) -/
  | hbmRepaired (d : Nat) (pc : Nat) (line : Nat)
  /-- The scrubber reads a line and writes it back corrected if needed. (R368) -/
  | scrub (d : Nat) (pc : Nat) (line : Nat) (errs : List (Nat × Nat)) (sev : Nat) (held : Bool := false)
  /-- A bank idle time lapses, and the banks go to Retention or Off. (R354) -/
  | bankIdle (d : Nat) (c : Nat)
  /-- A bank finishes leaving Retention or Off, and stalled accesses proceed. (R353) -/
  | bankExit (d : Nat) (c : Nat) (b : Nat)
  /-- A DMA request has waited 4,096 ACLK, and the sequencer starts no new operation on that cluster. (R350) -/
  | dmaAge (d : Nat) (c : Nat)
  /-- A lock reaches ARB_LOCK_MAX and is rolled back and released. (R376) -/
  | lockMaxHold (d : Nat) (n : Nat)
  /-- A host link leaves the active state and starts retraining. (R406) -/
  | linkDown (k : Nat)
  /-- A host link has not retrained within HPT_RETRAIN_LIMIT, and the port fails. (R406) -/
  | retrainLimitExpiry (k : Nat) (hv : HostView)
  /-- A device read gets no completion within HPT_CPL_TIMEOUT, and the port fails. (R406) -/
  | completionTimeout (k : Nat) (hv : HostView)
  /-- A host link reports an uncorrectable error, and the port fails. (R406) -/
  | linkError (k : Nat) (hv : HostView)
  /-- A port repairs lanes, or falls to x32 and logs DEGRADED. (R379) -/
  | laneRepair (port : Bool) (d : Nat) (k : Nat) (lanes : Nat)
  /-- A host read returns an error or poison, and the affected job or structure is handled. (R445) -/
  | hostReadError (d : Nat) (what : Nat) (q : Nat) (s : Nat)
  /-- A vector's holdoff lapses, and its pending message is sent. (R400) -/
  | msixHoldoff (k : Nat) (v : Nat)
  /-- An Umlin link fails, and its traffic moves to the twin link or the other way round the ring. (R44) -/
  | umlinLinkLost (d : Nat) (k : Nat)
  /-- Every 10 µs a die manager sends a heartbeat to every peer. (R29) -/
  | heartbeatSend (d : Nat)
  /-- A peer's Umlin heartbeat arrives. (R29) -/
  | heartbeat (a : Nat) (d : Nat)
  /-- Every 100 µs a die advances its liveness word and issues an ordering read. (R29) -/
  | livenessAdvance (d : Nat)
  /-- No heartbeat from a peer for 50 µs; the die presumes failure and watches the peer's liveness word. (R30) -/
  | heartbeatAbsence (d : Nat) (a : Nat)
  /-- A peer's liveness word has not advanced for 300 µs, and the supervisor fences the peer. (R30) -/
  | livenessStall (d : Nat) (a : Nat)
  /-- A die's 150 µs lease lapses, and it stops writing host memory. (R457) -/
  | leaseExpiry (d : Nat)
  /-- The fence wait ends, and the supervisor recovers the failed die's segment. (R469) -/
  | fenceWaitEnd (hv : HostView)
  /-- A failed segment read is retried every 100 µs, and after three failures LEDGER_IO is logged. (R476) -/
  | ledgerIoRetry (d : Nat) (ok : Bool)
  /-- The duplicated partition state disagrees; it is corrected or the die withdraws. (R577) -/
  | partitionMismatch (d : Nat) (p : Nat) (one : Bool) (word : Nat) (bits : Nat := 1) (later : Bool := false)
  /-- A unit signals a fault and is spared, quarantined or lost with its jobs re-dispatched. (R753) -/
  | unitFault (d : Nat) (unit : Nat) (kind : Nat)
  /-- Tinker runs the full content of a suspect unit within 1 ms of its mismatch. (R608) -/
  | suspectTest (d : Nat) (unit : Nat) (ok : Bool)
  /-- Tinker starts a test slice on a unit that is clear of stages and windows. (R599) -/
  | tinkerSliceStart (d : Nat) (unit : Nat) (slice : Nat)
  /-- A slice finishes its exit and passes or fails. (R598) -/
  | tinkerSliceEnd (d : Nat) (unit : Nat) (ok : Bool) (diff : Nat)
  /-- A unit's test interval lapses, and the overdue policy is applied. (R604) -/
  | testOverdue (d : Nat) (unit : Nat)
  /-- An error record reaches the supervisor and is written to the ring or held. (R640) -/
  | errorRecord (d : Nat)
  /-- Every 10 µs a die estimates its power and inserts idle cycles to keep its share. (R689) -/
  | powerEstimate (d : Nat) (est : Nat) (idle : Bool)
  /-- Every 1 ms the supervisor divides PWR_CAP among the dies. (R690) -/
  | powerDivision
  /-- Every 100 µs a die senses its temperature and throttles or shuts down. (R693) -/
  | thermalSample (d : Nat) (temp : Nat)
  /-- 10 ms after throttling ends, ALERT_N is released. (R694) -/
  | alertRelease
  /-- An armed heartbeat times out; HEARTBEAT_LOST is logged and HEALTHY falls. (R590) -/
  | heartbeatLost
  /-- 10 µs after every HEALTHY condition holds again, HEALTHY rises. (R592) -/
  | healthyRise
  /-- PORST_N is released, the straps are sampled and start-up begins. (R701) -/
  | powerOnReset (straps : Nat) (second : Nat := straps) (third : Nat := straps)
  /-- The root PLL locks, and the clock dividers start aligned. (R677) -/
  | rootPllLock
  /-- The Umlin and host links finish training, and die 0 starts the GTC. (R701) -/
  | linkTrainingDone (k : Nat) (rate : Nat) (x32 : Bool) (cache : Bool)
  /-- A die receives the GTC start message and loads its GTC. (R546) -/
  | gtcStart
  /-- The HBM stacks finish training and initialisation, and the boot mailbox opens. (R701) -/
  | memReady (hv : HostView)
  /-- A PPS_IN edge is latched, loads the GTC if armed, or is rejected as implausible. (R547) -/
  | ppsEdge
  /-- No valid PPS edge for 640,000,000 counts sets PPS_LOST. (R547) -/
  | ppsLost
  /-- A filtered TAMPER_N input wipes the Vaults and drops HEALTHY. (R674) -/
  | tamper (i : Nat)
  /-- A voltage or clock glitch detection wipes the Vaults and drops HEALTHY. (R674) -/
  | glitch
  /-- A die finishes unwrapping its device key into the Vault and sets key_ready. (R670) -/
  | keyUnwrap (d : Nat) (held : Bool := false)
  /-- 400 µs after RP_RST_N is released, the trace memory is identified and configured. (R718) -/
  | traceMemoryInit (ok : Bool) (density : Nat)
  /-- A trace-memory read with no strobe edge is abandoned, and RP_ERROR is set. (R713) -/
  | rpReadTimeout
  /-- Three failed AVSBus frames make the die treat its rail as 0.75 V. (R722) -/
  | avsFallback (d : Nat) (readback : Nat)
  /-- PORST_N held low beyond its 1 µs filter puts the whole package into power-on reset, releasing outputs to high impedance and losing all state but fuses. (R696) -/
  | porstNAssert
  /-- A host link that left the active state finishes retraining within HPT_RETRAIN_LIMIT and becomes active again, or becomes trained so a failed port can be re-enabled. (R406) -/
  | linkRetrained (k : Nat) (rate : Nat := 5) (x32 : Bool := true) (cache : Bool := true)
  /-- A TCK edge, or TRST_N going low, advances or resets the IEEE 1149.1 TAP chain of the dies, including EXTEST driving of pins. (R720) -/
  | testPortCycle (tms : Bool) (tdi : Bool) (trst : Bool)
  /-- The GTC reaches INJ_AT of an armed slot with at_gtc set, and the slot's first injection fires. (R650) -/
  | atGtcInjection (d : Nat) (i : Nat)
  /-- A declared reservation window closes, and a write to its start, period, length or units that arrived while it was open takes effect. (R570) -/
  | safetyWindowClose (i : Nat)
  /-- GTC bits [63:40] change, and each die writes a TIME trace record. (R531) -/
  | timeRecord (d : Nat)
  /-- A surviving holder's copy of sync-object state and key entries, or envelope-channel state, arrives at the new second holder, ending the exposure of R480 and R617. (R465) -/
  | syncHolderCopy (o : Nat)
  /-- The SCRATCHPAD tensors a DIVERSE stage reads arrive over Umlin at its chosen cluster, or its written tensors arrive back in logical cluster 0's region. (R578) -/
  | diverseRegionCopy (q : Nat) (s : Nat) (st : Nat) (back : Bool)
  deriving DecidableEq, Repr

end Sys2Proof
end

