-- ==== Sys2Proof/Decode.lean ====
section
/-!
DEFINITION. Commands from words: no row of the table of operations and events gives bits (its field lists are empty),
so no word spells a command.
-/
namespace Sys2Proof

/-- The command that a word spells by the table's bits: none, since no row gives any. -/
def decodeTableWord (_nbits _w : Nat) : Option Instr := none

end Sys2Proof
end

