-- ==== Sys2Proof/Machine/Memory.lean ====
section
/-!
DEFINITION. Byte-addressed memory: a list of (address, byte) cells in one canonical form, addresses strictly rising
and no cell holding the value an unlisted address reads as, which is 0 (assumption 7).
-/
namespace Sys2Proof.Machine

/-- A memory: sparse cells by address. -/
abbrev Memory := List Host.Cell

/-- What an address without a cell reads as (assumption 7). -/
def Memory.unlisted : Byte := 0

/-- The canonical form: addresses strictly rising from `lo`, no cell equal to an unlisted one. -/
def Memory.wfFrom : Nat → Memory → Bool
  | _, [] => true
  | lo, (a, b) :: m => decide (lo ≤ a) && decide (b ≠ Memory.unlisted) && Memory.wfFrom (a + 1) m

/-- The canonical form. -/
def Memory.wf (m : Memory) : Bool := Memory.wfFrom 0 m

/-- The byte at an address. -/
def Memory.get : Memory → Nat → Byte
  | [], _ => Memory.unlisted
  | (x, v) :: m, a => if a = x then v else if a < x then Memory.unlisted else Memory.get m a

/-- A memory with the byte at an address replaced. -/
def Memory.set : Memory → Nat → Byte → Memory
  | [], a, b => if b = Memory.unlisted then [] else [(a, b)]
  | (x, v) :: m, a, b =>
    if a < x then (if b = Memory.unlisted then (x, v) :: m else (a, b) :: (x, v) :: m)
    else if a = x then (if b = Memory.unlisted then m else (a, b) :: m)
    else (x, v) :: Memory.set m a b

/-- `n` bytes from an address. -/
def Memory.read (m : Memory) (a n : Nat) : List Byte := tabulate n (fun i => m.get (a + i))

/-- A memory with bytes written from an address on. -/
def Memory.write (m : Memory) (a : Nat) : List Byte → Memory
  | [] => m
  | b :: bs => Memory.write (m.set a b) (a + 1) bs

/-- A little-endian value of `n` bytes. -/
def Memory.readLE (m : Memory) (a n : Nat) : Nat := leNat (m.read a n)

/-- Write `n` bytes of a value, little-endian. -/
def Memory.writeLE (m : Memory) (a n v : Nat) : Memory := m.write a (natLE n v)

/-- `n` bytes from an address set to 0: their cells leave the list. -/
def Memory.clear (m : Memory) (a n : Nat) : Memory := m.filter (fun c => c.1 < a || a + n ≤ c.1)

/-! ### Sparse maps by key, sorted -/

/-- A map from keys to values as a list with keys strictly rising. -/
abbrev KMap (α : Type) := List (Nat × α)

/-- The keys rise strictly from `lo`. -/
def KMap.wfFrom {α : Type} : Nat → KMap α → Bool
  | _, [] => true
  | lo, (k, _) :: m => decide (lo ≤ k) && KMap.wfFrom (k + 1) m

/-- The canonical form of a map. -/
def KMap.wf {α : Type} (m : KMap α) : Bool := KMap.wfFrom 0 m

/-- The value at a key. -/
def KMap.get {α : Type} : KMap α → Nat → Option α
  | [], _ => none
  | (k, v) :: m, a => if a = k then some v else if a < k then none else KMap.get m a

/-- The value at a key, with the value an absent key stands for. -/
def KMap.getD {α : Type} (m : KMap α) (a : Nat) (d : α) : α := (KMap.get m a).getD d

/-- A map with a key set. -/
def KMap.insert {α : Type} : KMap α → Nat → α → KMap α
  | [], a, v => [(a, v)]
  | (k, w) :: m, a, v =>
    if a < k then (a, v) :: (k, w) :: m
    else if a = k then (a, v) :: m
    else (k, w) :: KMap.insert m a v

/-- A map with a key removed. -/
def KMap.erase {α : Type} (m : KMap α) (a : Nat) : KMap α := m.filter (fun e => e.1 ≠ a)

/-- A map with the value at a key changed, where the key is present. -/
def KMap.update {α : Type} (m : KMap α) (a : Nat) (f : α → α) : KMap α :=
  m.map (fun e => if e.1 = a then (e.1, f e.2) else e)

/-- The values, by rising key. -/
def KMap.values {α : Type} (m : KMap α) : List α := m.map Prod.snd

end Sys2Proof.Machine
end

