-- ==== Sys2Proof/Machine/Numbers.lean ====
section
/-!
DEFINITION. Number formats (R94 to R124, R745, R751): the value of every bit pattern, exact arithmetic on values,
rounding, conversions, block scales, intervals and the four numeric flags.
-/
namespace Sys2Proof.Machine

/-! ### Values -/

/-- The value of a point element: NaN, a signed infinity, a signed zero (R101) or a finite non-zero real. -/
inductive Val where
  | nan
  | inf (neg : Bool)
  | zero (neg : Bool)
  | fin (q : Rat)
  deriving DecidableEq, Repr

/-- The four sticky numeric flags of a job (R117). -/
structure NumFlags where
  nv : Bool
  of : Bool
  sat : Bool
  ivw : Bool
  deriving DecidableEq, Repr

/-- No flag set. -/
def NumFlags.none : NumFlags := ⟨false, false, false, false⟩

/-- R117: NV where a result holds a NaN and the operands hold none; `ins` and `outs` say whether each holds one. -/
def NumFlags.noteNaN (f : NumFlags) (ins outs : Bool) : NumFlags := { f with nv := f.nv || (outs && !ins) }

/-- The union of two sets of flags. -/
def NumFlags.merge (a b : NumFlags) : NumFlags :=
  ⟨a.nv || b.nv, a.of || b.of, a.sat || b.sat, a.ivw || b.ivw⟩

/-- A computation that may raise numeric flags. -/
abbrev NumM := StateM NumFlags

/-- Set NV. -/
def raiseNV : NumM Unit := modify fun f => { f with nv := true }
/-- Set OF. -/
def raiseOF : NumM Unit := modify fun f => { f with of := true }
/-- Set SAT. -/
def raiseSAT : NumM Unit := modify fun f => { f with sat := true }
/-- Set IVW. -/
def raiseIVW : NumM Unit := modify fun f => { f with ivw := true }

/-- Run a computation from no flags. -/
def NumM.runFlags {α : Type} (x : NumM α) : α × NumFlags := x NumFlags.none

/-- Two to an integer power. -/
def pow2 (e : Int) : Rat :=
  match e with
  | .ofNat n => ((2 ^ n : Nat) : Rat)
  | .negSucc n => mkRat 1 (2 ^ (n + 1))

/-- The magnitude of a rational. -/
def ratAbs (q : Rat) : Rat := if q < 0 then -q else q

/-- `⌊log2 q⌋` of a positive rational. -/
def ilog2 (q : Rat) : Int :=
  let e : Int := (Nat.log2 q.num.natAbs : Int) - (Nat.log2 q.den : Int)
  if pow2 e ≤ q then e else e - 1

/-- The value of a rational: a zero is +0. -/
def Val.ofRat (q : Rat) : Val := if q = 0 then .zero false else .fin q

/-- The value of an integer. -/
def Val.ofInt (i : Int) : Val := Val.ofRat (i : Rat)

/-- NaN. -/
def Val.isNan : Val → Bool
  | .nan => true
  | _ => false

/-- An infinity. -/
def Val.isInf : Val → Bool
  | .inf _ => true
  | _ => false

/-- Neither NaN nor an infinity. -/
def Val.isFinite : Val → Bool
  | .zero _ => true
  | .fin _ => true
  | _ => false

/-- The sign bit (NaN counts as positive: R99 propagates no sign). -/
def Val.isNeg : Val → Bool
  | .nan => false
  | .inf n => n
  | .zero n => n
  | .fin q => decide (q < 0)

/-- The real value of a finite value (0 for the others). -/
def Val.toRat : Val → Rat
  | .fin q => q
  | _ => 0

/-- Negation. -/
def Val.neg : Val → Val
  | .nan => .nan
  | .inf n => .inf (!n)
  | .zero n => .zero (!n)
  | .fin q => .fin (-q)

/-- Magnitude. -/
def Val.abs : Val → Val
  | .nan => .nan
  | .inf _ => .inf false
  | .zero _ => .zero false
  | .fin q => .fin (ratAbs q)

/-- The order of non-NaN values; −0 and +0 are equal (R101, R103). A NaN is below nothing. -/
def Val.lt : Val → Val → Bool
  | .nan, _ => false
  | _, .nan => false
  | .inf true, .inf true => false
  | .inf true, _ => true
  | _, .inf true => false
  | .inf false, _ => false
  | _, .inf false => true
  | a, b => decide (a.toRat < b.toRat)

/-- Equality in the sense of R103: false when either is NaN, true of −0 and +0. -/
def Val.eq (a b : Val) : Bool := !a.isNan && !b.isNan && !Val.lt a b && !Val.lt b a

/-- Less than or equal in the sense of R103. -/
def Val.le (a b : Val) : Bool := Val.lt a b || Val.eq a b

/-- R102: minimum. -/
def Val.min (a b : Val) : Val :=
  if a.isNan || b.isNan then .nan
  else if Val.lt a b then a
  else if Val.lt b a then b
  else if a.isNeg then a else b

/-- R102: maximum. -/
def Val.max (a b : Val) : Val :=
  if a.isNan || b.isNan then .nan
  else if Val.lt a b then b
  else if Val.lt b a then a
  else if a.isNeg then b else a

/-! ### Formats -/

/-- The storage formats of R94, in the order of their codes. -/
inductive Fmt where
  | fp32 | fp16 | bf16 | e4m3 | e5m2 | int8 | int4 | iv16
  deriving DecidableEq, Repr

/-- R94: the format of a code; the reserved codes name none. -/
def Fmt.ofCode : Nat → Option Fmt
  | 0 => some .fp32
  | 1 => some .fp16
  | 2 => some .bf16
  | 3 => some .e4m3
  | 4 => some .e5m2
  | 5 => some .int8
  | 6 => some .int4
  | 7 => some .iv16
  | _ => none

/-- R94: the width of an element in bits. -/
def Fmt.bits : Fmt → Nat
  | .fp32 => 32
  | .fp16 => 16
  | .bf16 => 16
  | .e4m3 => 8
  | .e5m2 => 8
  | .int8 => 8
  | .int4 => 4
  | .iv16 => 32

/-- The formats INT8 and INT4. -/
def Fmt.isInt : Fmt → Bool
  | .int8 => true
  | .int4 => true
  | _ => false

/-- The parameters of a floating-point format (R95): mantissa bits, exponent bits, the exponent of the smallest
subnormal, the largest finite magnitude, and whether the format has infinities. -/
structure FloatFmt where
  mant : Nat
  expBits : Nat
  qmin : Int
  largest : Rat
  hasInf : Bool
  deriving DecidableEq, Repr

/-- R95: binary32. -/
def f32 : FloatFmt := ⟨23, 8, -149, (2 ^ 128 - 2 ^ 104 : Nat), true⟩
/-- R95: binary16. -/
def f16 : FloatFmt := ⟨10, 5, -24, 65504, true⟩
/-- R95: the upper half of binary32. -/
def fbf16 : FloatFmt := ⟨7, 8, -133, (2 ^ 128 - 2 ^ 120 : Nat), true⟩
/-- R95: OCP E4M3, which has no infinity. -/
def fe4m3 : FloatFmt := ⟨3, 4, -9, 448, false⟩
/-- R95: OCP E5M2. -/
def fe5m2 : FloatFmt := ⟨2, 5, -16, 57344, true⟩

/-- The floating-point parameters of a format, none for the integer formats and IV16. -/
def Fmt.float : Fmt → Option FloatFmt
  | .fp32 => some f32
  | .fp16 => some f16
  | .bf16 => some fbf16
  | .e4m3 => some fe4m3
  | .e5m2 => some fe5m2
  | _ => none

/-- The exponent bias of a floating-point format. -/
def FloatFmt.bias (f : FloatFmt) : Nat := 2 ^ (f.expBits - 1) - 1

/-- The value of a bit pattern of a floating-point format (R95, R98). -/
def FloatFmt.decode (f : FloatFmt) (b : Nat) : Val :=
  let m := b % 2 ^ f.mant
  let e := b / 2 ^ f.mant % 2 ^ f.expBits
  let neg := b / 2 ^ (f.mant + f.expBits) % 2 = 1
  let sgn : Rat := if neg then -1 else 1
  if f.hasInf && e = 2 ^ f.expBits - 1 then
    (if m = 0 then .inf neg else .nan)
  else if !f.hasInf && e = 2 ^ f.expBits - 1 && m = 2 ^ f.mant - 1 then .nan
  else if e = 0 then
    (if m = 0 then .zero neg else .fin (sgn * m * pow2 f.qmin))
  else .fin (sgn * ((2 ^ f.mant + m : Nat) : Rat) * pow2 (f.qmin + (e : Int) - 1))

/-- The canonical NaN of a format (R99). -/
def FloatFmt.nanBits (f : FloatFmt) : Nat :=
  if f.hasInf then (2 ^ f.expBits - 1) * 2 ^ f.mant + 2 ^ (f.mant - 1)
  else 2 ^ (f.mant + f.expBits) - 1

/-- The bit pattern of a value the format holds (R95, R99). -/
def FloatFmt.encode (f : FloatFmt) (v : Val) : Nat :=
  let s (n : Bool) : Nat := if n then 2 ^ (f.mant + f.expBits) else 0
  match v with
  | .nan => f.nanBits
  | .inf n => s n + (if f.hasInf then (2 ^ f.expBits - 1) * 2 ^ f.mant else 2 ^ (f.mant + f.expBits) - 1)
  | .zero n => s n
  | .fin q =>
    let a := ratAbs q
    let qe := Max.max (ilog2 a - (f.mant : Int)) f.qmin
    let k := (a * pow2 (-qe)).floor.toNat
    s (decide (q < 0)) + (qe - f.qmin).toNat * 2 ^ f.mant + k

/-! ### Rounding -/

/-- R109: the four rounding modes. -/
inductive RMode where
  | rne | rtz | rdn | rup
  deriving DecidableEq, Repr

/-- R109: the mode of an `rmode` field (values above 3 are refused at LOAD_PLAN). -/
def RMode.ofCode : Nat → RMode
  | 0 => .rne
  | 1 => .rtz
  | 2 => .rdn
  | _ => .rup

/-- A non-negative rational rounded to an integer; `neg` is the sign of the value it is the magnitude of. -/
def roundMag (mode : RMode) (neg : Bool) (a : Rat) : Nat :=
  let k := a.floor.toNat
  let r := a - (k : Rat)
  let up : Bool := match mode with
    | .rne => decide ((1 : Rat) / 2 < r) || (decide (r = (1 : Rat) / 2) && k % 2 = 1)
    | .rtz => false
    | .rdn => neg && decide (r ≠ 0)
    | .rup => !neg && decide (r ≠ 0)
  if up then k + 1 else k

/-- A rational rounded to an integer in `mode`. -/
def roundInt (mode : RMode) (q : Rat) : Int :=
  let n := roundMag mode (decide (q < 0)) (ratAbs q)
  if q < 0 then -(n : Int) else n

/-- A non-zero rational rounded once with the precision and the smallest quantum of `f` and an unbounded exponent
range above (R100, R110). -/
def FloatFmt.roundUnbounded (f : FloatFmt) (mode : RMode) (q : Rat) : Rat :=
  let a := ratAbs q
  let qe := Max.max (ilog2 a - (f.mant : Int)) f.qmin
  let k := roundMag mode (decide (q < 0)) (a * pow2 (-qe))
  let r := (k : Rat) * pow2 qe
  if q < 0 then -r else r

/-- How an out-of-range result is written where `sat` = 0 (R115): towards zero ±max, otherwise an infinity, or NaN
in a format without one. -/
def FloatFmt.overflow (f : FloatFmt) (mode : RMode) (neg : Bool) : Val :=
  let toZero : Bool := match mode with
    | .rne => false
    | .rtz => true
    | .rdn => !neg
    | .rup => neg
  if toZero then .fin (if neg then -f.largest else f.largest)
  else if f.hasInf then .inf neg else .nan

/-- A rational rounded once into `f` (R110, R115). A result that rounds to zero keeps the sign `zneg` where the
exact value is zero and the sign of the value otherwise. Overflow sets OF, or SAT where `sat` is set (R117); a NaN
that stands for an overflow sets NV. -/
def FloatFmt.round (f : FloatFmt) (mode : RMode) (sat : Bool) (q : Rat) (zneg : Bool := false) : NumM Val :=
  if q = 0 then pure (.zero zneg)
  else
    let r := f.roundUnbounded mode q
    if r = 0 then pure (.zero (decide (q < 0)))
    else if f.largest < ratAbs r then
      if sat then do
        raiseSAT
        pure (.fin (if q < 0 then -f.largest else f.largest))
      else do
        raiseOF
        let v := f.overflow mode (decide (q < 0))
        if v.isNan then raiseNV
        pure v
    else pure (.fin r)

/-! ### Exact arithmetic on values -/

/-- An exact product (R105); 0 × ∞ is NaN. -/
def Val.mul (a b : Val) : Val :=
  let n := xor a.isNeg b.isNeg
  match a, b with
  | .nan, _ => .nan
  | _, .nan => .nan
  | .zero _, .inf _ => .nan
  | .inf _, .zero _ => .nan
  | .inf _, _ => .inf n
  | _, .inf _ => .inf n
  | .zero _, _ => .zero n
  | _, .zero _ => .zero n
  | .fin p, .fin q => .fin (p * q)

/-- A value times an exact power of two. -/
def Val.scale (a : Val) (e : Int) : Val :=
  match a with
  | .fin q => .fin (q * pow2 e)
  | v => v

/-- An exact sum (R101): an exact zero of operands with opposite signs is +0, or −0 when rounding down; ∞ − ∞ is
NaN. -/
def Val.add (mode : RMode) (a b : Val) : Val :=
  match a, b with
  | .nan, _ => .nan
  | _, .nan => .nan
  | .inf m, .inf n => if m = n then .inf m else .nan
  | .inf m, _ => .inf m
  | _, .inf n => .inf n
  | .zero m, .zero n => .zero (if m = n then m else decide (mode = .rdn))
  | .zero _, v => v
  | v, .zero _ => v
  | .fin p, .fin q => if p + q = 0 then .zero (decide (mode = .rdn)) else .fin (p + q)

/-- An exact value rounded into `f`, infinities and zeros kept (`sat` = 0 for a computed result). -/
def FloatFmt.roundVal (f : FloatFmt) (mode : RMode) (v : Val) : NumM Val :=
  match v with
  | .fin q => f.round mode false q
  | .inf n => if f.hasInf then pure (.inf n) else do raiseNV; pure .nan
  | v => pure v

/-- A result computed from `ins`, whose exact value is `v`: rounded once, NV set for a NaN of operands that hold
none (R117). -/
def FloatFmt.result (f : FloatFmt) (mode : RMode) (ins : List Val) (v : Val) : NumM Val := do
  if v.isNan then
    if ins.any Val.isNan then pure .nan else do raiseNV; pure .nan
  else f.roundVal mode v

/-- A correctly rounded sum. -/
def FloatFmt.add (f : FloatFmt) (a b : Val) (mode : RMode := .rne) : NumM Val :=
  f.result mode [a, b] (Val.add mode a b)

/-- A correctly rounded difference. -/
def FloatFmt.sub (f : FloatFmt) (a b : Val) (mode : RMode := .rne) : NumM Val :=
  f.result mode [a, b] (Val.add mode a b.neg)

/-- A correctly rounded product. -/
def FloatFmt.mul (f : FloatFmt) (a b : Val) (mode : RMode := .rne) : NumM Val :=
  f.result mode [a, b] (Val.mul a b)

/-- A fused multiply-add, one rounding. -/
def FloatFmt.fma (f : FloatFmt) (a b c : Val) (mode : RMode := .rne) : NumM Val :=
  f.result mode [a, b, c] (Val.add mode (Val.mul a b) c)

/-- The exact quotient: 0/0 and ∞/∞ are NaN, x/0 an infinity, x/∞ a zero. -/
def Val.div (a b : Val) : Val :=
  let n := xor a.isNeg b.isNeg
  match a, b with
  | .nan, _ => .nan
  | _, .nan => .nan
  | .inf _, .inf _ => .nan
  | .zero _, .zero _ => .nan
  | .inf _, _ => .inf n
  | _, .inf _ => .zero n
  | .zero _, _ => .zero n
  | _, .zero _ => .inf n
  | .fin p, .fin q => .fin (p / q)

/-- A correctly rounded quotient (R110). -/
def FloatFmt.div (f : FloatFmt) (a b : Val) (mode : RMode := .rne) : NumM Val :=
  f.result mode [a, b] (Val.div a b)

/-- The integer square root by bisection, one bit a round. -/
def isqrtAux (n : Nat) : Nat → Nat → Nat
  | 0, r => r
  | k + 1, r =>
    let r' := r + 2 ^ k
    isqrtAux n k (if r' * r' ≤ n then r' else r)

/-- `⌊√n⌋`. -/
def isqrt (n : Nat) : Nat := isqrtAux n (Nat.log2 n / 2 + 1) 0

/-- A rational that every rounding rounds as it rounds `√q`: the root itself where it is a multiple of 2^−320, else
the middle of the two multiples of 2^−320 around it, between which no value of a format and no tie lies. -/
def sqrtRat (q : Rat) : Rat :=
  let s := q * pow2 640
  let n := s.floor.toNat
  let r := isqrt n
  if ((r * r : Nat) : Rat) = s then (r : Rat) * pow2 (-320) else ((2 * r + 1 : Nat) : Rat) * pow2 (-321)

/-! ### Conversions (R114 to R116) -/

/-- The range of an integer format (R96). -/
def Fmt.intRange : Fmt → Int × Int
  | .int4 => (-8, 7)
  | _ => (-128, 127)

/-- A value rounded to an integer and saturated to `lo .. hi` (R114, R116, R744). -/
def convertInt (lo hi : Int) (mode : RMode) (v : Val) : NumM Int :=
  match v with
  | .nan => do raiseNV; pure 0
  | .inf true => do raiseSAT; pure lo
  | .inf false => do raiseSAT; pure hi
  | .zero _ => pure 0
  | .fin q =>
    let i := roundInt mode q
    if i < lo then do raiseSAT; pure lo
    else if hi < i then do raiseSAT; pure hi
    else pure i

/-- A conversion to a floating-point format under `rmode` and `sat` (R114, R115). -/
def FloatFmt.convert (f : FloatFmt) (mode : RMode) (sat : Bool) (v : Val) : NumM Val :=
  match v with
  | .fin q => f.round mode sat q
  | .inf n =>
    if sat then do
      raiseSAT
      pure (.fin (if n then -f.largest else f.largest))
    else f.roundVal mode v
  | v => pure v

/-- The two's complement pattern of an integer in `bits` bits. -/
def intBits (bits : Nat) (i : Int) : Nat := (i % ((2 ^ bits : Nat) : Int)).toNat

/-- The integer of a two's complement pattern. -/
def bitsInt (bits b : Nat) : Int :=
  let b := b % 2 ^ bits
  if 2 ^ (bits - 1) ≤ b then (b : Int) - ((2 ^ bits : Nat) : Int) else b

/-- The value of a pattern of a point format (R95, R96). -/
def Fmt.decode (f : Fmt) (b : Nat) : Val :=
  match f.float with
  | some g => g.decode b
  | none => Val.ofInt (bitsInt f.bits b)

/-- A value converted to a point format and written as its pattern (R114 to R116). An integer to an integer format, which the table
of R114 does not list, is rounded and saturated as a float would be, with SAT (DESIGN CHOICE, log entry 28). -/
def Fmt.convert (f : Fmt) (mode : RMode) (sat : Bool) (v : Val) : NumM Nat :=
  match f.float with
  | some g => do pure (g.encode (← g.convert mode sat v))
  | none => do
    let (lo, hi) := f.intRange
    pure (intBits f.bits (← convertInt lo hi mode v))

/-! ### Block scales (R111 to R113) -/

/-- R112: the constant E_f of a block-scaled output format. -/
def Fmt.blockConst : Fmt → Int
  | .int8 => 6
  | .int4 => 2
  | .e4m3 => 8
  | _ => 15

/-- R111: the exponent of a scale byte, none for the reserved byte 0x80. -/
def scaleExp (b : Nat) : Option Int := if b = 0x80 then none else some (bitsInt 8 b)

/-- R111: a block element of stored value `v` under the scale byte `b`. -/
def scaleVal (v : Val) (b : Nat) : Val :=
  match scaleExp b with
  | none => .nan
  | some e => v.scale e

/-- R112: the exponent of a block of values, and whether it was clamped to 127. -/
def blockExp (f : Fmt) (xs : List Val) : Int × Bool :=
  let m := xs.foldl (fun m v => match v with
    | .fin q => if m < ratAbs q then ratAbs q else m
    | _ => m) (0 : Rat)
  if m = 0 then (0, false)
  else
    let e := ilog2 m - f.blockConst
    (Max.max (-127) (Min.min 127 e), decide (127 < e ∨ e < -127))

/-- The largest finite magnitude of a block-scaled output format on the side of a sign. -/
def Fmt.blockMax (f : Fmt) (neg : Bool) : Rat :=
  match f.float with
  | some g => g.largest
  | none => if neg then -((f.intRange.1 : Int) : Rat) else (f.intRange.2 : Rat)

/-- R113: whether a finite scaled value, rounded, lies outside the finite range of the format. -/
def Fmt.blockOver (f : Fmt) (mode : RMode) (q : Rat) : Bool :=
  match f.float with
  | some g => decide (q ≠ 0 ∧ g.largest < ratAbs (g.roundUnbounded mode q))
  | none => decide (roundInt mode q < f.intRange.1 ∨ f.intRange.2 < roundInt mode q)

/-- One element of a block-scaled output (R112, R113). -/
def blockElem (f : Fmt) (mode : RMode) (sat clamped : Bool) (e : Int) (v : Val) : NumM Nat :=
  match v.scale (-e) with
  | .fin q =>
    if !clamped && f.blockOver mode q then
      let neg := decide (q < 0)
      let m := f.blockMax neg
      f.convert .rne false (.fin (if neg then -m else m))
    else f.convert mode sat (.fin q)
  | v => f.convert mode sat v

/-- One block of a block-scaled output: the scale byte and the element patterns (R112, R113). -/
def writeBlock (f : Fmt) (mode : RMode) (sat : Bool) (xs : List Val) : NumM (Nat × List Nat) := do
  let (e, clamped) := blockExp f xs
  let ps ← xs.mapM (blockElem f mode sat clamped e)
  pure (intBits 8 e, ps)

/-! ### Intervals (R97, R118 to R124, R751) -/

/-- An interval by its endpoints. -/
structure Iv where
  lo : Val
  hi : Val
  deriving DecidableEq, Repr

/-- The whole line (R119). -/
def Iv.whole : Iv := ⟨.inf true, .inf false⟩

/-- R119: a zero endpoint is written as +0. -/
def plusZero : Val → Val
  | .zero _ => .zero false
  | v => v

/-- R118: an interval the device may read as it stands. -/
def Iv.valid (a : Iv) : Bool :=
  !a.lo.isNan && !a.hi.isNan && Val.le a.lo a.hi && decide (a.lo ≠ .inf false) && decide (a.hi ≠ .inf true)

/-- R118: an interval operand as the device reads it. -/
def Iv.read (a : Iv) : NumM Iv := if a.valid then pure a else do raiseIVW; pure Iv.whole

/-- R751: the interval a point operand stands for; `f` is the operand's own format. -/
def Iv.ofPoint (largest : Rat) (v : Val) : NumM Iv :=
  match v with
  | .nan => do raiseIVW; pure Iv.whole
  | .inf false => pure ⟨.fin largest, .inf false⟩
  | .inf true => pure ⟨.inf true, .fin (-largest)⟩
  | v => pure ⟨v, v⟩

/-- R121: an endpoint product, 0 × ∞ being 0. -/
def endpointMul (a b : Val) : Val :=
  match Val.mul a b with
  | .nan => .zero false
  | v => v

/-- R122, R123: exact endpoints rounded outward into `f`. `whole` says that an operand was the whole line. -/
def Iv.outward (f : FloatFmt) (whole : Bool) (lo hi : Val) : NumM Iv := do
  if lo.isNan || hi.isNan then
    raiseIVW
    pure Iv.whole
  else
    let r (mode : RMode) (v : Val) : Val := match v with
      | .fin q =>
        let u := f.roundUnbounded mode q
        if u = 0 then .zero false
        else if f.largest < ratAbs u then f.overflow mode (decide (q < 0)) else .fin u
      | v => plusZero v
    let i : Iv := ⟨r .rdn lo, r .rup hi⟩
    if i = Iv.whole && !whole then raiseIVW
    pure i

/-- The exact product interval of R120: the least and the greatest endpoint product. -/
def Iv.mulExact (a b : Iv) : Val × Val :=
  let ps := [endpointMul a.lo b.lo, endpointMul a.lo b.hi, endpointMul a.hi b.lo, endpointMul a.hi b.hi]
  (ps.foldl Val.min (.inf false), ps.foldl Val.max (.inf true))

/-- R120: whether either operand is the whole line. -/
def Iv.anyWhole (a b : Iv) : Bool := decide (a = Iv.whole) || decide (b = Iv.whole)

/-- R120: a + b. -/
def Iv.add (f : FloatFmt) (a b : Iv) : NumM Iv :=
  Iv.outward f (a.anyWhole b) (Val.add .rdn a.lo b.lo) (Val.add .rup a.hi b.hi)

/-- R120: a − b. -/
def Iv.sub (f : FloatFmt) (a b : Iv) : NumM Iv :=
  Iv.outward f (a.anyWhole b) (Val.add .rdn a.lo b.hi.neg) (Val.add .rup a.hi b.lo.neg)

/-- R120: −a. -/
def Iv.neg (a : Iv) : Iv := ⟨plusZero a.hi.neg, plusZero a.lo.neg⟩

/-- R120: a × b. -/
def Iv.mul (f : FloatFmt) (a b : Iv) : NumM Iv :=
  let (lo, hi) := a.mulExact b
  Iv.outward f (a.anyWhole b) lo hi

/-- R120: a × 2^k. -/
def Iv.scale (f : FloatFmt) (a : Iv) (k : Int) : NumM Iv :=
  Iv.outward f (decide (a = Iv.whole)) (a.lo.scale k) (a.hi.scale k)

/-- R120: acc + a × b, the product exact. -/
def Iv.accumulate (f : FloatFmt) (acc a b : Iv) : NumM Iv :=
  let (lo, hi) := a.mulExact b
  Iv.outward f (decide (acc = Iv.whole) || a.anyWhole b) (Val.add .rdn acc.lo lo) (Val.add .rup acc.hi hi)

/-- R120: ReLU. -/
def Iv.relu (a : Iv) : Iv := ⟨plusZero (Val.max a.lo (.zero false)), plusZero (Val.max a.hi (.zero false))⟩

/-- R120: endpoint-wise minimum. -/
def Iv.min (a b : Iv) : Iv := ⟨plusZero (Val.min a.lo b.lo), plusZero (Val.min a.hi b.hi)⟩

/-- R120: endpoint-wise maximum. -/
def Iv.max (a b : Iv) : Iv := ⟨plusZero (Val.max a.lo b.lo), plusZero (Val.max a.hi b.hi)⟩

/-- R114: a point value converted to IV16. -/
def Iv.convert (v : Val) : NumM Iv :=
  match v with
  | .nan => do raiseIVW; pure Iv.whole
  | .inf false => pure ⟨.fin f16.largest, .inf false⟩
  | .inf true => pure ⟨.inf true, .fin (-f16.largest)⟩
  | v => Iv.outward f16 false v v

/-- R97: the endpoints of an IV16 word. -/
def Iv.decode (w : Nat) : Iv := ⟨f16.decode (w % 65536), f16.decode (w / 65536 % 65536)⟩

/-- R97, R119: the IV16 word of an interval of binary16 endpoints. -/
def Iv.encode (a : Iv) : Nat := f16.encode (plusZero a.lo) + 65536 * f16.encode (plusZero a.hi)

end Sys2Proof.Machine
end

