-- ==== Sys2Proof/Machine/Lattice.lean ====
section
/-!
DEFINITION. The world lattice (R207 to R249): the copy of a world that a die holds, the lookup of R217, delta lists,
settlement, the refusals of R238, reclamation, and moving-obstacle tables.
-/
namespace Sys2Proof.Machine

/-- All ones: an entry that remains valid in the newest version (R213). -/
def vAll : Nat := 2 ^ 64 - 1

/-- An L0 entry (R215): the list of a cell's entries, newest first, stands for the `older` chain. -/
structure L0Ent where
  d0 : Nat
  kind : Nat
  vFrom : Nat
  deriving DecidableEq, Repr

/-- An L1 entry (R213). `key` is x + 512 y + 262144 z; `state` 1 FREE, 2 SOLID, 3 BRICK. -/
structure L1Ent where
  key : Nat
  state : Nat
  bound : Nat
  brick : Nat
  vFrom : Nat
  vUntil : Nat
  deriving DecidableEq, Repr

/-- A moving-obstacle entry (R245). `kind` 0 SPHERE, 1 CAPSULE, 0xFF UNUSED. -/
structure Obstacle where
  kind : Nat
  agent : Nat
  radius : Val
  a0 : List Val
  b0 : List Val
  vel : List Val
  tStart : Val
  tEnd : Val
  grow : Val
  deriving DecidableEq, Repr

/-- A die's copy of a world: its header (R229), L0 entries (`l0Base` for every cell, `l0` for a cell of its own
index), L1 entries by place in the index (R221), brick pool by place (R213), obstacle tables by version (R245). -/
structure Lattice where
  header : List Byte
  l0Base : List L0Ent
  l0 : KMap (List L0Ent)
  l1 : KMap L1Ent
  pool : KMap (List Byte)
  tables : KMap (List Obstacle)
  deriving DecidableEq, Repr

/-- What the coarse level of a die's World Store holds of a world (R248): the newest L0 entry of the cells without entries of their own, that of
each other cell, and the entries of the obstacle table. -/
structure Coarse where
  l0Base : Option L0Ent
  l0 : KMap L0Ent
  obstacles : List Obstacle
  deriving DecidableEq, Repr

/-- A world with nothing in it. -/
def Lattice.blank (header : List Byte) : Lattice := ⟨header, [], [], [], [], []⟩

/-! ### The header (R229) -/

/-- s: the voxel is 2^s mm. -/
def Lattice.s (l : Lattice) : Nat := field l.header 0 1
/-- keep. -/
def Lattice.keep (l : Lattice) : Nat := field l.header 1 1
/-- Initial kind of every L0 cell. -/
def Lattice.l0Kind (l : Lattice) : Nat := field l.header 2 1
/-- b = index_log2. -/
def Lattice.indexLog2 (l : Lattice) : Nat := field l.header 3 1
/-- Extent in L0 cells along an axis. -/
def Lattice.n0 (l : Lattice) (ax : Nat) : Nat := field l.header (4 + 2 * ax) 2
/-- Initial d0. -/
def Lattice.d0Init (l : Lattice) : Nat := field l.header 10 2
/-- The origin along an axis, metres. -/
def Lattice.origin (l : Lattice) (ax : Nat) : Val := f32.decode (field l.header (12 + 4 * ax) 4)
/-- Brick pool capacity per die. -/
def Lattice.poolBricks (l : Lattice) : Nat := field l.header 0x18 4
/-- The `check` flag. -/
def Lattice.checkFlag (l : Lattice) : Bool := bit (field l.header 0x1C 4) 0
/-- Voxel size in metres. -/
def Lattice.voxel (l : Lattice) : Rat := ((2 ^ l.s : Nat) : Rat) / 1000
/-- Extent in voxels along an axis (R208). -/
def Lattice.extent (l : Lattice) (ax : Nat) : Nat := 64 * l.n0 ax
/-- Bricks in a pool partition (R238). -/
def Lattice.poolPart (l : Lattice) : Nat := ceilDiv l.poolBricks 32

/-- R229, R238: whether a world header is in range with its reserved fields zero. -/
def headerOk (h : List Byte) : Bool :=
  let n (i : Nat) := field h (4 + 2 * i) 2
  decide (h.length = 64 ∧ field h 0 1 ≤ 7 ∧ field h 1 1 ≤ 7 ∧ field h 2 1 ≤ 1 ∧ 4 ≤ field h 3 1 ∧ field h 3 1 ≤ 20) &&
    (List.range 3).all (fun i => decide (1 ≤ n i ∧ n i ≤ 64)) && decide (field h 10 2 < 0x8000) &&
    (List.range 3).all (fun i => (f32.decode (field h (12 + 4 * i) 4)).isFinite) &&
    decide (32 ≤ field h 0x18 4 ∧ field h 0x18 4 ≤ 16777216 ∧ field h 0x1C 4 ≤ 1) && (h.drop 0x20).all (· = 0)

/-- R231: the bytes of the world region a world takes on each die. -/
def worldBytes (h : List Byte) : Nat :=
  let n (i : Nat) := field h (4 + 2 * i) 2
  128 * (n 0 * n 1 * n 2) + 2 ^ (field h 3 1 + 13) + 32768 * ceilDiv (field h 0x18 4) 32 + 2097152

/-- R220: the slice an L0 cell is homed to. -/
def l0Home (w x y z : Nat) : Nat := (x + 5 * y + 25 * z + 7 * w) % 32

/-- R231: the bytes of the coarse-level reservation of slice `k`. -/
def coarseBytes (h : List Byte) (w k : Nat) : Nat :=
  let n (i : Nat) := field h (4 + 2 * i) 2
  let cells := (List.range (n 0)).foldl (fun c x => (List.range (n 1)).foldl (fun c y => (List.range (n 2)).foldl
    (fun c z => if l0Home w x y z = k then c + 1 else c) c) c) 0
  16 * cells + 8192

/-! ### Homing (R219, R221) -/

/-- The key of a brick. -/
def brickKey (x y z : Nat) : Nat := x + 512 * y + 262144 * z

/-- R219: the home pseudo-channel of a brick of world slot `w`. -/
def brickHome (w key : Nat) : Nat := (key % 512 + 5 * (key / 512 % 512) + 25 * (key / 262144) + 7 * w) % 32

/-- R221: the bucket of a key among 2^b. -/
def bucketOf (b key : Nat) : Nat := key * 0x9E3779B1 % 2 ^ 32 / 2 ^ (32 - b)

/-- The places of the probe window of a key, in bucket order and then entry order (R221, R222). -/
def probePlaces (b w key : Nat) : List Nat :=
  let base := brickHome w key * 2 ^ b
  (List.range 32).map (fun i => (base + (bucketOf b key + i / 8) % 2 ^ b) * 8 + i % 8)

/-- R220: the slice an obstacle slot is homed to. -/
def obstacleHome (n : Nat) : Nat := n % 32

/-! ### World Store lines (R249, R279) -/

/-- The line of a brick of world slot `w`: slot `b` of pseudo-channel `k`'s pool. -/
def brickLine (w k b : Nat) : Nat := (w * 32 + k) * 2 ^ 26 + b
/-- The line of a probe window of world slot `w`: from bucket `b` of pseudo-channel `k`'s index partition. -/
def windowLine (w k b : Nat) : Nat := (w * 32 + k) * 2 ^ 26 + 2 ^ 25 + b
/-- The slice of a line (R219). -/
def lineSlice (line : Nat) : Nat := line / 2 ^ 26 % 32
/-- The world slot of a line. -/
def lineWorld (line : Nat) : Nat := line / 2 ^ 31
/-- A line is a brick's. -/
def lineIsBrick (line : Nat) : Bool := decide (line % 2 ^ 26 < 2 ^ 25)

/-! ### Lookup (R217) -/

/-- The index of an L0 cell within a world. -/
def Lattice.cellIndex (l : Lattice) (x y z : Nat) : Nat := x + l.n0 0 * (y + l.n0 1 * z)

/-- The L0 entry of a cell that holds in version `v`: the newest of its own and the world-wide entries. -/
def Lattice.l0At (l : Lattice) (cell v : Nat) : L0Ent :=
  let own := (l.l0.getD cell []).find? (fun e => decide (e.vFrom ≤ v))
  let base := l.l0Base.find? (fun e => decide (e.vFrom ≤ v))
  match own, base with
  | some a, some b => if b.vFrom ≤ a.vFrom then a else b
  | some a, none => a
  | none, some b => b
  | none, none => ⟨0, 0, 0⟩

/-- The L1 entry of a key that is valid for version `v` (R213, R222). -/
def Lattice.l1At (l : Lattice) (key v : Nat) : Option (Nat × L1Ent) :=
  l.l1.find? (fun (_, e) => decide (e.key = key ∧ e.vFrom ≤ v ∧ v < e.vUntil))

/-- The content of a voxel (R217): outside, or occupied or free with a distance in v/256. -/
inductive Voxel where
  | outside
  | occupied (d : Nat)
  | free (d : Nat)
  deriving DecidableEq, Repr

/-- The voxel word of local voxel n of a brick (R212). -/
def brickWord (b : List Byte) (n : Nat) : Nat := field b (2 * n) 2

/-- The place of a pool brick: by home pseudo-channel and slot. -/
def Lattice.poolPlace (l : Lattice) (w key slot : Nat) : Nat := brickHome w key * l.poolPart + slot

/-- R217: voxel (i, j, k) of version `v` of the world in slot `w`. -/
def Lattice.voxelInfo (l : Lattice) (w v : Nat) (i j k : Int) : Voxel :=
  if i < 0 ∨ j < 0 ∨ k < 0 ∨ (l.extent 0 : Int) ≤ i ∨ (l.extent 1 : Int) ≤ j ∨ (l.extent 2 : Int) ≤ k then .outside
  else
    let (i, j, k) := (i.toNat, j.toNat, k.toNat)
    let c := l.l0At (l.cellIndex (i / 64) (j / 64) (k / 64)) v
    if c.kind = 1 then .occupied 0
    else
      let key := brickKey (i / 8) (j / 8) (k / 8)
      match (if c.kind = 0 then none else l.l1At key v) with
      | none => .free (32 * c.d0)
      | some (_, e) =>
        if e.state = 1 then .free e.bound
        else if e.state = 2 then .occupied 0
        else
          let t := brickWord (l.pool.getD (l.poolPlace w key e.brick) []) (i % 8 + 8 * (j % 8) + 64 * (k % 8))
          if 0x8000 ≤ t then .occupied (t % 0x8000) else .free t

/-! ### Delta lists (R232) -/

/-- One record of a delta list with its byte offset in the list. -/
structure DeltaRec where
  off : Nat
  op : Nat
  bound : Nat
  cell : Nat
  payload : List Byte
  deriving DecidableEq, Repr

/-- The payload size of an op (R232). -/
def deltaSize : Nat → Nat
  | 0 => 1024
  | 1 => 1088
  | _ => 0

/-- R232, R238: whether the record at `off` of a list is well formed within a world of extent n0. -/
def deltaOk (n0 : Nat → Nat) (ds : List Byte) (off : Nat) : Bool :=
  let h := (ds.drop off).take 16
  let op := field h 0 1
  let bound := field h 2 2
  let cell := field h 4 4
  let cellOk :=
    if op = 5 then
      decide (bitsOf cell 5 0 < n0 0 ∧ bitsOf cell 11 6 < n0 1 ∧ bitsOf cell 17 12 < n0 2 ∧ cell / 2 ^ 18 ≤ 1)
    else decide (bitsOf cell 8 0 < 8 * n0 0 ∧ bitsOf cell 17 9 < 8 * n0 1 ∧ bitsOf cell 26 18 < 8 * n0 2 ∧
      cell < 2 ^ 27)
  decide (h.length = 16 ∧ op ≤ 5 ∧ field h 1 1 = 0 ∧ field h 8 4 = deltaSize op ∧ field h 12 4 = 0 ∧
    off + 16 + deltaSize op ≤ ds.length) && cellOk &&
    (if op = 3 ∨ op = 5 then decide (bound < 0x8000) else decide (bound = 0))

/-- The records of a list, or the offset of the first that breaks R232. -/
def parseDeltaAux (n0 : Nat → Nat) (ds : List Byte) : Nat → Nat → List DeltaRec → Except Nat (List DeltaRec)
  | 0, _, acc => .ok acc.reverse
  | fuel + 1, off, acc =>
    if ds.length ≤ off then .ok acc.reverse
    else if deltaOk n0 ds off then
      let op := field ds off 1
      parseDeltaAux n0 ds fuel (off + 16 + alignUp (deltaSize op) 16)
        (⟨off, op, field ds (off + 2) 2, field ds (off + 4) 4, slice ds (off + 16) (deltaSize op)⟩ :: acc)
    else .error off

/-- The records of a delta list (R232). -/
def parseDelta (n0 : Nat → Nat) (ds : List Byte) : Except Nat (List DeltaRec) :=
  parseDeltaAux n0 ds (ds.length / 16 + 1) 0 []

/-- The L0 cell coordinates a record names, and those of the cell an L1 record lies in. -/
def DeltaRec.l0Cell (r : DeltaRec) : Nat × Nat × Nat :=
  if r.op = 5 then (bitsOf r.cell 5 0, bitsOf r.cell 11 6, bitsOf r.cell 17 12)
  else (bitsOf r.cell 8 0 / 8, bitsOf r.cell 17 9 / 8, bitsOf r.cell 26 18 / 8)

/-- What a prepare has met so far: the offset of the first record refused for each of BOUND, INDEX_FULL and
POOL_FULL. -/
structure PrepErr where
  bound : Option Nat
  indexFull : Option Nat
  poolFull : Option Nat
  deriving DecidableEq, Repr

/-- Nothing refused. -/
def PrepErr.none : PrepErr := ⟨.none, .none, .none⟩

/-- R214: the bound of a brick. -/
def brickBound (b : List Byte) : Nat :=
  (List.range 512).foldl (fun m n => let t := brickWord b n; Min.min m (if 0x8000 ≤ t then 0 else t)) 0x7FFF

/-- R236: whether a free voxel with d ≠ 0 shares a face, edge or corner with an occupied voxel of the brick. -/
def brickBreaksBound (b : List Byte) : Bool :=
  (List.range 512).any (fun n =>
    let t := brickWord b n
    decide (0 < t ∧ t < 0x8000) && (List.range 27).any (fun m =>
      let a := n % 8 + m % 3
      let bb := n / 8 % 8 + m / 3 % 3
      let c := n / 64 + m / 9
      decide (1 ≤ a ∧ a ≤ 8 ∧ 1 ≤ bb ∧ bb ≤ 8 ∧ 1 ≤ c ∧ c ≤ 8) &&
        decide (0x8000 ≤ brickWord b (a - 1 + 8 * (bb - 1) + 64 * (c - 1)))))

/-- R232, R233: the start brick of a PATCH: what the records before it have left of the cell in version `v`. A valid entry of the cell counts
whatever the kind of its L0 cell, which is settled at the end of the list (R235). -/
def Lattice.startBrick (l : Lattice) (w v key : Nat) : List Byte :=
  let (x, y, z) := (key % 512, key / 512 % 512, key / 262144)
  let c := l.l0At (l.cellIndex (x / 8) (y / 8) (z / 8)) v
  let fill (t : Nat) : List Byte := (List.replicate 512 (natLE 2 t)).flatten
  match l.l1At key v with
  | none => if c.kind = 1 then fill 0x8000 else fill (Min.min (32 * c.d0) 0x7FFF)
  | some (_, e) =>
    if e.state = 1 then fill e.bound
    else if e.state = 2 then fill 0x8000
    else slice (l.pool.getD (l.poolPlace w key e.brick) []) 0 1024

/-- R232: a PATCH payload laid over its start brick. -/
def patchBrick (start payload : List Byte) : List Byte :=
  (List.range 512).flatMap (fun n =>
    if bit (field payload (n / 8) 1) (n % 8) then slice payload (64 + 2 * n) 2 else slice start (2 * n) 2)

/-- End the entry of a key that is valid in version `v`: an entry of an older version gets `v_until` = v; one that the
same list made leaves the index with its brick (its range would be empty, R228). -/
def Lattice.endEntry (l : Lattice) (w v key : Nat) : Lattice :=
  match l.l1At key v with
  | none => l
  | some (p, e) =>
    if e.vFrom = v then
      { l with l1 := l.l1.erase p,
               pool := if e.state = 3 then l.pool.erase (l.poolPlace w key e.brick) else l.pool }
    else { l with l1 := l.l1.insert p { e with vUntil := v } }

/-- R222: the first EMPTY place of the probe window; a place beyond the index when the window is full. -/
def Lattice.freePlace (l : Lattice) (w key : Nat) : Nat × Bool :=
  match (probePlaces l.indexLog2 w key).find? (fun p => (l.l1.get p).isNone) with
  | some p => (p, true)
  | none => (2 ^ 40 + l.l1.length, false)

/-- A free slot of the pool partition a key is homed to; a slot beyond it when the partition is full. -/
def Lattice.freeBrick (l : Lattice) (w key : Nat) : Nat × Bool :=
  match (List.range l.poolPart).find? (fun s => (l.pool.get (l.poolPlace w key s)).isNone) with
  | some s => (s, true)
  | none => (2 ^ 40 + l.pool.length, false)

/-- Note the first offset of a refusal. -/
def firstOff (o : Option Nat) (bad : Bool) (off : Nat) : Option Nat :=
  match o with
  | some x => some x
  | none => if bad then some off else none

/-- Replace the cell's entry with one of `state` valid from `v` (R232, R239): the new brick and the new entry take free places before the
entry they replace ends. -/
def Lattice.putEntry (l : Lattice) (er : PrepErr) (w v off key state bound : Nat) (brick : List Byte) :
    Lattice × PrepErr :=
  let (slot, okB) := if state = 3 then l.freeBrick w key else (0, true)
  let (place, okP) := l.freePlace w key
  let e : L1Ent := ⟨key, state, bound, slot, v, vAll⟩
  let l := l.endEntry w v key
  ({ l with l1 := l.l1.insert place e,
            pool := if state = 3 then l.pool.insert (l.poolPlace w key slot) brick else l.pool },
   { er with indexFull := firstOff er.indexFull (!okP) off, poolFull := firstOff er.poolFull (!okB) off })

/-- Put a whole brick, checked under R236 where the world asks for it. -/
def Lattice.putBrick (l : Lattice) (er : PrepErr) (w v off key : Nat) (brick : List Byte) : Lattice × PrepErr :=
  let er := { er with bound := firstOff er.bound (l.checkFlag && brickBreaksBound brick) off }
  l.putEntry er w v off key 3 (brickBound brick) brick

/-- The L0 entry of a cell in version `v` made a new entry from `v` on, or replaced if it is from `v` already. -/
def Lattice.setL0 (l : Lattice) (cell v d0 kind : Nat) : Lattice :=
  let h := (l.l0.getD cell []).filter (fun e => decide (e.vFrom ≠ v))
  { l with l0 := l.l0.insert cell (⟨d0, kind, v⟩ :: h) }

/-- R232, R233: one record applied to the version under preparation. -/
def Lattice.applyRecord (l : Lattice) (er : PrepErr) (w v : Nat) (r : DeltaRec) : Lattice × PrepErr :=
  let key := r.cell % 2 ^ 27
  match r.op with
  | 0 => l.putBrick er w v r.off key r.payload
  | 1 => l.putBrick er w v r.off key (patchBrick (l.startBrick w v key) r.payload)
  | 2 => l.putEntry er w v r.off key 2 0 []
  | 3 => l.putEntry er w v r.off key 1 r.bound []
  | 4 => (l.endEntry w v key, er)
  | _ =>
    let (x, y, z) := r.l0Cell
    (l.setL0 (l.cellIndex x y z) v r.bound (r.cell / 2 ^ 18), er)

/-- The L1 entries valid in version `v` that lie in L0 cell (x, y, z). -/
def Lattice.entriesIn (l : Lattice) (v x y z : Nat) : List L1Ent :=
  l.l1.values.filter (fun e => decide (e.vFrom ≤ v ∧ v < e.vUntil ∧ e.key % 512 / 8 = x ∧
    e.key / 512 % 512 / 8 = y ∧ e.key / 262144 / 8 = z))

/-- The L0 cells that settlement can change: those with entries of their own and those an L1 entry valid in `v` lies
in. A cell without either keeps the world-wide entry (which is FREE or SOLID). -/
def Lattice.touchedCells (l : Lattice) (v : Nat) (rs : List DeltaRec) : List (Nat × Nat × Nat) :=
  let fromL1 := (l.l1.values.filter (fun e => decide (e.vFrom ≤ v ∧ v < e.vUntil))).map
    (fun e => (e.key % 512 / 8, e.key / 512 % 512 / 8, e.key / 262144 / 8))
  ((rs.map DeltaRec.l0Cell) ++ fromL1).eraseDups

/-- R235: settle the L0 cells of version `v`. -/
def Lattice.settle (l : Lattice) (v : Nat) (rs : List DeltaRec) : Lattice :=
  (l.touchedCells v rs).foldl (fun l (x, y, z) =>
    let cell := l.cellIndex x y z
    let c := l.l0At cell v
    let es := l.entriesIn v x y z
    let d0 := es.foldl (fun d e => Min.min d (e.bound / 32)) c.d0
    let kind := if c.kind = 1 then 1 else if es.isEmpty then 0 else 2
    if d0 = c.d0 ∧ kind = c.kind then l else l.setL0 cell v d0 kind) l

/-- R235: the offset reported with SOLID_CELL, if some SOLID L0 cell holds an entry valid in `v`. -/
def Lattice.solidCell (l : Lattice) (v : Nat) (rs : List DeltaRec) : Option Nat :=
  let offs := (l.touchedCells v rs).filterMap (fun (x, y, z) =>
    let c := l.l0At (l.cellIndex x y z) v
    if c.kind = 1 && !(l.entriesIn v x y z).isEmpty then
      let inCell := rs.filter (fun r => decide (r.l0Cell = (x, y, z)))
      let l0s := inCell.filter (fun r => decide (r.op = 5))
      let l1s := inCell.filter (fun r => decide (r.op ≤ 3) &&
        (match l.l1At (r.cell % 2 ^ 27) v with
         | some (_, e) => decide (e.vFrom = v)
         | none => false))
      some (Max.max ((l0s.getLast?.map (fun r => r.off)).getD 0) ((l1s.getLast?.map (fun r => r.off)).getD 0))
    else none)
  offs.foldl (fun m o => match m with
    | none => some o
    | some x => some (Min.min x o)) none

/-- R230: a version begins as an empty world: every older entry ends and every L0 cell holds the initial entry. -/
def Lattice.beginLoad (l : Lattice) (v : Nat) : Lattice :=
  { l with l0Base := ⟨l.d0Init, l.l0Kind, v⟩ :: l.l0Base,
           l1 := l.l1.map (fun (p, e) => (p, if e.vUntil = vAll then { e with vUntil := v } else e)) }

/-- R239: discard a prepared version. -/
def Lattice.discard (l : Lattice) (w v : Nat) : Lattice :=
  let gone := l.l1.filter (fun (_, e) => decide (e.vFrom = v))
  { l with
    l0Base := l.l0Base.filter (fun e => decide (e.vFrom ≠ v)),
    l0 := (l.l0.map (fun (c, h) => (c, h.filter (fun e => decide (e.vFrom ≠ v))))).filter (fun (_, h) => !h.isEmpty),
    l1 := (l.l1.filter (fun (_, e) => decide (e.vFrom ≠ v))).map
      (fun (p, e) => (p, if e.vUntil = v then { e with vUntil := vAll } else e)),
    pool := gone.foldl (fun m (_, e) => if e.state = 3 then m.erase (l.poolPlace w e.key e.brick) else m) l.pool,
    tables := l.tables.erase v }

/-- Keep the entries of a history whose range holds a retained version; `next` is the version that ends the newest, and a reload, whose
entries for every cell begin at one of `bases`, ends what came before it (R225). -/
def keepHistory (retained bases : List Nat) : Nat → List L0Ent → List L0Ent
  | _, [] => []
  | next, e :: es =>
    let rest := keepHistory retained bases e.vFrom es
    let upTo := bases.foldl (fun m b => if e.vFrom < b then Min.min m b else m) next
    if retained.any (fun v => decide (e.vFrom ≤ v ∧ v < upTo)) then e :: rest else rest

/-- R228: reclaim every entry whose version range holds no retained version. -/
def Lattice.reclaim (l : Lattice) (w : Nat) (retained : List Nat) : Lattice :=
  let live (e : L1Ent) : Bool := retained.any (fun v => decide (e.vFrom ≤ v ∧ v < e.vUntil))
  let gone := l.l1.filter (fun (_, e) => !live e)
  { l with
    l0Base := keepHistory retained [] (vAll + 1) l.l0Base,
    l0 := (l.l0.map (fun (c, h) => (c, keepHistory retained (l.l0Base.map (·.vFrom)) (vAll + 1) h))).filter (fun (_, h) => !h.isEmpty),
    l1 := l.l1.filter (fun (_, e) => live e),
    pool := gone.foldl (fun m (_, e) => if e.state = 3 then m.erase (l.poolPlace w e.key e.brick) else m) l.pool,
    tables := l.tables.filter (fun (v, _) => retained.contains v) }

/-! ### Moving obstacles (R245, R246) -/

/-- The entry at an offset of an obstacle table. -/
def parseObstacle (bs : List Byte) (o : Nat) : Obstacle :=
  let f (k : Nat) : Val := f32.decode (field bs (o + k) 4)
  let v3 (k : Nat) : List Val := [f k, f (k + 4), f (k + 8)]
  ⟨field bs o 1, field bs (o + 2) 2, f 4, v3 8, v3 0x14, v3 0x20, f 0x2C, f 0x30, f 0x34⟩

/-- R246: whether the entry at an offset is valid. -/
def obstacleOk (bs : List Byte) (o : Nat) : Bool :=
  let e := parseObstacle bs o
  let vs := [e.radius] ++ e.a0 ++ e.b0 ++ e.vel ++ [e.tStart, e.tEnd, e.grow]
  vs.all Val.isFinite && Val.le (.zero false) e.radius && Val.le (.zero false) e.grow && Val.le e.tStart e.tEnd &&
    decide (e.kind = 0 ∨ e.kind = 1 ∨ e.kind = 0xFF) && decide (field bs (o + 1) 1 = 0) &&
    ((bs.drop (o + 0x38)).take 8).all (· = 0)

/-- R246: the index a refused table reports: the lowest invalid entry, or 4,096 for one that is too long. -/
def obstacleFault (count : Nat) (bs : List Byte) : Option Nat :=
  match (List.range (Min.min count 4096)).find? (fun i => !obstacleOk bs (64 * i)) with
  | some i => some i
  | none => if 4096 < count then some 4096 else none

/-- R245: the table of a version. -/
def parseObstacles (count : Nat) (bs : List Byte) : List Obstacle :=
  tabulate count (fun i => parseObstacle bs (64 * i))

/-! ### The coarse level (R248) -/

/-- Nothing resident. -/
def Coarse.empty : Coarse := ⟨none, [], []⟩

/-- The coarse level of a world as VISIBLE of version `v` refreshes it: the newest entry of each cell, and the obstacle table of
that version. -/
def Lattice.coarse (l : Lattice) (v : Nat) : Coarse :=
  let base := l.l0Base.head?
  let newest (h : List L0Ent) : Option L0Ent :=
    match h.head?, base with
    | some a, some b => if b.vFrom ≤ a.vFrom then some a else none
    | a, _ => a
  { l0Base := base
    l0 := l.l0.filterMap (fun e => (newest e.2).map (fun a => (e.1, a)))
    obstacles := l.tables.getD v [] }

/-- What slice `k` holds of it (R220): the newest entries of the L0 cells homed to it, by cell, and the obstacle entries, by slot. -/
def Coarse.slice (c : Coarse) (l : Lattice) (w k : Nat) : List (Nat × L0Ent) × List (Nat × Obstacle) :=
  let cells := (List.range (l.n0 2)).flatMap (fun z => (List.range (l.n0 1)).flatMap (fun y =>
    ((List.range (l.n0 0)).filter (fun x => l0Home w x y z = k)).map (fun x => l.cellIndex x y z)))
  (cells.filterMap (fun i => (match c.l0.get i with | some e => some e | none => c.l0Base).map (fun e => (i, e))),
   (c.obstacles.zipIdx.filter (fun e => obstacleHome e.2 = k)).map (fun e => (e.2, e.1)))

/-- The L0 entry of a cell for version `v`: the resident one, or along its `older` chain (R217, R248). -/
def Coarse.l0For (c : Coarse) (l : Lattice) (cell v : Nat) : L0Ent :=
  match (match c.l0.get cell with | some e => some e | none => c.l0Base) with
  | some e => if e.vFrom ≤ v then e else l.l0At cell v
  | none => l.l0At cell v

/-! ### Refusals (R238) -/

/-- The refusal of a prepared version: the lowest code, with the offset or index it reports. -/
def prepRefusal (er : PrepErr) (solid obst : Option Nat) : Option (Nat × Nat) :=
  match solid, er.bound, obst, er.indexFull, er.poolFull with
  | some o, _, _, _, _ => some (0x06, o)
  | none, some o, _, _, _ => some (0x07, o)
  | none, none, some o, _, _ => some (0x08, o)
  | none, none, none, some o, _ => some (0x09, o)
  | none, none, none, none, some o => some (0x0A, o)
  | none, none, none, none, none => none

end Sys2Proof.Machine
end

