-- ==== Sys2Proof/Config.lean ====
section
/-!
DEFINITION. The values the manual leaves open: constants without a body, so that no proof can rest on a value.
A claim about a step that draws one holds whatever it is.
-/
namespace Sys2Proof.Config

/-- Random bytes (R658, R665, R668): the k-th byte drawn from the die's random source. -/
opaque randomByte : Nat → Byte

/-- Contents the manual calls undefined: byte `i` of the range, drawn at the counter value `n` (R525, R746, R709). -/
opaque undefinedByte : Nat → Nat → Byte

/-- Fast mode (R145): whether the K range is cut before the `i`-th multiple of the tile depth. -/
opaque kCut : Nat → Nat → Bool

/-- Fast mode (R145): the rank in arrival order of the `i`-th part. -/
opaque kArrival : Nat → Nat → Nat

/-- A value the manual does not state: the bit pattern of element `i` (GELU and SILU of −∞ in R167 among them). -/
opaque unstated : Nat → Nat → Nat

/-- Where the scratchpad region of a logical cluster (queue, serial, number) begins in its cluster's scratchpad. -/
opaque regionBase : Nat → Nat → Nat → Nat

/-- The row of its cluster's accumulator memory where the region of a logical cluster begins. -/
opaque regionRow : Nat → Nat → Nat → Nat

/-- The place of a line in its World Store slice's brick cache. -/
opaque lineIndex : Nat → Nat

/-- The word that an element of a vector-engine register holds once the `n`-th operation has run (R159): the cluster sequencer allocates
the registers, and no rule says how. -/
opaque vectorReg : Nat → Nat → Nat → BitVec 32

/-- What lies at a byte of the world region (R359: die, pseudo-channel, offset), as (kind, number, byte): kind 1 an index partition, 2 a
pool partition, 3 the L0 history area, 4 the obstacle tables of a world slot; 5 the record of a body slot; else nothing. -/
opaque worldPlace : Nat → Nat → Nat → Nat × Nat × Nat

/-- What lies at a byte of a warm-start slot: whether of the previous generation, and the byte of its record. -/
opaque warmPlace : Nat → Bool × Nat

/-- Which of two links that join a pair of dies a message from one die to another takes, by its address (R41). -/
opaque linkOf : Nat → Nat → Nat → Nat

/-- Whether a word of the queue context store is part of a queue's context. -/
opaque contextWord : Nat → Nat → Bool

/-- The instruction that a code of the test port's instruction register names, where the spec gives no code (R720). -/
opaque tapInstruction : Nat → Nat

/-- The level that the board puts on ball `i` of those that no state of the block gives (R720): the `n`-th look. -/
opaque pinLevel : Nat → Nat → Bool

/-- How long no die drives the outputs when the pin owner changes at a time (R709 bounds it by 2 µs). -/
opaque ownerGap : Nat → Nat

end Sys2Proof.Config
end

