-- ==== Sys2Proof/Machine/Codes.lean ====
section
/-!
DEFINITION. The codes of the manual: SHA-512 (R49, R557), CRC-32C and CRC-64 (R360 ff, R553), the outer
Reed-Solomon code (R364), Philox (R200 ff) and RSASSA-PSS (R50, R658). Their constants are those of their standards.
-/
namespace Sys2Proof.Machine

/-! ### SHA-512 -/

/-- The round constants. -/
def sha512K : List Word64 :=
  [0x428a2f98d728ae22, 0x7137449123ef65cd, 0xb5c0fbcfec4d3b2f, 0xe9b5dba58189dbbc, 0x3956c25bf348b538] ++
  [0x59f111f1b605d019, 0x923f82a4af194f9b, 0xab1c5ed5da6d8118, 0xd807aa98a3030242, 0x12835b0145706fbe] ++
  [0x243185be4ee4b28c, 0x550c7dc3d5ffb4e2, 0x72be5d74f27b896f, 0x80deb1fe3b1696b1, 0x9bdc06a725c71235] ++
  [0xc19bf174cf692694, 0xe49b69c19ef14ad2, 0xefbe4786384f25e3, 0x0fc19dc68b8cd5b5, 0x240ca1cc77ac9c65] ++
  [0x2de92c6f592b0275, 0x4a7484aa6ea6e483, 0x5cb0a9dcbd41fbd4, 0x76f988da831153b5, 0x983e5152ee66dfab] ++
  [0xa831c66d2db43210, 0xb00327c898fb213f, 0xbf597fc7beef0ee4, 0xc6e00bf33da88fc2, 0xd5a79147930aa725] ++
  [0x06ca6351e003826f, 0x142929670a0e6e70, 0x27b70a8546d22ffc, 0x2e1b21385c26c926, 0x4d2c6dfc5ac42aed] ++
  [0x53380d139d95b3df, 0x650a73548baf63de, 0x766a0abb3c77b2a8, 0x81c2c92e47edaee6, 0x92722c851482353b] ++
  [0xa2bfe8a14cf10364, 0xa81a664bbc423001, 0xc24b8b70d0f89791, 0xc76c51a30654be30, 0xd192e819d6ef5218] ++
  [0xd69906245565a910, 0xf40e35855771202a, 0x106aa07032bbd1b8, 0x19a4c116b8d2d0c8, 0x1e376c085141ab53] ++
  [0x2748774cdf8eeb99, 0x34b0bcb5e19b48a8, 0x391c0cb3c5c95a63, 0x4ed8aa4ae3418acb, 0x5b9cca4f7763e373] ++
  [0x682e6ff3d6b2b8a3, 0x748f82ee5defb2fc, 0x78a5636f43172f60, 0x84c87814a1f0ab72, 0x8cc702081a6439ec] ++
  [0x90befffa23631e28, 0xa4506cebde82bde9, 0xbef9a3f7b2c67915, 0xc67178f2e372532b, 0xca273eceea26619c] ++
  [0xd186b8c721c0c207, 0xeada7dd6cde0eb1e, 0xf57d4f7fee6ed178, 0x06f067aa72176fba, 0x0a637dc5a2c898a6] ++
  [0x113f9804bef90dae, 0x1b710b35131c471b, 0x28db77f523047d84, 0x32caab7b40c72493, 0x3c9ebe0a15c9bebc] ++
  [0x431d67c49c100d4c, 0x4cc5d4becb3e42b6, 0x597f299cfc657e2a, 0x5fcb6fab3ad6faec, 0x6c44198c4a475817]

/-- The initial hash value. -/
def sha512H : List Word64 := [0x6a09e667f3bcc908, 0xbb67ae8584caa73b, 0x3c6ef372fe94f82b, 0xa54ff53a5f1d36f1, 0x510e527fade682d1, 0x9b05688c2b3e6c1f, 0x1f83d9abfb41bd6b, 0x5be0cd19137e2179]

/-- One round on the eight working variables. -/
def sha512Round (st : List Word64) (kw : Word64 × Word64) : List Word64 :=
  match st with
  | [a, b, c, d, e, f, g, h] =>
    let s1 := e.rotateRight 14 ^^^ e.rotateRight 18 ^^^ e.rotateRight 41
    let ch := (e &&& f) ^^^ (~~~e &&& g)
    let t1 := h + s1 + ch + kw.1 + kw.2
    let s0 := a.rotateRight 28 ^^^ a.rotateRight 34 ^^^ a.rotateRight 39
    let mj := (a &&& b) ^^^ (a &&& c) ^^^ (b &&& c)
    [t1 + s0 + mj, a, b, c, d + t1, e, f, g]
  | s => s

/-- The message schedule, newest word first. -/
def sha512Extend : Nat → List Word64 → List Word64
  | 0, w => w
  | n + 1, w =>
    let g (i : Nat) := w.getD i 0
    let s0 := (g 14).rotateRight 1 ^^^ (g 14).rotateRight 8 ^^^ ((g 14) >>> 7)
    let s1 := (g 1).rotateRight 19 ^^^ (g 1).rotateRight 61 ^^^ ((g 1) >>> 6)
    sha512Extend n ((g 15 + s0 + g 6 + s1) :: w)

/-- One block of 128 bytes. -/
def sha512Block (h : List Word64) (blk : List Byte) : List Word64 :=
  let w0 := (chunks 8 blk).map (fun b => BitVec.ofNat 64 (beNat b))
  let w := (sha512Extend 64 w0.reverse).reverse
  let r := (sha512K.zip w).foldl sha512Round h
  List.zipWith (· + ·) h r

/-- SHA-512 of a byte string, 64 bytes. -/
def sha512 (m : List Byte) : List Byte :=
  let n := m.length
  let padded := m ++ [0x80] ++ zeros ((239 - n % 128) % 128) ++ natBE 16 (8 * n)
  let h := (chunks 128 padded).foldl sha512Block sha512H
  h.flatMap (fun x => natBE 8 x.toNat)

/-! ### Cyclic redundancy checks -/

/-- One bit of a reflected CRC. -/
def crcBit (poly : Nat) : Nat → Nat → Nat
  | 0, c => c
  | n + 1, c => crcBit poly n (if c % 2 = 1 then c / 2 ^^^ poly else c / 2)

/-- A reflected CRC: initial value and final exclusive-or all ones. -/
def crcReflected (bits poly : Nat) (bs : List Byte) : Nat :=
  let ones := 2 ^ bits - 1
  bs.foldl (fun c b => crcBit poly 8 (c ^^^ b.toNat)) ones ^^^ ones

/-- CRC-32C (R610). -/
def crc32c (bs : List Byte) : Nat := crcReflected 32 0x82F63B78 bs

/-- One bit of an unreflected 64-bit CRC. -/
def crcBitMsb (poly : Nat) : Nat → Nat → Nat
  | 0, c => c
  | n + 1, c =>
    let c' := 2 * c % 2 ^ 64
    crcBitMsb poly n (if 2 ^ 63 ≤ c then c' ^^^ poly else c')

/-- CRC-64 of R556, continued over more bytes from the value `c` (0 at the start). -/
def crc64From (c : Nat) (bs : List Byte) : Nat :=
  bs.foldl (fun c b => crcBitMsb 0x42F0E1EBA9EA3693 8 (c ^^^ b.toNat * 2 ^ 56)) c

/-- CRC-64 (R556). -/
def crc64 (bs : List Byte) : Nat := crc64From 0 bs

/-! ### The outer code of HBM lines (R364, R365) -/

/-- Multiplication by α = 2 in GF(2^8) with the field polynomial 0x11D. -/
def gfDouble (a : Nat) : Nat := if 128 ≤ a then 2 * a ^^^ 0x11D else 2 * a

/-- The sum of `a · α^i` over the set bits of `b` from `i` on. -/
def gfMulAux : Nat → Nat → Nat → Nat
  | 0, _, _ => 0
  | n + 1, a, b => (if b % 2 = 1 then a else 0) ^^^ gfMulAux n (gfDouble a) (b / 2)

/-- A product in GF(2^8). -/
def gfMul (a b : Nat) : Nat := gfMulAux 8 a b

/-- A power in GF(2^8). -/
def gfPow (a : Nat) : Nat → Nat
  | 0 => 1
  | n + 1 => gfMul a (gfPow a n)

/-- The inverse in GF(2^8): `a^254`. -/
def gfInv (a : Nat) : Nat := gfPow a 254

/-- g(x) without its leading term, highest coefficient first: (x + 1)(x + α)(x + α²)(x + α³). -/
def rsGen : List Nat :=
  let mulRoot (p : List Nat) (r : Nat) : List Nat :=
    List.zipWith (· ^^^ ·) (p ++ [0]) (0 :: p.map (gfMul r))
  (([1, 2, 4, 8].foldl mulRoot [1]).drop 1)

/-- R364: the four check bytes of 64 data bytes, check byte 0 first. -/
def rsCheck (data : List Byte) : List Byte :=
  let rem := data.foldl (fun (r : List Nat) (d : Byte) =>
    let f := d.toNat ^^^ r.headD 0
    List.zipWith (· ^^^ ·) (r.drop 1 ++ [0]) (rsGen.map (gfMul f))) [0, 0, 0, 0]
  rem.map (BitVec.ofNat 8)

/-- The four syndromes of a 68-symbol word, S_i = w(α^i). -/
def rsSyndromes (w : List Byte) : List Nat :=
  tabulate 4 (fun i => w.foldl (fun a b => gfMul a (gfPow 2 i) ^^^ b.toNat) 0)

/-- The outcome of the outer decoder (R365). -/
inductive RsOutcome where
  | clean
  | corrected (w : List Byte)
  | uncorrectable
  deriving DecidableEq, Repr

/-- A word with symbol `p` (counted from the first) changed by `e`. -/
def rsFlip (w : List Byte) (p e : Nat) : List Byte := w.modify p (fun b => b ^^^ BitVec.ofNat 8 e)

/-- A single-symbol correction, where one explains the syndromes. -/
def rsOne (s : List Nat) : Option (Nat × Nat) :=
  let e := s.getD 0 0
  if e = 0 then none
  else (List.range 68).findSome? (fun p =>
    let x := gfPow 2 (67 - p)
    if gfMul e x = s.getD 1 0 && gfMul e (gfMul x x) = s.getD 2 0 &&
        gfMul e (gfMul x (gfMul x x)) = s.getD 3 0 then some (p, e) else none)

/-- A correction of two symbols, where one explains the syndromes. -/
def rsTwo (s : List Nat) : Option ((Nat × Nat) × (Nat × Nat)) :=
  (List.range 68).findSome? (fun p => (List.range p).findSome? (fun r =>
    let x := gfPow 2 (67 - p)
    let y := gfPow 2 (67 - r)
    let s0 := s.getD 0 0
    let ex := gfMul (gfMul s0 y ^^^ s.getD 1 0) (gfInv (x ^^^ y))
    let ey := s0 ^^^ ex
    let at_ (k : Nat) := gfMul ex (gfPow x k) ^^^ gfMul ey (gfPow y k)
    if ex ≠ 0 && ey ≠ 0 && at_ 2 = s.getD 2 0 && at_ 3 = s.getD 3 0 then some ((p, ex), (r, ey)) else none))

/-- R365: the outer decoder at correction depth 1 or 2, on 64 data bytes and 4 check bytes. -/
def rsDecode (depth : Nat) (w : List Byte) : RsOutcome :=
  let s := rsSyndromes w
  if s.all (· = 0) then .clean
  else match rsOne s with
    | some (p, e) => .corrected (rsFlip w p e)
    | none =>
      if depth = 2 then
        match rsTwo s with
        | some ((p, e), (r, f)) => .corrected (rsFlip (rsFlip w p e) r f)
        | none => .uncorrectable
      else .uncorrectable

/-! ### Philox-4×32-10 (R202) -/

/-- One round of Philox and the advance of the key. -/
def philoxRound (st : List Nat × Nat × Nat) : List Nat × Nat × Nat :=
  let (c, k0, k1) := st
  let p0 := 0xD2511F53 * c.getD 0 0
  let p1 := 0xCD9E8D57 * c.getD 2 0
  let w := 2 ^ 32
  ([p1 / w ^^^ c.getD 1 0 ^^^ k0, p1 % w, p0 / w ^^^ c.getD 3 0 ^^^ k1, p0 % w],
   (k0 + 0x9E3779B9) % w, (k1 + 0xBB67AE85) % w)

/-- `n` rounds. -/
def philoxRounds : Nat → List Nat × Nat × Nat → List Nat × Nat × Nat
  | 0, st => st
  | n + 1, st => philoxRounds n (philoxRound st)

/-- The four words of a block. -/
def philox (ctr : List Nat) (key0 key1 : Nat) : List Nat := (philoxRounds 10 (ctr, key0, key1)).1

/-! ### RSASSA-PSS under RSA-4096 with SHA-512, MGF1 with SHA-512 and a 64-byte salt (R658) -/

/-- `b^e mod m` by the bits of the exponent, `n` bits at most. -/
def modPow (m : Nat) : Nat → Nat → Nat → Nat → Nat
  | 0, _, _, acc => acc
  | n + 1, b, e, acc => modPow m n (b * b % m) (e / 2) (if e % 2 = 1 then acc * b % m else acc)

/-- MGF1 with SHA-512: `n` bytes. -/
def mgf1 (seed : List Byte) (n : Nat) : List Byte :=
  ((List.range (ceilDiv n 64)).flatMap (fun i => sha512 (seed ++ natBE 4 i))).take n

/-- EMSA-PSS verification of an encoded message of 512 bytes against a message hash of 64. -/
def pssEncodedOk (em mHash : List Byte) : Bool :=
  let db := em.take 447
  let h := slice em 447 64
  let mask := mgf1 h 447
  let plain : List Byte := List.zipWith (fun a b => a ^^^ b) db mask
  let plain := match plain with
    | b :: bs => (b &&& 0x7F) :: bs
    | [] => []
  em.getD 511 0 = 0xBC && (em.getD 0 0) &&& 0x80 = 0 &&
    (plain.take 382).all (· = 0) && plain.getD 382 0 = 0x01 &&
    decide (sha512 (zeros 8 ++ mHash ++ plain.drop 383) = h)

/-- R658: whether `sig` (512 bytes) signs `message` under the 516-byte public key. -/
def pssVerify (key sig message : List Byte) : Bool :=
  let n := beNat (key.take 512)
  let e := beNat (slice key 512 4)
  let s := beNat sig
  decide (sig.length = 512 ∧ s < n) && pssEncodedOk (natBE 512 (modPow n 32 s e 1)) (sha512 message)

/-- EMSA-PSS encoding of a message hash with a 64-byte salt, 512 bytes. -/
def pssEncode (mHash salt : List Byte) : List Byte :=
  let h := sha512 (zeros 8 ++ mHash ++ salt)
  let db : List Byte := zeros 382 ++ [0x01] ++ salt
  let masked : List Byte := List.zipWith (fun a b => a ^^^ b) db (mgf1 h 447)
  let masked := match masked with
    | b :: bs => (b &&& 0x7F) :: bs
    | [] => []
  masked ++ h ++ [0xBC]

/-- RSASSA-PSS signature with a private exponent. -/
def pssSign (n d : Nat) (message salt : List Byte) : List Byte :=
  natBE 512 (modPow n 4096 (beNat (pssEncode (sha512 message) salt)) d 1)

end Sys2Proof.Machine
end

