-- ==== Sys2Proof/Machine/Plan.lean ====
section
/-!
DEFINITION. Plan images: the records of R48 to R55, R68, R741 and how they are read from the image's bytes.
-/
namespace Sys2Proof.Machine

/-- A tensor table entry (R68), its fields as they stand. -/
structure TensorEnt where
  format : Nat
  rank : Nat
  space : Nat
  tflags : Nat
  dims : List Nat
  offset : Nat
  deriving DecidableEq, Repr

/-- An operation record (R55) with its parameter block (R743). -/
structure OpRec where
  opcode : Nat
  inCount : Nat
  outCount : Nat
  ins : List Nat
  outs : List Nat
  paramOff : Nat
  paramSize : Nat
  reduce : Nat
  param : List Byte
  deriving DecidableEq, Repr

/-- A stage record (R53) with its operations. -/
structure StageRec where
  waitMask : Nat
  waitMode : Nat
  doneFlag : Nat
  placement : Nat
  opOff : Nat
  timeout : Nat
  ops : List OpRec
  deriving DecidableEq, Repr

/-- A loop record (R54). -/
structure LoopRec where
  first : Nat
  last : Nat
  countSrc : Nat
  paramIndex : Nat
  count : Nat
  deriving DecidableEq, Repr

/-- A weight reference (R741). -/
structure WRef where
  blobOff : Nat
  size : Nat
  tensor : Nat
  deriving DecidableEq, Repr

/-- A plan: the fields of its header (R48), manifest (R51) and sections. -/
structure Plan where
  imageSize : Nat
  flags : Nat
  log2L : Nat
  stageFlags : Nat
  spadPerLc : Nat
  accPerLc : Nat
  wsPerSlice : Nat
  hbmPersist : Nat
  hbmWork : Nat
  engineMask : Nat
  scope : Nat
  stages : List StageRec
  loops : List LoopRec
  tensors : List TensorEnt
  wrefs : List WRef
  weightsDigest : List Byte
  deriving DecidableEq, Repr

/-- L, the logical cluster count (R48). -/
def Plan.lcs (p : Plan) : Nat := 2 ^ p.log2L

/-- ORDER_SENSITIVE (R48). -/
def Plan.orderSensitive (p : Plan) : Bool := bit p.flags 0
/-- SIGNED (R48). -/
def Plan.signed (p : Plan) : Bool := bit p.flags 1
/-- NEEDS_WORLD (R48). -/
def Plan.needsWorld (p : Plan) : Bool := bit p.flags 2
/-- RECERT (R48). -/
def Plan.recert (p : Plan) : Bool := bit p.flags 3

/-- The number of the final stage (R61). -/
def Plan.finalStage (p : Plan) : Nat := p.stages.length - 1

/-- The loop whose body holds a stage (R62). -/
def Plan.loopOf (p : Plan) (st : Nat) : Option LoopRec :=
  p.loops.find? (fun l => decide (l.first ≤ st ∧ st ≤ l.last))

/-- The 256-byte header's (offset, size) pair of a section, by its header offset (R48). -/
def imgSection (img : List Byte) (off : Nat) : Nat × Nat := (field img off 8, field img (off + 8) 8)

/-- The tensor table entry at a byte offset of the image. -/
def parseTensor (img : List Byte) (o : Nat) : TensorEnt :=
  { format := field img o 1, rank := field img (o + 1) 1, space := field img (o + 2) 1,
    tflags := field img (o + 3) 1, dims := tabulate 5 (fun i => field img (o + 4 + 4 * i) 4),
    offset := field img (o + 24) 8 }

/-- The operation record at a byte offset of the image; `consts` is the offset of the constants section. -/
def parseOp (img : List Byte) (consts o : Nat) : OpRec :=
  let po := field img (o + 16) 4
  let ps := field img (o + 20) 4
  { opcode := field img o 2, inCount := field img (o + 2) 1, outCount := field img (o + 3) 1,
    ins := tabulate 4 (fun i => field img (o + 4 + 2 * i) 2), outs := tabulate 2 (fun i => field img (o + 12 + 2 * i) 2),
    paramOff := po, paramSize := ps, reduce := field img (o + 24) 1, param := slice img (consts + po) (Min.min ps 48) }

/-- The stage record at a byte offset of the image. -/
def parseStage (img : List Byte) (graph consts o : Nat) : StageRec :=
  let oo := field img (o + 16) 8
  { waitMask := field img o 8, waitMode := field img (o + 8) 1, doneFlag := field img (o + 9) 1,
    placement := field img (o + 10) 1, opOff := oo, timeout := field img (o + 24) 4,
    ops := tabulate (field img (o + 12) 2) (fun i => parseOp img consts (graph + oo + 32 * i)) }

/-- The loop record at a byte offset of the image. -/
def parseLoop (img : List Byte) (o : Nat) : LoopRec :=
  { first := field img o 1, last := field img (o + 1) 1, countSrc := field img (o + 2) 1,
    paramIndex := field img (o + 3) 1, count := field img (o + 4) 4 }

/-- The weight reference at a byte offset of the image. -/
def parseWRef (img : List Byte) (o : Nat) : WRef :=
  { blobOff := field img o 8, size := field img (o + 8) 8, tensor := field img (o + 16) 2 }

/-- The plan of an image whose structure holds (R82 step 2). -/
def parsePlan (img : List Byte) : Plan :=
  let (mo, _) := imgSection img 0x20
  let (go, _) := imgSection img 0x30
  let (tb, ts) := imgSection img 0x40
  let (co, _) := imgSection img 0x50
  let (wo, ws) := imgSection img 0x60
  let ns := field img 0x15 1
  { imageSize := field img 8 8, flags := field img 0x10 4, log2L := field img 0x14 1, stageFlags := field img 0x18 8,
    spadPerLc := field img mo 8, accPerLc := field img (mo + 8) 8, wsPerSlice := field img (mo + 16) 8,
    hbmPersist := field img (mo + 24) 8, hbmWork := field img (mo + 32) 8, engineMask := field img (mo + 40) 2,
    scope := field img (mo + 42) 1,
    stages := tabulate ns (fun i => parseStage img go co (go + 32 * i)),
    loops := tabulate (field img 0x16 1) (fun i => parseLoop img (go + 32 * ns + 16 * i)),
    tensors := tabulate (ts / 32) (fun i => parseTensor img (tb + 32 * i)),
    wrefs := tabulate (ws / 32) (fun i => parseWRef img (wo + 32 * i)),
    weightsDigest := slice img 0x80 64 }

/-! ### Fields of operations and tensors -/

/-- A field of an operation's parameter block. -/
def OpRec.par (o : OpRec) (off n : Nat) : Nat := field o.param off n

/-- A 32-bit FP32 field of the parameter block. -/
def OpRec.parF32 (o : OpRec) (off : Nat) : Val := f32.decode (o.par off 4)

/-- The tensor index of input `i` (0xFFFF when absent). -/
def OpRec.inp (o : OpRec) (i : Nat) : Nat := o.ins.getD i 0xFFFF

/-- The tensor index of output `i`. -/
def OpRec.out (o : OpRec) (i : Nat) : Nat := o.outs.getD i 0xFFFF

/-- The inputs in use. -/
def OpRec.inputs (o : OpRec) : List Nat := o.ins.filter (· ≠ 0xFFFF)

/-- The outputs in use. -/
def OpRec.outputs (o : OpRec) : List Nat := o.outs.filter (· ≠ 0xFFFF)

/-- The format of a tensor. -/
def TensorEnt.fmt (t : TensorEnt) : Fmt := (Fmt.ofCode (t.format % 16)).getD .fp32

/-- The extents in use. -/
def TensorEnt.shape (t : TensorEnt) : List Nat := t.dims.take t.rank

/-- Block-scaled. -/
def TensorEnt.scaled (t : TensorEnt) : Bool := bit t.tflags 0

/-- Sliced per logical cluster. -/
def TensorEnt.sliced (t : TensorEnt) : Bool := bit t.tflags 1

/-- The number of elements of a shape. -/
def elemCount (shape : List Nat) : Nat := shape.foldl (· * ·) 1

/-- The bytes of `n` elements of a format: 4-bit elements two per byte (R69). -/
def dataBytes (f : Fmt) (n : Nat) : Nat := ceilDiv (n * f.bits) 8

/-- The byte size in canonical order: the data, then for a block-scaled tensor the scale bytes (R70, R741). -/
def canonBytes (f : Fmt) (scaled : Bool) (n : Nat) : Nat :=
  if scaled then alignUp (dataBytes f n) 64 + n / 32 else dataBytes f n

/-- Space codes of R68. -/
inductive Space where
  | scratchpad | accumulator | hbmPlan | hbmJob | host
  deriving DecidableEq, Repr

/-- R68: the space of a code. -/
def Space.ofCode : Nat → Option Space
  | 0 => some .scratchpad
  | 1 => some .accumulator
  | 2 => some .hbmPlan
  | 3 => some .hbmJob
  | 4 => some .host
  | _ => none

/-- The space of a tensor. -/
def TensorEnt.sp (t : TensorEnt) : Space := (Space.ofCode t.space).getD .scratchpad

/-- The shape an operation sees (R72, R752): a sliced tensor has one slice in the scratchpad and the accumulator
memory, and in an ALL stage in HBM_JOB and HOST too. -/
def TensorEnt.seen (t : TensorEnt) (lcs : Nat) (all : Bool) : List Nat :=
  let part := t.sliced && (decide (t.sp = .scratchpad) || decide (t.sp = .accumulator) || (all && (decide (t.sp = .hbmJob) || decide (t.sp = .host))))
  match t.shape with
  | d :: ds => (if part then d / lcs else d) :: ds
  | [] => []

end Sys2Proof.Machine
end

