-- ==== Sys2Proof/Machine/Transcendental.lean ====
section
/-!
DEFINITION. The real functions of R164 and R167, correctly rounded. Each is evaluated in fixed point to an absolute
error far below the spacing that could decide a rounding (640 fraction bits and more; the assumption log says why
this is enough), then rounded once.
-/
namespace Sys2Proof.Machine

/-- Fraction bits of the fixed-point evaluation. -/
def fxBits : Nat := 768

/-- A rational in fixed point. -/
def toFx (q : Rat) : Int := (q * pow2 fxBits).floor

/-- A fixed-point value as a rational. -/
def ofFx (i : Int) : Rat := (i : Rat) * pow2 (-(fxBits : Int))

/-- A fixed-point product. -/
def fxMul (a b : Int) : Int := (a * b) / ((2 ^ fxBits : Nat) : Int)

/-- A fixed-point quotient. -/
def fxDiv (a b : Int) : Int := if b = 0 then 0 else (a * ((2 ^ fxBits : Nat) : Int)) / b

/-- The fixed-point one. -/
def fxOne : Int := ((2 ^ fxBits : Nat) : Int)

/-- `∑ term_k` where `term_{k+1} = term_k · num / (den k)` with fixed-point `num`: the shape of every series here. -/
def fxSeries (num : Int) (den : Nat → Int) : Nat → Nat → Int → Int → Int
  | 0, _, _, acc => acc
  | fuel + 1, k, t, acc =>
    let t' := fxMul t num / den k
    if t' = 0 then acc else fxSeries num den fuel (k + 1) t' (acc + t')

/-- `arctan (1 / n)` by its series. -/
def fxAtanInv (n : Nat) : Nat → Nat → Int → Int → Int
  | 0, _, _, acc => acc
  | fuel + 1, k, p, acc =>
    let t := p / ((2 * k + 1 : Nat) : Int)
    fxAtanInv n fuel (k + 1) (p / ((n * n : Nat) : Int)) (if k % 2 = 0 then acc + t else acc - t)

/-- π by Machin's formula. -/
def fxPi : Int :=
  4 * (4 * fxAtanInv 5 200 0 (fxOne / 5) 0 - fxAtanInv 239 200 0 (fxOne / 239) 0)

/-- `2 artanh z` for |z| ≤ 1/3, by its series in z². -/
def fxAtanh2 (z2 : Int) : Nat → Nat → Int → Int → Int
  | 0, _, _, acc => acc
  | fuel + 1, k, p, acc =>
    if p = 0 then acc else fxAtanh2 z2 fuel (k + 1) (fxMul p z2) (acc + 2 * p / ((2 * k + 1 : Nat) : Int))

/-- The logarithm of a fixed-point value in [1/2, 2]. -/
def fxLogNear (m : Int) : Int :=
  let z := fxDiv (m - fxOne) (m + fxOne)
  fxAtanh2 (fxMul z z) 300 0 z 0

/-- ln 2. -/
def fxLn2 : Int := fxLogNear (2 * fxOne)

/-- ln of a positive rational. -/
def lnApprox (q : Rat) : Rat :=
  let e := ilog2 q
  let m := toFx (q * pow2 (-e))
  ofFx (e * fxLn2 + fxLogNear m)

/-- `e^r` for a fixed-point `r` of small magnitude. -/
def fxExpSmall (r : Int) : Int := fxSeries r (fun k => ((k + 1 : Nat) : Int)) 300 0 fxOne fxOne

/-- `e^q` for |q| below a few hundred, with the relative precision of the fixed point. -/
def expApprox (q : Rat) : Rat :=
  let x := toFx q
  let k := x / fxLn2
  ofFx (fxExpSmall (x - k * fxLn2)) * pow2 k

/-- `2^q` for |q| below a few hundred. -/
def exp2Approx (q : Rat) : Rat :=
  let k := q.floor
  ofFx (fxExpSmall (fxMul (toFx (q - (k : Rat))) fxLn2)) * pow2 k

/-- The series of sine on a fixed-point argument of magnitude below 2. -/
def fxSin (r : Int) : Int :=
  fxSeries (-(fxMul r r)) (fun k => (((2 * k + 2) * (2 * k + 3) : Nat) : Int)) 300 0 r r

/-- The series of cosine on a fixed-point argument of magnitude below 2. -/
def fxCos (r : Int) : Int :=
  fxSeries (-(fxMul r r)) (fun k => (((2 * k + 1) * (2 * k + 2) : Nat) : Int)) 300 0 fxOne fxOne

/-- sin and cos of a rational: the argument is reduced by the nearest multiple of π/2 in fixed point. -/
def sinCosApprox (q : Rat) : Rat × Rat :=
  let half := fxPi / 2
  let x := toFx q
  let k := (2 * x + half) / (2 * half)
  let r := x - k * half
  let s := ofFx (fxSin r)
  let c := ofFx (fxCos r)
  match (k % 4).toNat with
  | 0 => (s, c)
  | 1 => (c, -s)
  | 2 => (-s, -c)
  | _ => (-c, s)

/-- sin and cos of `q` turns, exact at the quarter turns. -/
def turnApprox (q : Rat) : Rat × Rat :=
  let k := (4 * q + 1 / 2).floor
  let r := fxMul (toFx (q - (k : Rat) / 4)) (2 * fxPi)
  let s := ofFx (fxSin r)
  let c := ofFx (fxCos r)
  match (k % 4).toNat with
  | 0 => (s, c)
  | 1 => (c, -s)
  | 2 => (-s, -c)
  | _ => (-c, s)

/-- `∑ (−t)^n / (n! (2n + 1))` in fixed point with 700 guard bits, for `t` up to 256. -/
def erfSeries (t : Int) (one : Int) : Nat → Nat → Int → Int → Int
  | 0, _, _, acc => acc
  | fuel + 1, n, p, acc =>
    if p = 0 then acc
    else erfSeries t one fuel (n + 1) (-(p * t / one) / ((n + 1 : Nat) : Int)) (acc + p / ((2 * n + 1 : Nat) : Int))

/-- `∑ (−t)^n / (n! (2n + 1))` of a rational. -/
def erfSum (t : Rat) : Rat :=
  let b : Nat := fxBits + 700
  let one : Int := ((2 ^ b : Nat) : Int)
  (erfSeries (t * pow2 b).floor one 1600 0 one 0 : Rat) * pow2 (-(b : Int))

/-- The square root of a rational near 1 with the precision of the fixed point. -/
def rootFx (q : Rat) : Rat := ofFx ((isqrt (q * pow2 (2 * (fxBits : Int))).floor.toNat : Nat) : Int)

/-- erf x for |x| ≤ 16. -/
def erfApprox (x : Rat) : Rat := 2 * x * erfSum (x * x) / rootFx (ofFx fxPi)

/-- erf (x / √2) for |x| ≤ 22. -/
def erfRoot2Approx (x : Rat) : Rat := x * rootFx (2 / ofFx fxPi) * erfSum (x * x / 2)

/-! ### The functions of R164 and R167

Each answers the special cases of R164 as they stand, and for a finite operand a rational that every rounding to a
format of R94 rounds as it rounds the exact real value. -/

/-- A positive value below every rounding boundary of every format. -/
def tiny : Rat := pow2 (-700)

/-- A real value just below `q` > 0: no value and no tie of a format lies between. -/
def below (q : Rat) : Rat := q * (1 - tiny)

/-- A real value just above `q` > 0. -/
def above (q : Rat) : Rat := q * (1 + tiny)

/-- A NaN of operands that hold none (R117). -/
def freshNaN : NumM Val := do
  raiseNV
  pure .nan

/-- EXP (R164). -/
def Val.exp (v : Val) : NumM Val :=
  pure (match v with
  | .nan => .nan
  | .inf true => .zero false
  | .inf false => .inf false
  | .zero _ => .fin 1
  | .fin q =>
    if 400 < q then .fin (pow2 576)
    else if q < -480 then .fin tiny
    else .fin (expApprox q))

/-- EXP2 (R164). -/
def Val.exp2 (v : Val) : NumM Val :=
  pure (match v with
  | .nan => .nan
  | .inf true => .zero false
  | .inf false => .inf false
  | .zero _ => .fin 1
  | .fin q =>
    if 576 < q then .fin (pow2 576)
    else if q < -690 then .fin tiny
    else if q.den = 1 then .fin (pow2 q.num)
    else .fin (exp2Approx q))

/-- LOG, the natural logarithm (R164). -/
def Val.log (v : Val) : NumM Val :=
  match v with
  | .nan => pure .nan
  | .inf true => freshNaN
  | .inf false => pure (.inf false)
  | .zero _ => pure (.inf true)
  | .fin q =>
    if q < 0 then freshNaN
    else if q = 1 then pure (.zero false)
    else pure (.fin (lnApprox q))

/-- LOG2 (R164). -/
def Val.log2 (v : Val) : NumM Val :=
  match v with
  | .nan => pure .nan
  | .inf true => freshNaN
  | .inf false => pure (.inf false)
  | .zero _ => pure (.inf true)
  | .fin q =>
    if q < 0 then freshNaN
    else
      let e := ilog2 q
      if q = pow2 e then pure (Val.ofInt e)
      else pure (.fin (lnApprox q / ofFx fxLn2))

/-- SIN (R164). -/
def Val.sin (v : Val) : NumM Val :=
  match v with
  | .inf _ => freshNaN
  | .fin q => pure (.fin (sinCosApprox q).1)
  | v => pure v

/-- COS (R164). -/
def Val.cos (v : Val) : NumM Val :=
  match v with
  | .nan => pure .nan
  | .inf _ => freshNaN
  | .zero _ => pure (.fin 1)
  | .fin q => pure (.fin (sinCosApprox q).2)

/-- TANH (R164). Beyond 128 the magnitude lies below 1 by less than any format tells. -/
def Val.tanh (v : Val) : NumM Val :=
  pure (match v with
  | .nan => .nan
  | .inf n => .fin (if n then -1 else 1)
  | .zero n => .zero n
  | .fin q =>
    if 128 < ratAbs q then .fin (if q < 0 then -below 1 else below 1)
    else
      let e := expApprox (2 * q)
      .fin ((e - 1) / (e + 1)))

/-- The real function 1 / (1 + e^−q), for any rational. -/
def sigmoidApprox (q : Rat) : Rat :=
  if 400 < q then below 1
  else if q < -480 then tiny
  else
    let e := expApprox (-q)
    1 / (1 + e)

/-- SIGMOID (R164). -/
def Val.sigmoid (v : Val) : NumM Val :=
  pure (match v with
  | .nan => .nan
  | .inf n => if n then .zero false else .fin 1
  | .zero _ => .fin (1 / 2)
  | .fin q => .fin (sigmoidApprox q))

/-- ERF (R164). -/
def Val.erf (v : Val) : NumM Val :=
  pure (match v with
  | .nan => .nan
  | .inf n => .fin (if n then -1 else 1)
  | .zero n => .zero n
  | .fin q =>
    if 16 < ratAbs q then .fin (if q < 0 then -below 1 else below 1)
    else .fin (erfApprox q))

/-- SQRT (R110, R164). -/
def Val.sqrt (v : Val) : NumM Val :=
  match v with
  | .fin q => if q < 0 then freshNaN else pure (.fin (sqrtRat q))
  | .inf true => freshNaN
  | v => pure v

/-- RSQRT (R164). -/
def Val.rsqrt (v : Val) : NumM Val :=
  match v with
  | .fin q => if q < 0 then freshNaN else pure (.fin (sqrtRat (1 / q)))
  | .inf true => freshNaN
  | .inf false => pure (.zero false)
  | .zero n => pure (.inf n)
  | .nan => pure .nan

/-- GELU, x (1 + erf (x/√2)) / 2, of a finite non-zero x (R167). Beyond 22 the value lies below x by less than any format tells. -/
def geluApprox (q : Rat) : Rat :=
  if 22 < q then below q
  else if q < -22 then -tiny
  else q * (1 + erfRoot2Approx q) / 2

/-- SILU, x · sigmoid x, of a finite non-zero x (R167). -/
def siluApprox (q : Rat) : Rat := if q < -480 then -tiny else if 400 < q then below q else q * sigmoidApprox q

/-- SOFTPLUS, ln (1 + e^x), of a finite x (R167). -/
def softplusApprox (q : Rat) : Rat :=
  if 480 < q then above q
  else if q < -480 then tiny
  else
    let e := expApprox q
    if q < -200 then e else lnApprox (1 + e)

/-- EXP in FP32, one rounding: the scalar step of R147 and R166. -/
def expF32 (v : Val) : NumM Val := do f32.roundVal .rne (← v.exp)

/-- RSQRT in FP32, one rounding: the scalar step of R166. -/
def rsqrtF32 (v : Val) : NumM Val := do f32.roundVal .rne (← v.rsqrt)

end Sys2Proof.Machine
end

