-- ==== Sys2Proof/Machine/Tensor.lean ====
section
/-!
DEFINITION. Tensors in memory: layouts (R69, R70, R128 to R132), the accumulator kinds (R104, R131, R744), reading a
tensor as patterns and values, and writing the elements an operation produces.
-/
namespace Sys2Proof.Machine

/-! ### Elements -/

/-- An element as an operation reads it: a point value or an interval. -/
inductive Elem where
  | pt (v : Val)
  | iv (i : Iv)
  deriving DecidableEq, Repr

/-- The point value of an element. -/
def Elem.val : Elem → Val
  | .pt v => v
  | .iv _ => .nan

/-- An element as an operation produces it: an exact value to be rounded once in `mode` (and saturated under `sat`),
an interval of binary16 endpoints, or a raw pattern. -/
inductive OutElem where
  | val (v : Val) (mode : RMode) (sat : Bool)
  | iv (i : Iv)
  | raw (w : Nat)
  deriving DecidableEq, Repr

/-- A result rounded once, RNE (R110). -/
def OutElem.rne (v : Val) : OutElem := .val v .rne false

/-! ### Accumulator kinds -/

/-- R104, R131: what an accumulator entry holds. -/
inductive AccKind where
  | int | flt | itv
  deriving DecidableEq, Repr

/-- An accumulator entry; `raw` is a 32-bit word stored as it is (R168, R744). -/
inductive AccVal where
  | int (i : Int)
  | flt (v : Val)
  | itv (i : Iv)
  | raw (w : Nat)
  deriving DecidableEq, Repr

/-- R104: the accumulator of an operand pair. -/
def accKindOf (a w : Fmt) (scaled : Bool) : AccKind :=
  if a = .iv16 || w = .iv16 then .itv
  else if a.isInt && w.isInt && !scaled then .int
  else .flt

/-- The starting value +0 of an accumulator. -/
def AccKind.zero : AccKind → AccVal
  | .int => .int 0
  | .flt => .flt (.zero false)
  | .itv => .itv ⟨.zero false, .zero false⟩

/-- The 32-bit words an entry occupies (R132): one, or lo and hi. -/
def AccVal.words : AccVal → List Nat
  | .int i => [intBits 32 i]
  | .flt v => [f32.encode v]
  | .itv i => [f32.encode (plusZero i.lo), f32.encode (plusZero i.hi)]
  | .raw w => [w]

/-- The entry of a kind in its words. -/
def AccKind.decode (k : AccKind) (lo hi : Nat) : AccVal :=
  match k with
  | .int => .int (bitsInt 32 lo)
  | .flt => .flt (f32.decode lo)
  | .itv => .itv ⟨f32.decode lo, f32.decode hi⟩

/-- The range of INT32. -/
def int32Range : Int × Int := (-2147483648, 2147483647)

/-- R133, R108: an entry as the vector engine, COPY or a drain reads it. -/
def AccVal.drain : AccVal → NumM Elem
  | .int i => do pure (.pt (← f32.roundVal .rne (Val.ofInt i)))
  | .flt v => pure (.pt v)
  | .itv i => do pure (.iv (← Iv.outward f16 (decide (i = Iv.whole)) i.lo i.hi))
  | .raw w => pure (.pt (f32.decode w))

/-- R751, R124: the IV32 interval of a point result: outward from its exact value. `largest` is M of its own format. -/
def Iv.ofResult (largest : Rat) (v : Val) : NumM Iv :=
  match v with
  | .fin _ => Iv.outward f32 false v v
  | v => Iv.ofPoint largest v

/-- R744, R751: a point of format `f` on its way into an IV32 entry stands for an interval by its own format's M; anything else goes as it is. -/
def OutElem.intoAcc (k : Option AccKind) (f : Fmt) (e : OutElem) : NumM OutElem :=
  match k, e with
  | some .itv, .val v _ _ => do pure (.iv (← Iv.ofResult ((f.float.getD f32).largest) v))
  | _, e => pure e

/-- R744: a produced element stored in an entry of a kind. A result is rounded once (R159): straight from its exact value to
FP32, to an INT32 integer or outward to the endpoints of IV32, and not by way of FP32 (DEDUCED, log entry 29: R744 does not say
from which form the value is taken). -/
def AccKind.store (k : AccKind) (e : OutElem) : NumM AccVal :=
  match k, e with
  | .flt, .val v m s => do pure (.flt (← f32.convert m s v))
  | .flt, .raw w => pure (.raw w)
  | .flt, .iv _ => pure (.flt .nan)
  | .int, .val v _ _ => do pure (.int (← convertInt int32Range.1 int32Range.2 .rne v))
  | .int, .raw w => do pure (.int (← convertInt int32Range.1 int32Range.2 .rne (f32.decode w)))
  | .int, .iv _ => pure (.int 0)
  | .itv, .val v _ _ => do pure (.itv (← Iv.ofResult f32.largest v))
  | .itv, .raw w => do pure (.itv (← (Iv.decode w).read))
  | .itv, .iv i => pure (.itv i)

/-! ### Layouts -/

/-- How a SCRATCHPAD tensor lies (R128): canonical order, or the tile layout of an A or W operand with tile depth
K_t. `tileWT` is TILE_W of the transpose (V of R146). -/
inductive Layout where
  | canon
  | tileA (kt : Nat)
  | tileW (kt : Nat)
  | tileWT (kt : Nat)
  deriving DecidableEq, Repr

/-- R125: the tile depth of a format. -/
def Fmt.tileDepth : Fmt → Nat
  | .int4 => 256
  | _ => 128

/-- R126: the tile depth of an operand pair. -/
def pairDepth (a b : Fmt) : Nat := Min.min a.tileDepth b.tileDepth

/-- A shape as batch items, rows and columns: everything before the last two extents is the batch. -/
def mat (shape : List Nat) : Nat × Nat × Nat :=
  match shape.reverse with
  | [] => (1, 1, 1)
  | [c] => (1, 1, c)
  | c :: r :: rest => (elemCount rest, r, c)

/-- The position, in elements from the tensor's offset, of the element with canonical index `i` (R69, R129). -/
def Layout.pos (l : Layout) (shape : List Nat) (i : Nat) : Nat :=
  let (_, rows, cols) := mat shape
  let c := i % cols
  let r := i / cols % rows
  let b := i / (cols * rows)
  let tileW (kt n nn k kk : Nat) : Nat :=
    (((b * ceilDiv nn 512 + n / 512) * ceilDiv kk kt + k / kt) * kt + k % kt) * 512 + n % 512
  match l with
  | .canon => i
  | .tileA kt => (b * ceilDiv cols kt * rows + c / kt * rows + r) * kt + c % kt
  | .tileW kt => tileW kt r rows c cols
  | .tileWT kt => tileW kt c cols r rows

/-- The elements the layout spans, padding included (R129). -/
def Layout.span (l : Layout) (shape : List Nat) : Nat :=
  let (b, rows, cols) := mat shape
  match l with
  | .canon => elemCount shape
  | .tileA kt => b * ceilDiv cols kt * rows * kt
  | .tileW kt => b * ceilDiv rows 512 * ceilDiv cols kt * kt * 512
  | .tileWT kt => b * ceilDiv cols 512 * ceilDiv rows kt * kt * 512

/-- The position among the scale bytes of the scale of canonical element `i` (R70, R130). The spec does not say along which
axis the block scales of V run where it is held as TILE_W of its transpose (R146): R130 read for the transpose has them along
the keys, R70 along the last dimension d. The model takes the keys (DESIGN CHOICE, log entry 29). -/
def Layout.scalePos (l : Layout) (shape : List Nat) (i : Nat) : Nat :=
  let (_, rows, cols) := mat shape
  let c := i % cols
  let r := i / cols % rows
  let b := i / (cols * rows)
  match l with
  | .canon => i / 32
  | .tileA kt => (b * ceilDiv cols kt * rows + c / kt * rows + r) * (kt / 32) + c / 32 % (kt / 32)
  | .tileW kt =>
    (((b * ceilDiv rows 512 + r / 512) * ceilDiv cols kt + c / kt) * (kt / 32) + c / 32 % (kt / 32)) * 512 + r % 512
  | .tileWT kt =>
    (((b * ceilDiv cols 512 + c / 512) * ceilDiv rows kt + r / kt) * (kt / 32) + r / 32 % (kt / 32)) * 512 + c % 512

/-- The number of scale bytes of a block-scaled tensor. -/
def Layout.scaleSpan (l : Layout) (shape : List Nat) : Nat := l.span shape / 32

/-- A tensor as an operation sees it: how it lies and what it holds. -/
structure TensorDesc where
  fmt : Fmt
  shape : List Nat
  scaled : Bool
  layout : Layout
  acc : Option AccKind
  deriving DecidableEq, Repr

/-- The rows of accumulator memory an ACCUMULATOR tensor takes (R132). -/
def accRows (shape : List Nat) (k : AccKind) : Nat :=
  let (b, rows, cols) := mat shape
  ceilDiv cols 512 * (b * rows) * (if k = .itv then 2 else 1)

/-- The byte size of a tensor where it lies: padded tiles, scales, accumulator rows. -/
def TensorDesc.footprint (t : TensorDesc) : Nat :=
  match t.acc with
  | some k => accRows t.shape k * 2048
  | none =>
    let d := dataBytes t.fmt (t.layout.span t.shape)
    if t.scaled then alignUp d 64 + t.layout.scaleSpan t.shape else d

/-- A byte string for random access. -/
abbrev ByteArr := Array Byte

/-- A little-endian field of an array of bytes. -/
def arrField (bs : ByteArr) (o n : Nat) : Nat := leNat (tabulate n (fun i => bs.getD (o + i) 0))

/-- The pattern of the element at position `p` (R69: 4-bit elements two per byte, the lower-indexed one in [3:0]). -/
def patternAt (f : Fmt) (bs : ByteArr) (p : Nat) : Nat :=
  if f.bits = 4 then (bs.getD (p / 2) 0).toNat / (if p % 2 = 0 then 1 else 16) % 16
  else arrField bs (p * (f.bits / 8)) (f.bits / 8)

/-- The bytes with the pattern of the element at position `p` replaced. -/
def putPattern (f : Fmt) (bs : ByteArr) (p w : Nat) : ByteArr :=
  if f.bits = 4 then
    let b := (bs.getD (p / 2) 0).toNat
    let b' := if p % 2 = 0 then b / 16 * 16 + w % 16 else b % 16 + 16 * (w % 16)
    bs.setIfInBounds (p / 2) (BitVec.ofNat 8 b')
  else
    let n := f.bits / 8
    (List.range n).foldl (fun a i => a.setIfInBounds (p * n + i) (BitVec.ofNat 8 (w / 256 ^ i))) bs

/-- The byte offset of the word of accumulator element `i` within the tensor (R132); `half` 1 is the hi word. -/
def accWordOff (shape : List Nat) (k : AccKind) (i half : Nat) : Nat :=
  let (b, rows, cols) := mat shape
  let n := i % cols
  let m := i / cols
  let rho := n / 512 * (b * rows) + m
  let row := if k = .itv then 2 * rho + half else rho
  row * 2048 + n % 512 * 4

/-- The accumulator entries of a tensor, in canonical order. -/
def TensorDesc.accVals (t : TensorDesc) (k : AccKind) (bs : ByteArr) : List AccVal :=
  tabulate (elemCount t.shape) (fun i =>
    k.decode (arrField bs (accWordOff t.shape k i 0) 4) (arrField bs (accWordOff t.shape k i 1) 4))

/-- The patterns of a tensor outside accumulator memory, in canonical order. -/
def TensorDesc.patterns (t : TensorDesc) (bs : ByteArr) : List Nat :=
  tabulate (elemCount t.shape) (fun i => patternAt t.fmt bs (t.layout.pos t.shape i))

/-- The blocks of a block-scaled tensor, by the numbers of their elements (R70, R111, R146): 32 along the last dimension, or along the
keys where V is held as the transpose's TILE_W (log entry 29). -/
def TensorDesc.blocks (t : TensorDesc) : List (List Nat) :=
  match t.layout with
  | .tileWT _ =>
    let (b, rows, cols) := mat t.shape
    (List.range (b * ceilDiv rows 32 * cols)).map (fun g =>
      let r := g / cols % ceilDiv rows 32 * 32
      tabulate (Min.min 32 (rows - r)) (fun j => (g / (cols * ceilDiv rows 32) * rows + r + j) * cols + g % cols))
  | _ => (List.range (elemCount t.shape / 32)).map (fun g => tabulate 32 (fun j => 32 * g + j))

/-- The number of a block-scaled tensor's blocks. -/
def TensorDesc.blockCount (t : TensorDesc) : Nat :=
  match t.layout with
  | .tileWT _ => let (b, rows, cols) := mat t.shape; b * ceilDiv rows 32 * cols
  | _ => elemCount t.shape / 32

/-- Where the scale byte of element `i` lies (R70). -/
def TensorDesc.scaleAt (t : TensorDesc) (i : Nat) : Nat :=
  alignUp (dataBytes t.fmt (t.layout.span t.shape)) 64 + t.layout.scalePos t.shape i

/-- The scale byte of element `i` (R70, R111). -/
def TensorDesc.scaleOf (t : TensorDesc) (bs : ByteArr) (i : Nat) : Nat :=
  (bs.getD (t.scaleAt i) 0).toNat

/-- One element as an operation reads it (R98, R111, R118). -/
def TensorDesc.elemAt (t : TensorDesc) (bs : ByteArr) (i : Nat) : NumM Elem :=
  match t.acc with
  | some k => (k.decode (arrField bs (accWordOff t.shape k i 0) 4) (arrField bs (accWordOff t.shape k i 1) 4)).drain
  | none =>
    let w := patternAt t.fmt bs (t.layout.pos t.shape i)
    if t.fmt = .iv16 then do pure (.iv (← (Iv.decode w).read))
    else
      let v := t.fmt.decode w
      pure (.pt (if t.scaled then scaleVal v (t.scaleOf bs i) else v))

/-- The elements of a tensor in canonical order. -/
def TensorDesc.elems (t : TensorDesc) (bs : ByteArr) : NumM (List Elem) :=
  (List.range (elemCount t.shape)).mapM (t.elemAt bs)

/-- The raw 32-bit words of an FP32-format tensor (R169, R194); of one in accumulator memory those of its elements as a read gives
them (R108, R132, R133). -/
def TensorDesc.rawWords (t : TensorDesc) (bs : ByteArr) : List Nat :=
  match t.acc with
  | none => t.patterns bs
  | some k => tabulate (elemCount t.shape) (fun i =>
      let w := arrField bs (accWordOff t.shape k i 0) 4
      match k with
      | .int => f32.encode (f32.roundVal .rne (Val.ofInt (bitsInt 32 w))).runFlags.1
      | _ => w)

/-- The pattern of one produced element in a format without block scale (R110, R114, R119). -/
def Fmt.encodeOut (f : Fmt) (e : OutElem) : NumM Nat :=
  match e with
  | .raw w => pure w
  | .iv i => pure (if f = .iv16 then i.encode else 0)
  | .val v m s =>
    if f = .iv16 then do pure (← Iv.convert v).encode
    else f.convert m s v

/-- The value and rounding of a produced element of a block-scaled output. -/
def OutElem.point : OutElem → Val × RMode × Bool
  | .val v m s => (v, m, s)
  | .raw w => (f32.decode w, .rne, false)
  | .iv _ => (.nan, .rne, false)

/-- Write a block of 32 elements: patterns and scale byte (R112, R113). -/
def TensorDesc.putBlock (t : TensorDesc) (blk : List (Nat × OutElem)) (bs : ByteArr) : NumM ByteArr := do
  let ps := blk.map (fun e => e.2.point)
  let (_, mode, sat) := ps.headD (.nan, .rne, false)
  let (sc, ws) ← writeBlock t.fmt mode sat (ps.map (fun p => p.1))
  let bs := (ws.zip blk).foldl (fun a (w, i, _) => putPattern t.fmt a (t.layout.pos t.shape i) w) bs
  pure (bs.setIfInBounds (t.scaleAt ((blk.head?.map Prod.fst).getD 0)) (BitVec.ofNat 8 sc))

/-- Write all elements of a tensor over the bytes it holds. -/
def TensorDesc.put (t : TensorDesc) (es : List OutElem) (bs : ByteArr) : NumM ByteArr :=
  match t.acc with
  | some k => es.zipIdx.foldlM (fun a (e, i) => do
      let v ← k.store e
      pure (v.words.zipIdx.foldl (fun a (w, h) =>
        putPattern .fp32 a (accWordOff t.shape k i h / 4) w) a)) bs
  | none =>
    if t.scaled then
      let ea := es.toArray
      t.blocks.foldlM (fun a blk => t.putBlock (blk.filterMap (fun i => (ea[i]?).map (fun e => (i, e)))) a) bs
    else es.zipIdx.foldlM (fun a (e, i) => do
      let w ← t.fmt.encodeOut e
      pure (putPattern t.fmt a (t.layout.pos t.shape i) w)) bs

/-- Write accumulator entries of the kind the tensor holds. -/
def TensorDesc.putAcc (t : TensorDesc) (k : AccKind) (vs : List AccVal) (bs : ByteArr) : ByteArr :=
  vs.zipIdx.foldl (fun a (v, i) => v.words.zipIdx.foldl (fun a (w, h) =>
    putPattern .fp32 a (accWordOff t.shape k i h / 4) w) a) bs

/-! ### The layout a plan gives each tensor -/

/-- R128, R146, R149: the layouts in which an operation reads tensor `x` as an A operand, as a W operand or as V. A convolution
forms the rows of its X from the tensor whatever its layout, so X asks for none (log entry 32). -/
def OpRec.layoutsFor (ts : List TensorEnt) (o : OpRec) (x : Nat) : List Layout :=
  let f (i : Nat) : Fmt := match ts[i]? with
    | some t => t.fmt
    | none => .fp32
  let pair := pairDepth (f (o.inp 0)) (f (o.inp 1))
  let at_ (i : Nat) (l : Layout) : List Layout := if o.inp i = x then [l] else []
  if o.opcode = 0x0100 || o.opcode = 0x0101 then at_ 0 (.tileA pair) ++ at_ 1 (.tileW pair)
  else if o.opcode = 0x0102 then at_ 0 (.tileA pair) ++ at_ 1 (.tileW pair) ++ at_ 2 (.tileWT (f x).tileDepth)
  else if o.opcode = 0x0103 then at_ 1 (.tileW pair)
  else []

/-- All operations of a plan in stage and record order. -/
def Plan.ops (p : Plan) : List OpRec := p.stages.flatMap (fun s => s.ops)

/-- R128: the layout of tensor `x`. -/
def Plan.layout (p : Plan) (x : Nat) : Layout :=
  match p.tensors[x]? with
  | some t =>
    if t.sp = .scratchpad then (p.ops.flatMap (fun o => o.layoutsFor p.tensors x)).headD .canon else .canon
  | none => .canon

/-- The accumulator kind of a matrix operation's operands. -/
def OpRec.accKind (ts : List TensorEnt) (o : OpRec) : AccKind :=
  match ts[o.inp 0]?, ts[o.inp 1]? with
  | some a, some w => accKindOf a.fmt w.fmt (a.scaled || w.scaled)
  | _, _ => .flt

/-- The matrix operations of R131. -/
def OpRec.isMatrix (o : OpRec) : Bool := decide (o.opcode = 0x0100 ∨ o.opcode = 0x0101 ∨ o.opcode = 0x0103)

/-- R131, R744: the kind of an ACCUMULATOR tensor. -/
def Plan.accKind (p : Plan) (x : Nat) : AccKind :=
  match p.ops.find? (fun o => o.isMatrix && decide (o.out 0 = x)) with
  | some o => o.accKind p.tensors
  | none => if (p.tensors[x]?.map (fun t => t.fmt)) = some Fmt.iv16 then .itv else .flt

/-- The description of tensor `x` as an operation of a stage sees it. -/
def Plan.desc (p : Plan) (all : Bool) (x : Nat) : TensorDesc :=
  match p.tensors[x]? with
  | some t =>
    { fmt := t.fmt, shape := t.seen p.lcs all, scaled := t.scaled, layout := p.layout x,
      acc := if t.sp = .accumulator then some (p.accKind x) else none }
  | none => { fmt := .fp32, shape := [], scaled := false, layout := .canon, acc := none }

end Sys2Proof.Machine
end

