-- ==== Sys2Proof/Machine/Fletcher.lean ====
section
/-!
DEFINITION. Fletcher kinematics (R170 to R201) and random generation (R202 to R206): body models, frame composition
in point and interval mode, the records the two operations write, and the noise of the counter-based generator.
-/
namespace Sys2Proof.Machine

/-! ### Body models (R170 to R173) -/

/-- A joint record (R171); `parent` is none for the base frame. -/
structure Joint where
  rot : List Val
  pos : List Val
  qMin : Val
  qMax : Val
  prismatic : Bool
  parent : Option Nat
  deriving DecidableEq, Repr

/-- A primitive record (R172); `link` is none for the base frame. -/
structure Prim where
  capsule : Bool
  link : Option Nat
  radius : Val
  a : List Val
  b : List Val
  deriving DecidableEq, Repr

/-- A body model. -/
structure Body where
  baseRot : List Val
  basePos : List Val
  joints : List Joint
  prims : List Prim
  deriving DecidableEq, Repr

/-- The size of a body model record (R170). -/
def bodyBytes : Nat := 3136

/-- `n` consecutive FP32 values of a record. -/
def f32List (bs : List Byte) (off n : Nat) : List Val := tabulate n (fun i => f32.decode (field bs (off + 4 * i) 4))

/-- The joint record at an offset (R171). -/
def parseJoint (bs : List Byte) (o : Nat) : Joint :=
  let p := field bs (o + 0x39) 1
  { rot := f32List bs o 9, pos := f32List bs (o + 0x24) 3, qMin := f32.decode (field bs (o + 0x30) 4),
    qMax := f32.decode (field bs (o + 0x34) 4), prismatic := field bs (o + 0x38) 1 = 1,
    parent := if p = 0xFF then none else some p }

/-- The primitive record at an offset (R172). -/
def parsePrim (bs : List Byte) (o : Nat) : Prim :=
  let l := field bs (o + 1) 1
  { capsule := field bs o 1 = 1, link := if l = 0xFF then none else some l, radius := f32.decode (field bs (o + 4) 4),
    a := f32List bs (o + 8) 3, b := f32List bs (o + 0x14) 3 }

/-- The body model of a record (R170). -/
def parseBody (bs : List Byte) : Body :=
  { baseRot := f32List bs 4 9, basePos := f32List bs 0x28 3,
    joints := tabulate (field bs 0 1) (fun j => parseJoint bs (0x40 + 64 * j)),
    prims := tabulate (field bs 1 1) (fun k => parsePrim bs (0x440 + 32 * k)) }

/-- Whether a range of a record is zero. -/
def zeroRange (bs : List Byte) (off n : Nat) : Bool := ((bs.drop off).take n).all (· = 0)

/-- R173: whether a body model record is valid. -/
def bodyValid (bs : List Byte) : Bool :=
  let j := field bs 0 1
  let p := field bs 1 1
  let fin (o n : Nat) := (f32List bs o n).all Val.isFinite
  let jointOk (i : Nat) : Bool :=
    let o := 0x40 + 64 * i
    fin o 14 && Val.le (f32.decode (field bs (o + 0x30) 4)) (f32.decode (field bs (o + 0x34) 4)) &&
      decide (field bs (o + 0x38) 1 ≤ 1) &&
      (decide (field bs (o + 0x39) 1 < i) || decide (field bs (o + 0x39) 1 = 0xFF)) && zeroRange bs (o + 0x3A) 6
  let primOk (i : Nat) : Bool :=
    let o := 0x440 + 32 * i
    fin (o + 4) 7 && Val.le (.zero false) (f32.decode (field bs (o + 4) 4)) && decide (field bs o 1 ≤ 1) &&
      (decide (field bs (o + 1) 1 < j) || decide (field bs (o + 1) 1 = 0xFF)) && zeroRange bs (o + 2) 2
  decide (1 ≤ j ∧ j ≤ 16 ∧ 1 ≤ p ∧ p ≤ 64) && zeroRange bs 2 2 && fin 4 12 && zeroRange bs 0x34 12 &&
    (List.range j).all jointOk && zeroRange bs (0x40 + 64 * j) (64 * (16 - j)) &&
    (List.range p).all primOk && zeroRange bs (0x440 + 32 * p) (32 * (64 - p))

/-! ### Frames (R181 to R183, R187 to R189) -/

/-- The scalars of a mode: a fused sum of products and plain terms rounded once (R182, R189), negation, and a point
constant as a scalar. -/
structure FkOps (S : Type) where
  fused : List (S × S) → List S → NumM S
  neg : S → S
  ofVal : Val → NumM S

/-- An exact sum in order. -/
def sumVals (mode : RMode) : List Val → Val
  | [] => .zero false
  | v :: vs => vs.foldl (Val.add mode) v

/-- Point mode: FP32, RNE. -/
def pointOps : FkOps Val where
  fused ps ts := f32.result .rne (ps.map Prod.fst ++ ps.map Prod.snd ++ ts)
    (sumVals .rne (ts ++ ps.map (fun p => Val.mul p.1 p.2)))
  neg := Val.neg
  ofVal v := pure v

/-- Interval mode: the sums of the exact extremes of the terms, rounded outward once (R189). -/
def intervalOps : FkOps Iv where
  fused ps ts :=
    let ext := ts.map (fun i => (i.lo, i.hi)) ++ ps.map (fun p => p.1.mulExact p.2)
    let whole := (ps.map Prod.fst ++ ps.map Prod.snd ++ ts).any (fun i => decide (i = Iv.whole))
    Iv.outward f32 whole (sumVals .rdn (ext.map Prod.fst)) (sumVals .rup (ext.map Prod.snd))
  neg := Iv.neg
  ofVal v := Iv.ofPoint f32.largest v

/-- A frame: a rotation (row-major) and an origin. -/
structure Frame (S : Type) where
  rot : List S
  pos : List S
  deriving Repr

/-- Entry `i` of a list of scalars. -/
def sAt {S : Type} (z : S) (l : List S) (i : Nat) : S := l.getD i z

/-- The rotation product of R181: each entry a 3-term dot product. -/
def rotMul {S : Type} (o : FkOps S) (z : S) (a b : List S) : NumM (List S) :=
  (List.range 9).mapM (fun i =>
    let r := i / 3
    let c := i % 3
    o.fused (tabulate 3 (fun k => (sAt z a (3 * r + k), sAt z b (3 * k + c)))) [])

/-- A point placed from a frame: each component an origin component plus a 3-term dot product. -/
def place {S : Type} (o : FkOps S) (z : S) (f : Frame S) (x : List S) : NumM (List S) :=
  (List.range 3).mapM (fun r =>
    o.fused (tabulate 3 (fun k => (sAt z f.rot (3 * r + k), sAt z x k))) [sAt z f.pos r])

/-- The frame of one joint from its parent's, with the joint value (prismatic) or its cosine and sine (revolute). -/
def jointFrame {S : Type} (o : FkOps S) (z : S) (par : Frame S) (j : Joint) (q c s : S) : NumM (Frame S) := do
  let f ← j.rot.mapM o.ofVal
  let fp ← j.pos.mapM o.ofVal
  let col (k r : Nat) := sAt z f (3 * r + k)
  let (lrot, lpos) ←
    if j.prismatic then do
      let lp ← (List.range 3).mapM (fun r => o.fused [(q, col 2 r)] [sAt z fp r])
      pure (f, lp)
    else do
      let rot ← (List.range 9).mapM (fun i =>
        let r := i / 3
        match i % 3 with
        | 0 => o.fused [(c, col 0 r), (s, col 1 r)] []
        | 1 => o.fused [(c, col 1 r), (s, o.neg (col 0 r))] []
        | _ => pure (col 2 r))
      pure (rot, fp)
  let rot ← rotMul o z par.rot lrot
  let pos ← place o z par lpos
  pure ⟨rot, pos⟩

/-- The frames of all joints, in ascending order (R181). `vals` gives each joint's value, cosine and sine. -/
def jointFrames {S : Type} (o : FkOps S) (z : S) (b : Body) (base : Frame S) (vals : List (S × S × S)) :
    NumM (List (Frame S)) :=
  (b.joints.zip vals).foldlM (fun fs (j, q, c, s) => do
    let par := match j.parent with
      | some p => fs.getD p base
      | none => base
    let f ← jointFrame o z par j q c s
    pure (fs ++ [f])) []

/-- The frame a primitive is placed from. -/
def linkFrame {S : Type} (fs : List (Frame S)) (base : Frame S) (p : Prim) : Frame S :=
  match p.link with
  | some l => fs.getD l base
  | none => base

/-! ### Point mode (R184 to R186) -/

/-- The pattern of a value in FP32. -/
def w32 (v : Val) : Nat := f32.encode v

/-- R185: the flags of a waypoint: INVALID and LIMIT. -/
def waypointFlags (b : Body) (way : List Val) : Bool × Bool :=
  (way.any (fun v => !v.isFinite),
   (b.joints.zip (way.drop 1)).any (fun (j, q) => Val.lt q j.qMin || Val.lt j.qMax q))

/-- The joint values of a waypoint with their cosines and sines, FP32 (R183). -/
def pointVals (b : Body) (way : List Val) : NumM (List (Val × Val × Val)) :=
  (b.joints.zip (way.drop 1)).mapM (fun (j, q) => do
    if j.prismatic then pure (q, .zero false, .zero false)
    else pure (q, ← f32.roundVal .rne (← q.cos), ← f32.roundVal .rne (← q.sin)))

/-- Whether joint `a` is joint `l` or an ancestor of it, following at most `fuel` parents. -/
def isAncestor (b : Body) (a : Nat) : Nat → Nat → Bool
  | 0, l => decide (a = l)
  | fuel + 1, l => decide (a = l) || (match (b.joints[l]?).bind (fun j => j.parent) with
    | some p => isAncestor b a fuel p
    | none => false)

/-- R186: the Jacobian of one primitive, row-major 3 × 16. -/
def jacobian (b : Body) (fs : List (Frame Val)) (p : Prim) (xa : List Val) : NumM (List Val) := do
  let z : Val := .zero false
  let cols ← (List.range 16).mapM (fun j => do
    match b.joints[j]?, fs[j]?, p.link with
    | some jt, some f, some l =>
      if isAncestor b j 16 l then
        let ax := tabulate 3 (fun r => sAt z f.rot (3 * r + 2))
        if jt.prismatic then pure ax
        else do
          let d ← (List.range 3).mapM (fun r => f32.sub (sAt z xa r) (sAt z f.pos r))
          let g (i : Nat) := sAt z ax i
          let e (i : Nat) := sAt z d i
          (List.range 3).mapM (fun r =>
            let i := (r + 1) % 3
            let k := (r + 2) % 3
            pointOps.fused [(g i, e k), (g k, (e i).neg)] [])
      else pure [z, z, z]
    | _, _, _ => pure [z, z, z])
  pure ((List.range 48).map (fun i => (cols.getD (i % 16) []).getD (i / 16) z))

/-- R184, R185: the records of one waypoint (8 words each; NaN for an INVALID one, with NV where it holds no NaN itself) and, with `jac`, their Jacobians (48 words each). -/
def pointRecords (b : Body) (jac : Bool) (way : List Val) : NumM (List Nat × List Nat) := do
  let (invalid, limit) := waypointFlags b way
  let flags := bit01 invalid + 2 * bit01 limit
  let nan := f32.nanBits
  if invalid then do
    if !way.any Val.isNan then raiseNV
    pure (b.prims.flatMap (fun p => [nan, nan, nan, w32 p.radius, nan, nan, nan, flags]),
          if jac then List.replicate (48 * b.prims.length) nan else [])
  else
    let base : Frame Val := ⟨b.baseRot, b.basePos⟩
    let z : Val := .zero false
    let fs ← jointFrames pointOps z b base (← pointVals b way)
    let rs ← b.prims.mapM (fun p => do
      let f := linkFrame fs base p
      let xa ← place pointOps z f p.a
      let xb ← if p.capsule then place pointOps z f p.b else pure xa
      let jc ← if jac then jacobian b fs p xa else pure []
      pure (xa.map w32 ++ [w32 p.radius] ++ xb.map w32 ++ [flags], jc.map w32))
    pure (rs.flatMap Prod.fst, rs.flatMap Prod.snd)

/-- R184, R186: point forward kinematics over all waypoints of J + 1 values each. -/
def pointKinematics (b : Body) (jac : Bool) (ways : List (List Val)) : NumM (List Nat × List Nat) := do
  let rs ← ways.mapM (pointRecords b jac)
  pure (rs.flatMap Prod.fst, rs.flatMap Prod.snd)

/-! ### Interval mode (R187 to R196) -/

/-- Whether the residue class `r` modulo 4 of the multiples of π/2 meets [lo, hi] (fixed point). -/
def quarterIn (r : Int) (lo hi : Int) : Bool :=
  let half := fxPi / 2
  let j0 := -((-lo) / half)
  let j := j0 + ((r - j0) % 4)
  decide (j * half ≤ hi)

/-- The range of cosine (`r0` = 0) or sine (`r0` = 1) over [lo, hi], rounded outward and clipped to [−1, +1]
(R188). -/
def trigRange (r0 : Int) (f : Rat → Rat) (lo hi : Rat) : Iv :=
  let a := toFx lo
  let b := toFx hi
  let one : Iv := ⟨.fin (-1), .fin 1⟩
  if 4 * (fxPi / 2) ≤ b - a then one
  else
    let vl := f lo
    let vh := f hi
    let mn := if vl < vh then vl else vh
    let mx := if vl < vh then vh else vl
    let dn (q : Rat) : Val := if q = 0 then .zero false else .fin (Max.max (f32.roundUnbounded .rdn q) (-1))
    let up (q : Rat) : Val := if q = 0 then .zero false else .fin (Min.min (f32.roundUnbounded .rup q) 1)
    ⟨if quarterIn (r0 + 2) a b then one.lo else dn mn, if quarterIn r0 a b then one.hi else plusZero (up mx)⟩

/-- R188: the cosine interval of a joint interval. -/
def cosIv (i : Iv) : Iv :=
  if i.lo.isInf || i.hi.isInf then ⟨.fin (-1), .fin 1⟩
  else trigRange 0 (fun q => (sinCosApprox q).2) i.lo.toRat i.hi.toRat

/-- R188: the sine interval of a joint interval. -/
def sinIv (i : Iv) : Iv :=
  if i.lo.isInf || i.hi.isInf then ⟨.fin (-1), .fin 1⟩
  else trigRange 1 (fun q => (sinCosApprox q).1) i.lo.toRat i.hi.toRat

/-- A segment of a trajectory or a sub-range of it: its two waypoints and the exact fractions. -/
structure SegPart where
  w0 : List Val
  w1 : List Val
  f0 : Rat
  f1 : Rat
  deriving DecidableEq, Repr

/-- R180: INVALID, decided over the whole segment. -/
def SegPart.invalid (s : SegPart) : Bool :=
  (s.w0 ++ s.w1).any (fun v => !v.isFinite) || !Val.lt (s.w0.headD .nan) (s.w1.headD .nan)

/-- R179: the exact value of element `i` at fraction `f`. -/
def SegPart.at_ (s : SegPart) (i : Nat) (f : Rat) : Rat :=
  let a := (s.w0.getD i (.zero false)).toRat
  let b := (s.w1.getD i (.zero false)).toRat
  a + f * (b - a)

/-- The exact least and greatest value of element `i` over the part. -/
def SegPart.range (s : SegPart) (i : Nat) : Rat × Rat :=
  let x := s.at_ i s.f0
  let y := s.at_ i s.f1
  if x < y then (x, y) else (y, x)

/-- R180: LIMIT over the part's own fractions. -/
def SegPart.limit (s : SegPart) (b : Body) : Bool :=
  (b.joints.zipIdx).any (fun (j, i) =>
    let (lo, hi) := s.range (i + 1)
    decide (lo < j.qMin.toRat) || decide (j.qMax.toRat < hi))

/-- An exact range of reals rounded outward to FP32 endpoints; one that rounds to the whole line sets IVW (R117, R123). -/
def ivOfRange (lo hi : Rat) : NumM Iv := Iv.outward f32 false (Val.ofRat lo) (Val.ofRat hi)

/-- The identifying fields of a swept-box record (R190). -/
structure BoxId where
  cand : Nat
  seg : Nat
  prim : Nat
  sub : Nat
  deriving DecidableEq, Repr

/-- R190: a swept-box record of 12 words. -/
def boxWords (lo hi : List Val) (radius : Val) (tlo thi : Val) (id : BoxId) (bflags : Nat) : List Nat :=
  lo.map w32 ++ hi.map w32 ++
    [w32 radius, w32 tlo, w32 thi, id.cand, id.seg + 256 * id.prim + 65536 * id.sub, bflags]

/-- R187: the time interval of a part. -/
def SegPart.time (s : SegPart) : NumM Iv := ivOfRange (s.at_ 0 s.f0) (s.at_ 0 s.f1)

/-- R187: the joint intervals with their cosine and sine intervals. -/
def SegPart.vals (s : SegPart) (b : Body) (pad : Rat) : NumM (List (Iv × Iv × Iv)) :=
  b.joints.zipIdx.mapM (fun (_, i) => do
    let (lo, hi) := s.range (i + 1)
    let q ← ivOfRange (lo - pad) (hi + pad)
    pure (q, cosIv q, sinIv q))

/-- R190, R191: the record of one primitive over a part whose frames are given. -/
def boxRecord (base : Frame Iv) (fs : List (Frame Iv)) (s : SegPart) (limit : Bool) (p : Prim) (id : BoxId) :
    NumM (List Nat) := do
  let z : Iv := ⟨.zero false, .zero false⟩
  let f := linkFrame fs base p
  let pt (x : List Val) : NumM (List Iv) := do place intervalOps z f (← x.mapM intervalOps.ofVal)
  let xa ← pt p.a
  let xb ← if p.capsule then pt p.b else pure xa
  let lo := List.zipWith (fun a b => Val.min a.lo b.lo) xa xb
  let hi := List.zipWith (fun a b => Val.max a.hi b.hi) xa xb
  let wide := (lo ++ hi).any Val.isInf
  let t ← s.time
  pure (boxWords lo hi p.radius t.lo t.hi id (2 * bit01 limit + 8 * bit01 wide))

/-- R191: the record of an INVALID segment. Its whole lines set no IVW: R117 does not say (DESIGN CHOICE, log entry 28). -/
def invalidBox (s : SegPart) (p : Prim) (id : BoxId) : List Nat :=
  let ninf : Val := .inf true
  let pinf : Val := .inf false
  boxWords [ninf, ninf, ninf] [pinf, pinf, pinf] p.radius (s.w0.headD .nan) (s.w1.headD .nan) id 9

/-- The records of the primitives in `ks` over one part. -/
def partRecords (b : Body) (pad : Rat) (s : SegPart) (ks : List Nat) (id : Nat → BoxId) : NumM (List Nat) := do
  let dflt : Prim := ⟨false, none, .zero false, [], []⟩
  if s.invalid then pure (ks.flatMap (fun k => invalidBox s (b.prims.getD k dflt) (id k)))
  else
    let z : Iv := ⟨.zero false, .zero false⟩
    let base : Frame Iv := ⟨← b.baseRot.mapM intervalOps.ofVal, ← b.basePos.mapM intervalOps.ofVal⟩
    let fs ← jointFrames intervalOps z b base (← s.vals b pad)
    let rs ← ks.mapM (fun k => boxRecord base fs s (s.limit b) (b.prims.getD k dflt) (id k))
    pure rs.flatten

/-- R193: all records of a trajectory tensor of C candidates and W waypoints, as rows of J + 1 values. -/
def sweptBoxes (b : Body) (pad : Rat) (c w : Nat) (ways : Array (List Val)) : NumM (List Nat) := do
  let rs ← (List.range (c * (w - 1))).mapM (fun e =>
    let ci := e / (w - 1)
    let i := e % (w - 1)
    let s : SegPart := ⟨ways.getD (ci * w + i) [], ways.getD (ci * w + i + 1) [], 0, 1⟩
    partRecords b pad s (List.range b.prims.length) (fun k => ⟨ci, i, k, 0⟩))
  pure rs.flatten

/-- R195: a PADDED record. -/
def paddedBox (w0 w1 : Nat) : List Nat :=
  let z : Val := .zero false
  boxWords [z, z, z] [z, z, z] z z z
    ⟨w0, bitsOf w1 7 0, bitsOf w1 15 8, bitsOf w1 19 16 + 16 * bitsOf w1 27 20⟩ 4

/-- R194, R195: the record of one entry of a sub-range list. -/
def subRangeRecord (b : Body) (pad : Rat) (c w : Nat) (ways : Array (List Val)) (w0 w1 : Nat) : NumM (List Nat) :=
  let seg := bitsOf w1 7 0
  let prim := bitsOf w1 15 8
  let d := bitsOf w1 19 16
  let n := bitsOf w1 27 20
  if w0 = 0xFFFFFFFF || decide (c ≤ w0) || decide (w ≤ seg + 1) || decide (b.prims.length ≤ prim) ||
      decide (bitsOf w1 31 28 ≠ 0) || decide (8 < d) || decide (2 ^ d ≤ n) then pure (paddedBox w0 w1)
  else
    let s : SegPart := ⟨ways.getD (w0 * w + seg) [], ways.getD (w0 * w + seg + 1) [],
      (n : Rat) / ((2 ^ d : Nat) : Rat), ((n + 1 : Nat) : Rat) / ((2 ^ d : Nat) : Rat)⟩
    partRecords b pad s [prim] (fun k => ⟨w0, seg, k, d + 16 * n⟩)

/-- R194: one record per entry, in entry order. -/
def subRangeBoxes (b : Body) (pad : Rat) (c w : Nat) (ways : Array (List Val)) (entries : List (Nat × Nat)) :
    NumM (List Nat) := do
  let rs ← entries.mapM (fun (w0, w1) => subRangeRecord b pad c w ways w0 w1)
  pure rs.flatten

/-! ### Random generation (R202 to R206) -/

/-- R203: the four words of the block of element `e`. -/
def randomBlock (seed iter stream e : Nat) : List Nat :=
  let b := e / 4
  philox [b % 2 ^ 32, b / 2 ^ 32 % 2 ^ 32, iter, stream] (seed % 2 ^ 32) (seed / 2 ^ 32)

/-- 2^−24 units. -/
def unit24 (n : Nat) : Rat := (n : Rat) * pow2 (-24)

/-- R205: element `e` of a distribution. -/
def randomElem (dist : Nat) (p0 p1 : Val) (seed iter stream e : Nat) : OutElem :=
  let ws := randomBlock seed iter stream e
  let w := ws.getD (e % 4) 0
  match dist with
  | 0 => .raw w
  | 1 => OutElem.rne (Val.ofRat (p0.toRat + (p1.toRat - p0.toRat) * unit24 (w / 256)))
  | _ =>
    let we := ws.getD (e % 4 / 2 * 2) 0
    let wo := ws.getD (e % 4 / 2 * 2 + 1) 0
    let u1 := unit24 (we / 256 + 1)
    let u2 := unit24 (wo / 256)
    if p1.toRat = 0 then OutElem.rne p0
    else
      let r := if u1 = 1 then 0 else sqrtRat (-2 * lnApprox u1)
      let (s, c) := turnApprox u2
      OutElem.rne (Val.ofRat (p0.toRat + p1.toRat * r * (if e % 2 = 0 then c else s)))

end Sys2Proof.Machine
end

