-- ==== Sys2Proof/Machine/State.lean ====
section
/-!
DEFINITION. The state of the block: everything the spec gives it, as plain data, the state after reset, and the
reasons a step can stop.
-/
namespace Sys2Proof.Machine

/-! ### Identity, fuses and security (chapters 0, 19) -/

/-- An RSA key pair as the die holds it (R658, R670): modulus, public exponent, private exponent (none once destroyed, R667). -/
structure RsaKey where
  n : Nat
  e : Nat
  d : Option Nat
  deriving DecidableEq, Repr

/-- The security fuses of a die (R657, R671); `slotHash` has four entries, none while a slot is empty; `life` is the
fused lifecycle code of R654. -/
structure Fuses where
  life : Nat
  rootHash : List Byte
  slotHash : List (Option (List Byte))
  revoked : Nat
  rollback : Nat
  signRequired : Bool
  bar2Enable : Bool
  devKey : RsaKey
  cert : List Byte
  columns : List (List Nat)
  deriving DecidableEq, Repr

/-- The running firmware image of a die (R661, R662): its digest and security version, and of its countersignature the slot, the hash of the key
and whether it verifies (R702: a die that returns is checked by it). -/
structure Firmware where
  digest : List Byte
  svn : Nat
  slot : Nat
  keyHash : List Byte
  signed : Bool
  deriving DecidableEq, Repr

/-- The package's security state (R654, R664 to R668, R674): the pending challenge with its time. -/
structure Security where
  debug : Bool
  tamper : Bool
  glitch : Bool
  challenge : Option (List Byte × Nat)
  cmd : Nat
  cmdAddr : Nat
  result : Nat
  bootAddr : Nat
  bootSize : Nat
  bootStatus : Nat
  deriving DecidableEq, Repr

/-- A revision of the part (R3, R5, R728): `gradeM` for -M, `stepping` 0 A0 or 1 B0. -/
structure Ident where
  dieCount : Nat
  gradeM : Bool
  stepping : Nat
  deriving DecidableEq, Repr

/-! ### Start-up, pins, clocks (chapters 15, 20, 21) -/

/-- How far start-up has come (R701): `held` while in power-on reset; `mailbox` once the boot mailbox is open;
`goHeld` while a SEC_BOOT_GO waits for MEM_READY; `warmArm`, `sbArm` the times of arming (R699, R716); `released` the time of
PORST_N's release. -/
structure Boot where
  held : Bool
  released : Nat
  pll : Bool
  gtcStarted : Bool
  memReady : Bool
  goHeld : Bool
  fwReady : Bool
  warmArm : Option Nat
  sbArm : Option Nat
  deriving DecidableEq, Repr

/-- The low-speed pins (R707 to R713): outputs as driven, the straps sampled, and the latches behind them; `rpFrom` the time when RP_RST_N
was last released, `rpTried` whether its Read ID has been tried since (R718), `gapEnd` the time when a new pin owner enables its outputs (R709), `dynAddr` the
I3C address assigned to the sideband target (R714). -/
structure Pins where
  healthy : Bool
  faultN : Bool
  alertN : Bool
  driven : Bool
  owner : Nat
  straps : Nat
  fatal : Bool
  healthyFrom : Option Nat
  alertFrom : Option Nat
  rpReset : Bool
  rpFrom : Nat
  rpTried : Bool
  gapEnd : Option Nat
  dynAddr : Option Nat
  deriving DecidableEq, Repr

/-- The PPS input (R547): the last valid edge's GTC, whether the next edge counts as a first one, armed, and when the last valid edge came that
loaded nothing (R734). -/
structure Pps where
  value : Nat
  last : Option Nat
  latched : Nat
  first : Bool
  window : Nat
  arm : Bool
  busy : Bool
  lost : Bool
  edgeAt : Option Nat
  deriving DecidableEq, Repr

/-! ### Registers of the package-common window (R736) -/

/-- A declared safety window (R567): first opening, period, length, units. -/
structure Window where
  start : Nat
  period : Nat
  len : Nat
  units : Nat
  deriving DecidableEq, Repr

/-- The package-common set-up and status registers that no other part of the state holds (R736, R737). For R734: `setAt` when the device last set each
W1C bit (numbered at State.raised), `h1At` when H1 last wrote the register at an offset. -/
structure Regs where
  lostWin : Bool
  bar2Refused : Bool
  maxRate : Nat
  cplTimeout : Nat
  retrainLimit : Nat
  pollInterval : Nat
  dbSweep : Nat
  errVector : Nat
  bar2Die : Nat
  hbValue : Nat
  hbTimeout : Nat
  hbLast : Nat
  hbGtc : Nat
  hbAlive : Bool
  vecMod : KMap Nat
  qtbBase : Nat
  qtbDbBase : Nat
  qtbCmd : Nat
  qtbResult : Nat
  qtbBusy : Option Nat
  backlogTime : Nat
  ldgStarted : Bool
  ldgReady : Bool
  segSize : Nat
  segBase : List Nat
  groupCmd : Nat
  groupEnabled : Nat
  groupResult : Nat
  groupBusy : Option Nat
  bugleLead : Nat
  suspectWindow : Nat
  disWindow : Nat
  frameCount : Nat
  weight : List Nat
  rsv : List Window
  rsvHeld : List (Option Window)
  rsvAt : List Nat
  rcdDest : Nat
  rcdWrap : Bool
  rcdHostBase : Nat
  rcdHostSize : Nat
  rcdEventMask : Nat
  rpRate : Nat
  rpLat : Nat
  rpReady : Bool
  rpError : Bool
  worldSize : Nat
  jobPool : Nat
  traceSize : Nat
  warmCount : Nat
  warmSlot : Nat
  corrDepth : Nat
  scrubPeriod : Nat
  divLocked : Bool
  divInvalid : Bool
  coarseRes : Nat
  tnkEnable : Bool
  tnkOverdue : Bool
  tnkInitDone : Bool
  tnkInterval : List Nat
  pwrCap : Nat
  retIdle : Nat
  offIdle : Nat
  rstCmd : Nat
  rstResult : Nat
  rstBusy : Bool
  staged : KMap Nat
  captured : KMap Nat
  readData : List Byte
  setAt : KMap Nat
  h1At : KMap Nat
  deriving DecidableEq, Repr

/-- The MSI-X table (R385, R399): entries of (address, data, masked) by vector, the pending bits, the function mask. -/
structure Msix where
  table : KMap (Nat × Nat × Bool)
  pending : List Nat
  funcMask : Bool
  deriving DecidableEq, Repr

/-! ### Host ports and doorbells (chapter 11) -/

/-- Port states of R737. -/
inductive PortState where
  | down | training | inService | failed
  deriving DecidableEq, Repr

/-- Host port H0 or H1 (R378, R392 to R400, R406): its state, its doorbell lines with their last delivered contents,
the lines being taken, since when its link is out of the active state, pending events per vector with the time of the first. -/
structure Port where
  st : PortState
  trained : Bool
  x32 : Bool
  cache : Bool
  rate : Nat
  coherent : Bool
  lines : KMap Nat
  taking : List Nat
  downSince : Option Nat
  vec : KMap (Nat × Nat)
  deriving DecidableEq, Repr

/-! ### Queues and jobs (chapters 12, 14) -/

/-- Queue states of R414. -/
inductive QState where
  | disabled | enabled | draining | withdrawing | withdrawn
  deriving DecidableEq, Repr

/-- The fields of a Queue Table entry that software writes (R414). -/
structure QEntry where
  descBase : Nat
  cplBase : Nat
  log2Size : Nat
  group : Nat
  homeDie : Nat
  qflags : Nat
  vector : Nat
  window : Nat
  deriving DecidableEq, Repr

/-- A pinned body model of a RUN (R176): slot, version, record. -/
structure BodyPin where
  slot : Nat
  version : Nat
  record : List Byte
  deriving DecidableEq, Repr

/-- A recovered job without a slot (R472): its serial, whether it is suspended, the pins recorded for it (R464), and the sequence numbers of
the ACCEPT that covers it and of the one a MOVE has written (R458, R477). -/
structure Recovered where
  serial : Nat
  held : Bool
  pinPlan : Option Nat
  pinBodies : List BodyPin
  pinWorld : Option (Nat × Nat)
  acceptSeq : Nat
  movedSeq : Nat
  deriving DecidableEq, Repr

/-- A queue (R411, R414, R418, R422, R434, R435, R477): `accepted` as published, `taken` the next serial to accept,
`post` the last valid doorbell, `low` the lowest serial whose completion is not written, descriptors read ahead,
`moving` the target die and step of a MOVE, `recovered` the jobs that recovery holds without a slot (R472), `deliver` a doorbell line's contents under way (R398),
`due` the fields of its entry that the device has yet to write (1 `accepted` and `fetch_stall`, 2 `qstate`, 4 `home_die`), `kept` the serial
before which it accepts nothing new after a recovery (R419). -/
structure Queue where
  st : QState
  entry : QEntry
  accepted : Nat
  taken : Nat
  post : Nat
  low : Nat
  everEnabled : Bool
  reading : List Nat
  fetchStall : Nat
  stallSince : Option Nat
  stallCounted : Nat
  backlogged : Bool
  moving : Option (Nat × Nat)
  parkedEntry : Option (QEntry × Nat)
  recovered : List Recovered
  deliver : Option Nat
  due : Nat
  kept : Option Nat
  deriving DecidableEq, Repr

/-- Job states of R481, and the state before its ACCEPT is durable. -/
inductive JState where
  | accepting | waiting | flowWait | ready | running | suspended | parked | finished
  deriving DecidableEq, Repr

/-- A binding of a job (R425): flag, source (0 SYNC, 1 GTC), object, value, watch registered, notice under way. -/
structure Bind where
  flag : Nat
  source : Nat
  object : Nat
  value : Nat
  watched : Bool
  notice : Bool
  deriving DecidableEq, Repr

/-- The outcome of a job: the fields of its completion record (R437). -/
structure CplFields where
  status : Nat
  errSrc : Nat
  errField : Nat
  errIndex : Nat
  errCode : Nat
  errDetail : Nat
  gtcDone : Nat
  stage : Nat
  die : Nat
  result : Nat
  deriving DecidableEq, Repr

/-- A buffer table entry (R75). -/
structure Buf where
  addr : Nat
  size : Nat
  dir : Nat
  deriving DecidableEq, Repr

/-- A range of a die's striped HBM region: its die, its first region offset, its bytes. -/
structure Area where
  die : Nat
  base : Nat
  size : Nat
  deriving DecidableEq, Repr

/-- A logical cluster of a placed job (R71, R89, R92, R93): the physical cluster it is mapped to, whether its region
is resident, its scratchpad and accumulator regions, its checkpoint area. -/
structure LogCluster where
  die : Nat
  cl : Nat
  resident : Bool
  spad : Memory
  acc : Memory
  ckpt : Area
  deriving DecidableEq, Repr

/-- The stage states of a job's plan (R57 to R62). -/
inductive StageState where
  | pending | eligible | launched | done | skipped
  deriving DecidableEq, Repr

/-- An instance of a stage in execution (R59): its logical cluster, where it runs, the operations whose effect is in,
the operations complete, launch message sent, launched, ARRIVE received and GO received (R549), and the lists that have
arrived at the Joiner for its Merges (R299: operation, list), and the GQU mapping with which it started (R22). -/
structure Inst where
  lc : Nat
  die : Nat
  cl : Nat
  ran : List Nat
  completed : List Nat
  launchSent : Bool
  launched : Bool
  arrived : Bool
  go : Bool
  lists : List (Nat × Nat)
  gqu : Nat
  deriving DecidableEq, Repr

/-- A stage of a running job: state, iteration (R62), the time from which its timeout runs (R58), launch count g
(R548), GO sent (R549), instances, the CRCs of its finished iterations (R557: crc, bytes). -/
structure StageRun where
  st : StageState
  iter : Nat
  since : Nat
  launchAt : Option Nat
  go : Bool
  insts : List Inst
  crcs : List (Option (Nat × Nat))
  deriving DecidableEq, Repr

/-- What dispatch gives a RUN (R427, R483, R89) and what its execution adds: parameter words, buffers, placement, the HBM_JOB area's
contents while the queue moves (R477), the
regions of its DIVERSE instances by stage (R578), the dies that hold a World Store share for an ended DIVERSE stage (R90), stages, the GQU mapping by die that its stages start with until its next boundary (R22), disputed candidates by tensor (R584), where each
primary operation ended (R585), test records whose verdict an injection forced (R651: tensor, position, `charge`), the
host tensors as first read (R552), the channel halves it has used (R616: channel, true for transmit), whether and where
NUMERIC applies (R325), whether a DIVERSE stage waits for a cluster (R749), and the DIVERSE stage at whose boundary no certified candidate
remained (R584). -/
structure RunData where
  slot : Nat
  params : List Nat
  bufs : List Buf
  lcs : List LogCluster
  work : Area
  carried : Option Memory
  diverse : KMap LogCluster
  shares : List Nat
  stages : List StageRun
  placed : Bool
  gquFail : KMap Nat
  disputed : List (Nat × List Nat)
  primary : KMap (Nat × Nat)
  forced : List (Nat × Nat × Bool)
  inputs : KMap (List Byte)
  chans : List (Nat × Bool)
  numeric : Bool
  numericStage : Nat
  waitsDiverse : Bool
  checkFail : Option Nat
  deriving DecidableEq, Repr

/-- An accepted job (R449, R481). The pins (R78, R176, R226) are recorded with the job and outlive a re-dispatch (R464). `order` is the order of dispatch (R513). `phase` is how far a kind other than RUN
has come, `lastFlag` the flag that completed the wait condition, `met` that it has held (R487), `quote` what an ATTEST captured at
its dispatch (R673), `cancelBy` the CANCEL that ends it and `cancelAt` the GTC count at which that came (R448), `movedSeq` the place of the ACCEPT that a
MOVE has written (R477), `owed` what it has yet to write to host memory before its completion (R443). -/
structure Job where
  q : Nat
  s : Nat
  owner : Nat
  desc : List Byte
  st : JState
  flags : Nat
  binds : List Bind
  acceptedAt : Nat
  acceptSeq : Nat
  lastFlag : Nat
  met : Bool
  dispatched : Bool
  phase : Nat
  order : Nat
  run : Option RunData
  numFlags : NumFlags
  advisory : Nat
  inDigest : List Byte
  planDigest : List Byte
  weightsDigest : List Byte
  config : Nat
  quote : List Byte
  outcome : Option CplFields
  pinPlan : Option Nat
  pinBodies : List BodyPin
  pinWorld : Option (Nat × Nat)
  suspending : Bool
  parking : Bool
  cancelBy : Option (Nat × Nat)
  cancelAt : Nat
  readyAt : Option Nat
  moved : Bool
  movedSeq : Nat
  owed : List (Nat × List Byte)
  deriving DecidableEq, Repr

/-! ### Plans, worlds, bodies (chapters 2, 5, 6) -/

/-- Plan slot states of R76. -/
inductive SlotState where
  | free | loading | ready | dropping
  deriving DecidableEq, Repr

/-- A plan slot (R76 to R86): the job that fills or drops it, the image, the plan it holds, its digest, how far the load
has come (1 fetching the image, 2 image checked, 3 signature checked too, 4 weights checked, 5 replicating), the weight
bytes, and the persistent area on each die. -/
structure PlanSlot where
  st : SlotState
  owner : Nat × Nat
  dropper : Nat × Nat
  image : List Byte
  weights : List Byte
  plan : Option Plan
  digest : List Byte
  keySlot : Option Nat
  progress : Nat
  base : Option Nat
  deriving DecidableEq, Repr

/-- World slot states of R223. -/
inductive WorldState where
  | empty | loading | ready | releasing
  deriving DecidableEq, Repr

/-- An update of a world under way (R239): the job, the base and new versions, whether it is a LATTICE load, its data,
how far each die has come (0 data sent, 1 preparing, 2 its lock lost, 3 reported, 4 committed, 5 acknowledged, 6 visible),
the lowest refusal (code, record offset, obstacle index), whether a die has reported a lost lock (R377). -/
structure WorldUpdate where
  job : Nat × Nat
  base : Nat
  version : Nat
  load : Bool
  header : List Byte
  delta : List Byte
  obst : List Byte
  obstCount : Nat
  dies : KMap Nat
  refusal : Option (Nat × Nat × Nat)
  lost : Bool
  deriving DecidableEq, Repr

/-- A world slot (R223 to R244), as all dies hold it: state, header, the visible version and those retained before it,
newest first, the update under way, the job that fills or releases the slot, a job whose update waits for room (R225). -/
structure World where
  st : WorldState
  header : List Byte
  visible : Nat
  retained : List Nat
  update : Option WorldUpdate
  owner : Nat × Nat
  waitRoom : Option (Nat × Nat)
  deriving DecidableEq, Repr

/-- A die's copy of a world (R239): the lattice, the coarse level resident in its World Store (R248), the number of delta records
applied, what the prepare has met, the version under preparation, the version visible on this die. -/
structure DieWorld where
  lat : Lattice
  coarse : Coarse
  applied : Nat
  err : PrepErr
  prepared : Option Nat
  visible : Nat
  deriving DecidableEq, Repr

/-- A body slot (R174 to R176): version and record, the load under way (job, version, record, dies that hold it). -/
structure BodySlot where
  version : Nat
  record : List Byte
  loading : Option ((Nat × Nat) × Nat × List Byte)
  deriving DecidableEq, Repr

/-! ### Synchronisation objects, flows, channels (chapters 14, 17) -/

/-- A signal key entry (R465). -/
structure SyncKey where
  q : Nat
  s : Nat
  result : Nat
  deriving DecidableEq, Repr

/-- A sync object (R491): type 0 SEMAPHORE, 1 EVENT, 2 FENCE; holders; a copy still to be made after a loss. -/
structure SyncObj where
  typ : Nat
  value : Nat
  fired : Bool
  world : Nat
  keys : List SyncKey
  holders : Nat × Nat
  exposed : Bool
  deriving DecidableEq, Repr

/-- An atomic flow (R498): its holder, and the requests waiting at its home with their times. -/
structure Flow where
  holder : Option (Nat × Nat)
  waiting : List (Nat × Nat × Nat)
  lostHome : Bool
  deriving DecidableEq, Repr

/-- A half of an envelope channel (R615, R616): counter (none for UNINIT), the key and the prior state. -/
structure ChanHalf where
  ctr : Option Nat
  key : Option (Nat × Nat)
  prior : Option Nat
  deriving DecidableEq, Repr

/-- An envelope channel (R615): transmit half, receive half, the dies that hold it. -/
structure Chan where
  tx : ChanHalf
  rx : ChanHalf
  holders : Nat × Nat
  exposed : Bool
  deriving DecidableEq, Repr

/-! ### A die (chapters 1, 10, 13, 14, 16 to 20) -/

/-- A dispatch partition (R503, R504, R511, R577): ready lists of groups 0 to 15, deficits, cursor, whether it holds a
group-0 job whose placement waits (R506), the CCLK period of its last decision, the gap counter with the gap that was last found and when (R734), the queue that accepted last (R436), and where its
two copies differ: a word, and the bits of it (R576: elsewhere the second copy is the first). -/
structure Partition where
  ready : List (List (Nat × Nat))
  deficit : List Nat
  cur : Nat
  wait0 : Bool
  decided : Option Nat
  lastDispatch : Option Nat
  gapMax : Nat
  gapSeen : Nat × Nat
  turn : Nat
  differs : Option (Nat × Nat)
  deriving DecidableEq, Repr

/-- An engine's current or prefetch slot (R513, R514). -/
structure Slot where
  cur : Option OpRef
  pre : Option OpRef
  deriving DecidableEq, Repr

/-- A test on its way through the query crossbar and the GQUs (R276 to R280): the operation, the position of its record,
the emitting cluster, whether its stage is DIVERSE (R579), the world slot and version, the failed GQU of the mapping that its stage
uses (R22), the anchor GQU and brick, the L0 cells it reads, the bricks whose fragments are under way, those that wait for a World
Store line with that line, those whose partial results are under way, and where it is: 0 at the emitter, 1 in a packet, 2 in the
reorder window, 3 decided. -/
structure GeoTest where
  r : OpRef
  pos : Nat
  cl : Nat
  diverse : Bool
  world : Nat
  version : Nat
  map : Nat
  gqu : Nat
  anchor : Nat
  cells : List Nat
  frags : List Nat
  waits : List (Nat × Nat)
  parts : List Nat
  phase : Nat
  deriving DecidableEq, Repr

/-- A line held in the brick cache of a World Store slice (R249), and the jobs against whose shares it counts. -/
structure CacheLine where
  line : Nat
  users : List (Nat × Nat)
  deriving DecidableEq, Repr

/-- An arbiter instance (R373 to R376, R739): the freeze bits, the locked sequence in progress (its owner, since when: 64 × world + GQU of
a record application, 4,096 on the scrubber's and the Vault port's), locks orphaned, limits, counters by requester, since when a
requester has waited, and the requesters granted in the last CCLK period with a grant (R734). -/
structure Arb where
  freeze : Bool
  mgrFreeze : Bool
  lock : Option (Nat × Nat)
  orphans : Nat
  ageLimit : Nat
  lockMax : Nat
  counters : KMap (Nat × Nat × Nat)
  waiting : KMap Nat
  recent : Nat × List Nat
  deriving DecidableEq, Repr

/-- A fault-injection slot (R650, R651): control fields, and the injections left. -/
structure InjSlot where
  target : Nat
  op : Nat
  count : Nat
  arm : Bool
  atGtc : Bool
  charge : Bool
  where_ : Nat
  mask : Nat
  at_ : Nat
  left : Nat
  live : Bool
  deriving DecidableEq, Repr

/-- A Tinker test unit (R594 to R609): the slice running with its start, slices passed, when the interval began, slices
to run for a suspect test, out of the safety-eligible set, out of placement, of each unit that it tests the first mismatch (R575: the unit,
the GTC count), failed, quarantined, and which of the units that it tests are the suspect ones (a vector engine, solver pipelines; none: all). -/
structure TestUnit where
  running : Option (Nat × Nat)
  passed : List Nat
  since : Option Nat
  tested : Bool
  suspect : Option Nat
  removed : Bool
  overdue : Bool
  mismatchAt : List (Nat × Nat)
  failed : Bool
  quarantined : Bool
  named : List Nat
  deriving DecidableEq, Repr

/-- A DMA request to a cluster (R349, R350): of an operation of the cluster DMA or one with operands in host memory, of a
checkpoint to be written, of a swap of logical clusters (R92), of a region copy of a DIVERSE stage, in or back (R578). -/
inductive DmaReq where
  | op (r : OpRef)
  | checkpoint (q n lc : Nat)
  | swap (q n lc : Nat)
  | regionCopy (q n st : Nat) (back : Bool)
  deriving DecidableEq, Repr

/-- A physical cluster (R353, R354, R626, R682): failed, disabled, bank states (0 On, 1 Retention, 2 Off, 3 on its way to On) of the
66 banks, when it last became idle, the DMA requests that wait with the time each came (R350), the block on new operations, and the free number
that names what the vector engine's registers hold (R159). -/
structure Cluster where
  failed : Bool
  off : Bool
  draining : Bool
  banks : List Nat
  idleSince : Nat
  dmaWaits : List (DmaReq × Nat)
  dmaBlock : Bool
  vregs : Option Nat
  deriving DecidableEq, Repr

/-- Inverted bits of a stored SRAM word (R651): the memory (0 scratchpad, 1 accumulator, 2 World Store, 3 queue context store),
the cluster, the physical bank or slice, the word, the bits as a mask of 72. -/
structure Flip where
  mem : Nat
  cl : Nat
  bank : Nat
  word : Nat
  bits : Nat
  deriving DecidableEq, Repr

/-- The spare mapping of a die (R624, R632): C4's position (7 none), the failed GQU (63 none), bank repair lists,
divider spares in use, repair columns in use, the queue context spare, spares that have failed (R630); the failed unit whose spare is
being tested with the code of its record (R627), and the failures that wait for that remap, in order (R631). -/
structure Spares where
  clMap : Nat
  gquFail : Nat
  banks : List (List Nat)
  divs : List (List Nat)
  columns : List (List Nat)
  qctx : Bool
  failedSpares : List Nat
  remap : Option (Nat × Nat × Bool)
  waiting : List (Nat × Nat × Bool × Bool)
  deriving DecidableEq, Repr

/-- A host write of a die that no completed ordering read covers yet (R408, R450, R461). -/
inductive LedgerItem where
  | accept (q s n flags : Nat)
  | close (q s n : Nat)
  | move (q dest : Nat)
  | suspend (q s : Nat)
  | resume (q s : Nat)
  | completion (q s : Nat)
  | header
  | error (d dseq : Nat)
  deriving DecidableEq, Repr

/-- The Ledger engine of a die (R455 to R461, R476): next and base sequence numbers, epoch, lease end (none before the
first), items written and not yet durable with their addresses and bytes in order, retries left
of an ordering read and of a read of a segment to reconcile or recover, the time of the last attempt, stopped, the step of a
reclaim (R458: 1 records, 2 header), the record writes that wait, in order, and the jobs whose completion is written and whose CLOSE is
not durable (R452: queue, serial, sequence number of the ACCEPT), and the time of the last liveness advance, or of the segment's life (R30). -/
structure Ledger where
  next : Nat
  base : Nat
  epoch : Nat
  inUse : Bool
  lease : Option Nat
  unstable : List (LedgerItem × Nat × List Byte)
  retries : Option Nat
  segRetries : Option Nat
  retryAt : Nat
  stopped : Bool
  reclaim : Option Nat
  held : List LedgerItem
  closing : List (Nat × Nat × Nat)
  liveFrom : Nat
  deriving DecidableEq, Repr

/-- A warm-start record (R341): generation tag, structure key and payload as stored. -/
structure WarmRec where
  q : Nat
  s : Nat
  bytes : List Byte
  deriving DecidableEq, Repr

/-- A warm-start slot (R341, R342): the current and the previous record. -/
structure WarmEnt where
  cur : Option WarmRec
  prev : Option WarmRec
  deriving DecidableEq, Repr

/-- A store write serialised by the supervisor's die (R343): slot, writing job, record, and the dies that have not
applied it. -/
structure StoreWrite where
  slot : Nat
  q : Nat
  s : Nat
  bytes : List Byte
  dies : List Nat
  deriving DecidableEq, Repr

/-- An error record before it has a ring sequence number (R644). -/
structure ErrRec where
  class_ : Nat
  injected : Bool
  die : Nat
  code : Nat
  gtc : Nat
  queue : Nat
  serial : Nat
  unit : Nat
  dseq : Nat
  detail : Nat
  deriving DecidableEq, Repr

/-- The Recorder front end of a die (R529 to R533): buffered records, records dropped, GTC bits [63:40] of the last TIME record, a
TIME record due, records written. -/
structure Trace where
  buf : List (List Byte)
  dropped : Nat
  timeHi : Nat
  timeDue : Bool
  wrIndex : Nat
  deriving DecidableEq, Repr

/-- Power and temperature of a die (R679 to R694): state 0, 1 or 3; a change under way (target, mode, mask); cluster
islands off; estimate in 0.125 W; the 10 microsecond estimates of the last 100 ms with their sum, oldest first, runs of equal ones as (estimate, count); share in 0.125 W. -/
structure DiePower where
  ctl : Nat
  state : Nat
  change : Option (Nat × Nat × Nat)
  clDisable : Nat
  result : Nat
  thermalStop : Bool
  est : Nat
  histSum : Nat
  hist : List (Nat × Nat)
  lastMs : Nat
  share : Nat
  owed : Bool
  temp : Nat
  throttled : Bool
  idleShare : Bool
  avsFallback : Bool
  deriving DecidableEq, Repr

/-- What a die knows of its peers (R29 to R32): the time of the last heartbeat of each, presumed failed since, and the liveness word
seen then. -/
structure Peer where
  lastBeat : Nat
  presumed : Option Nat
  liveSeen : Nat
  deriving DecidableEq, Repr

/-- An accelerator die. Of its HBM: the bytes as stored; the poison lists; the lines that an injection has changed and that
have not been read since; the lines that wait for a copy from another die, each with the job that reads it; the stack's
severity reports (R363); the lines whose correction has been logged in this scrub period (R366). Of its World Store and GQUs: the
cached lines in the order they came in (R249), the lines being filled, the L0 cache of each GQU with the world slot and cell of
each entry (R279), the slices whose test lattice is built (R595).
`stays`: the die uses the farther of the two host ports until its next ordering read completes there (R409). -/
structure Die where
  lost : Bool
  returning : Bool
  fuse : Fuses
  keys : List (Option (List Byte))
  keyReady : Bool
  vaultWork : Option Nat
  fw : Option Firmware
  gtc : Nat
  gtcRun : Bool
  power : DiePower
  spares : Spares
  parts : List Partition
  inj : List InjSlot
  injUnlocked : Bool
  injRefused : Bool
  arbs : KMap Arb
  hbm : Memory
  poison : List (Nat × Nat)
  injected : List (Nat × Nat)
  repairs : List ((Nat × Nat) × Option (Nat × Nat))
  innerSev : List (Nat × Nat × Nat)
  corrLogged : List (Nat × Nat)
  /-- When the scrub period in progress began (R368), and the lines scrubbed in it. -/
  scrubFrom : Nat
  scrubbed : List (Nat × Nat)
  flips : List Flip
  wsLines : List CacheLine
  fills : List Nat
  l0Cache : KMap (List (Nat × Nat))
  lattices : List Nat
  lanesUmlin : List Nat
  linksUp : List Bool
  stays : Bool
  clusters : List Cluster
  slots : KMap Slot
  tests : List GeoTest
  warm : KMap WarmEnt
  worlds : KMap DieWorld
  ldg : Ledger
  peers : List Peer
  units : KMap TestUnit
  charges : List (Nat × Nat)
  dseq : Nat
  unacked : List ErrRec
  sent : Nat
  trace : Trace
  reserved : List (Nat × Nat)
  deriving DecidableEq, Repr

/-! ### Messages on Umlin (R42, R43) -/

/-- What a message of class CTRL under way says: a heartbeat (R29), the launch message of a stage (R27), ARRIVE and GO of a Bugle (R549), the notice
of a sync object (R496). -/
inductive CtrlBody where
  | heartbeat
  | launch (q n st : Nat)
  | go (q n st : Nat)
  | arrive (q n st : Nat)
  | notify (o : Nat)
  deriving DecidableEq, Repr

/-- A message of class CTRL under way from one die to another, and whether its path has failed and it is to be sent again (R44). -/
structure CtrlMsg where
  src : Nat
  dst : Nat
  body : CtrlBody
  retry : Bool
  deriving DecidableEq, Repr

/-! ### The supervisor, sideband, trace memory, test port (chapters 1, 18, 21) -/

/-- The package supervisor (R28, R640 to R642): its die, the die that keeps the internal log, the log, ring counters; a die under fence with the
time its wait ends, and whether DIE_LOST is still to be logged (R469, R470); dies whose fence waits; the die of a failed
supervisor whose recovery its successor runs before any other decision (R32); dies whose RECOVERED state waits for their queues' records to
be durable at the new homes (R470: die, whether DIE_LOST is to be logged, queues). -/
structure Supervisor where
  die : Option Nat
  logDie : Option Nat
  log : List ErrRec
  errBase : Nat
  errLog2 : Nat
  errConsumed : Nat
  errProduced : Nat
  errDropped : Nat
  fence : Option (Nat × Nat × Bool)
  fenceQueue : List (Nat × Bool)
  owes : Option Nat
  recovering : List (Nat × Bool × List Nat)
  deriving DecidableEq, Repr

/-- The management sideband (R714, R715): index, `sb_log_index`, `sb_rp_addr`, the captured field (its offset and
bytes), the bytes read last. -/
structure Sideband where
  index : Nat
  logIndex : Nat
  rpAddr : Nat
  capture : Nat × List Byte
  data : List Byte
  deriving DecidableEq, Repr

/-- TAP controller states of IEEE 1149.1. -/
inductive Tap where
  | reset | idle | selDR | capDR | shDR | ex1DR | pauDR | ex2DR | upDR
  | selIR | capIR | shIR | ex1IR | pauIR | ex2IR | upIR
  deriving DecidableEq, Repr

/-- The test port (R720, R721): controller state, and per die the instruction in force (0 EXTEST, 1 IDCODE, 2 SAMPLE/PRELOAD,
3 BYPASS, 4 CLAMP, 5 HIGHZ), the shift stage of its instruction register, the data register in the scan path (the bit nearest
TDO first), and the boundary update stage; TDO as driven. -/
structure TestPort where
  tap : Tap
  ir : List Nat
  irShift : List Nat
  dr : List (List Bool)
  boundary : List (List Bool)
  tdo : Option Bool
  deriving DecidableEq, Repr

/-- The trace memory behind the Recorder port (R717): the bytes written since it was last reset; every other byte is
undefined, with an own number for each reset (R709); the bytes in use once it is initialised; a read issued last (R713). -/
structure TraceMem where
  mem : KMap Byte
  epoch : Nat
  size : Nat
  reading : Bool
  deriving DecidableEq, Repr

/-- The state of the block. `now` counts CCLK periods, `openAborts` are open jobs outside the slots of a healthy die that an object both of whose
holders were lost aborts (R480), `badWrite` is a host address at or beyond 2^57 that a
command has written to (the next tick stops for it), `free` numbers the free values drawn, `pending` is the queue of
commands, first in, first out; the last three are the model's own. -/
structure State where
  now : Nat
  ident : Ident
  dies : List Die
  sec : Security
  boot : Boot
  pins : Pins
  pps : Pps
  regs : Regs
  msix : Msix
  ports : List Port
  queues : KMap Queue
  jobs : List Job
  dispatchCount : Nat
  plans : KMap PlanSlot
  worlds : KMap World
  bodies : KMap BodySlot
  syncs : KMap SyncObj
  openAborts : List (Nat × Nat)
  flows : KMap Flow
  chans : KMap Chan
  storeWrites : List StoreWrite
  ctrl : List CtrlMsg
  sup : Supervisor
  sideband : Sideband
  traceMem : TraceMem
  testPort : TestPort
  host : Memory
  badWrite : Option Nat
  free : Nat
  pending : List Instr
  deriving DecidableEq, Repr

/-- Why a step can stop with a fault. -/
inductive Fault where
  /-- A write of the block to host memory at or beyond 2^57 (R384: no such address exists). Raised by the tick after the
  command that made the write. Safe: time does not pass after a write that the spec gives no address to reach. -/
  | hostAddress (a : Nat)
  deriving DecidableEq, Repr

/-- Why a step can be refused. -/
inductive Refusal where
  /-- A command that has no meaning yet. Raised by Dispatch only. Safe: nothing can be concluded from it. -/
  | notModelled (mnemonic : String)
  deriving DecidableEq, Repr

/-! ### The state after reset -/

/-- Fuses of a part as the model takes it (log entry 4). -/
def Fuses.reset : Fuses :=
  { life := 2, rootHash := zeros 64, slotHash := [none, none, none, none], revoked := 0, rollback := 0,
    signRequired := false, bar2Enable := false, devKey := ⟨0, 0, some 0⟩, cert := zeros 2048,
    columns := [[], [], [], [], []] }

/-- R504, R703. -/
def Partition.reset : Partition :=
  { ready := List.replicate 16 [], deficit := List.replicate 16 0, cur := 1, wait0 := false, decided := none, lastDispatch := none,
    gapMax := 0, gapSeen := (0, 0), turn := 0, differs := none }

/-- R650. -/
def InjSlot.reset : InjSlot :=
  { target := 0, op := 0, count := 1, arm := false, atGtc := false, charge := false, where_ := 0, mask := 0, at_ := 0,
    left := 0, live := false }

/-- R739. -/
def Arb.reset : Arb :=
  { freeze := false, mgrFreeze := false, lock := none, orphans := 0, ageLimit := 4096, lockMax := 1280, counters := [], waiting := [], recent := (0, []) }

/-- A cluster after reset: no region and idle, so every bank is Off (R354; log entry 5). -/
def Cluster.reset : Cluster :=
  { failed := false, off := false, draining := false, banks := List.replicate 66 2, idleSince := 0, dmaWaits := [],
    dmaBlock := false, vregs := none }

/-- R632: no spare in use. -/
def Spares.reset : Spares :=
  { clMap := 7, gquFail := 63, banks := [[], [], [], [], []], divs := [[], [], [], [], []],
    columns := [[], [], [], [], []], qctx := false, failedSpares := [], remap := none, waiting := [] }

/-- A Ledger engine before LDG_CTL.START. -/
def Ledger.reset : Ledger :=
  { next := 0, base := 0, epoch := 0, inUse := false, lease := none, unstable := [], retries := none, segRetries := none, retryAt := 0, stopped := false,
    reclaim := none, held := [], closing := [], liveFrom := 0 }

/-- R680, R689 to R693. -/
def DiePower.reset : DiePower :=
  { ctl := 0, state := 0, change := none, clDisable := 0, result := 0, thermalStop := false, est := 0, histSum := 0,
    hist := [], lastMs := 0, share := 0, owed := false, temp := 0, throttled := false, idleShare := false,
    avsFallback := false }

/-- A die in power-on reset (R696): the fuses are what they are, everything else is lost. -/
def Die.reset (f : Fuses) : Die :=
  { lost := false, returning := false, fuse := f, keys := [none, none, none, none, none], keyReady := false, vaultWork := none, fw := none,
    gtc := 0, gtcRun := false, power := DiePower.reset, spares := { Spares.reset with columns := f.columns },
    parts := List.replicate 4 Partition.reset, inj := List.replicate 8 InjSlot.reset, injUnlocked := false,
    injRefused := false, arbs := [], hbm := [], poison := [], injected := [], repairs := [], innerSev := [], corrLogged := [], scrubFrom := 0, scrubbed := [], flips := [],
    wsLines := [], fills := [], l0Cache := [], lattices := [], lanesUmlin := [64, 64, 64, 64], linksUp := [true, true, true, true], stays := false,
    clusters := List.replicate 5 Cluster.reset, slots := [], tests := [], warm := [], worlds := [], ldg := Ledger.reset,
    peers := List.replicate 8 ⟨0, none, 0⟩, units := [], charges := [], dseq := 0, unacked := [], sent := 0,
    trace := ⟨[], 0, 0, true, 0⟩, reserved := [] }

/-- R688: the reset value of the package power cap, in W, the maximum of R5; the machine grade ships lower. -/
def capReset (i : Ident) : Nat :=
  if i.dieCount = 2 then (if i.gradeM then 250 else 340)
  else if i.dieCount = 4 then (if i.gradeM then 500 else 680) else 1350

/-- The reset values of the package-common window (R736, R737). -/
def Regs.reset (i : Ident) : Regs :=
  { lostWin := false, bar2Refused := false, maxRate := 5, cplTimeout := 100, retrainLimit := 1000, pollInterval := 10,
    dbSweep := 1, errVector := 0, bar2Die := 0, hbValue := 0, hbTimeout := 0, hbLast := 0, hbGtc := 0, hbAlive := false, vecMod := [],
    qtbBase := 0, qtbDbBase := 0, qtbCmd := 0, qtbResult := 0, qtbBusy := none, backlogTime := 1000,
    ldgStarted := false, ldgReady := false, segSize := 22, segBase := List.replicate 8 0,
    groupCmd := 0, groupEnabled := 0xFFFF, groupResult := 0, groupBusy := none, bugleLead := 128,
    suspectWindow := 320000000, disWindow := 1000, frameCount := 0, weight := List.replicate 16 1,
    rsv := List.replicate 8 ⟨0, 0, 0, 0⟩, rsvHeld := List.replicate 8 none, rsvAt := List.replicate 8 0, rcdDest := 0, rcdWrap := true,
    rcdHostBase := 0, rcdHostSize := 20, rcdEventMask := 0xFFFFFFFE, rpRate := 0, rpLat := 7, rpReady := false,
    rpError := false, worldSize := 256, jobPool := 128, traceSize := 0, warmCount := 0, warmSlot := 64, corrDepth := 2,
    scrubPeriod := 24, divLocked := false, divInvalid := false, coarseRes := 16, tnkEnable := true, tnkOverdue := false,
    tnkInitDone := false, tnkInterval := List.replicate 5 16000000, pwrCap := capReset i, retIdle := 100,
    offIdle := 10000, rstCmd := 0, rstResult := 0, rstBusy := false, staged := [], captured := [], readData := [], setAt := [], h1At := [] }

/-- The part the model takes (log entry 4): an SK804-S at stepping B0. -/
def Ident.reset : Ident := { dieCount := 4, gradeM := false, stepping := 1 }

/-- A host port in power-on reset. -/
def Port.reset : Port :=
  { st := .down, trained := false, x32 := false, cache := false, rate := 0, coherent := false, lines := [], taking := [],
    downSince := none, vec := [] }

/-- R721: the test port while TRST_N or PORST_N is low; the instruction registers hold IDCODE (log entry 5). -/
def TestPort.reset (n : Nat) : TestPort :=
  { tap := .reset, ir := List.replicate n 1, irShift := List.replicate n 0, dr := List.replicate n [],
    boundary := List.replicate n [], tdo := none }

/-- The pins in power-on reset (R710): outputs released, HEALTHY at high impedance. -/
def Pins.reset : Pins :=
  { healthy := false, faultN := true, alertN := true, driven := false, owner := 0, straps := 0, fatal := false,
    healthyFrom := none, alertFrom := none, rpReset := true, rpFrom := 0, rpTried := false, gapEnd := none, dynAddr := none }

/-- R547, R736. -/
def Pps.reset : Pps :=
  { value := 0, last := none, latched := 0, first := true, window := 32000, arm := false, busy := false, lost := false, edgeAt := none }

/-- R664, R665, R736. -/
def Security.reset : Security :=
  { debug := false, tamper := false, glitch := false, challenge := none, cmd := 0, cmdAddr := 0, result := 0,
    bootAddr := 0, bootSize := 0, bootStatus := 0 }

/-- R639, R736. -/
def Supervisor.reset : Supervisor :=
  { die := none, logDie := none, log := [], errBase := 0, errLog2 := 10, errConsumed := 0, errProduced := 0, errDropped := 0,
    fence := none, fenceQueue := [], owes := none, recovering := [] }

/-- The block held in power-on reset with given parts, fuses per die, and host memory. -/
def State.powerOff (i : Ident) (fuses : List Fuses) (host : Memory) (now free : Nat) (pending : List Instr) : State :=
  { now := now, ident := i, dies := fuses.map Die.reset, sec := Security.reset,
    boot := { held := true, released := 0, pll := false, gtcStarted := false, memReady := false, goHeld := false, fwReady := false,
              warmArm := none, sbArm := none },
    pins := Pins.reset, pps := Pps.reset, regs := Regs.reset i, msix := ⟨[], [], false⟩,
    ports := [Port.reset, Port.reset], queues := [], jobs := [], dispatchCount := 0, plans := [], worlds := [],
    bodies := [], syncs := [], flows := [], chans := [], storeWrites := [], ctrl := [], sup := Supervisor.reset,
    sideband := ⟨0, 0, 0, (0, []), []⟩, traceMem := ⟨[], free, 0, false⟩, testPort := TestPort.reset i.dieCount,
    openAborts := [], host := host, badWrite := none, free := free + 1, pending := pending }

/-- The block right after reset: held in power-on reset, nothing in host memory, no command waiting. -/
def State.reset : State :=
  State.powerOff Ident.reset (List.replicate 4 Fuses.reset) [] 0 0 []

end Sys2Proof.Machine
end

