-- ==== Sys2Proof/Machine/Ops.lean ====
section
/-!
DEFINITION. The named operations over the parts of the state: dies, jobs, queues, host memory, HBM, errors, trace.
-/
namespace Sys2Proof.Machine

/-! ### Dies -/

/-- N (R5). -/
def State.n (s : State) : Nat := s.dies.length

/-- The die that a number outside the part stands for: a lost die with nothing in it. -/
def Die.absent : Die := { Die.reset Fuses.reset with lost := true }

/-- Die `d`. -/
def State.die (s : State) (d : Nat) : Die := s.dies.getD d Die.absent

/-- The state with die `d` changed; no change where the part has no such die. -/
def State.modDie (s : State) (d : Nat) (f : Die → Die) : State := { s with dies := s.dies.modify d f }

/-- The state with every die changed. -/
def State.modDies (s : State) (f : Die → Die) : State := { s with dies := s.dies.map f }

/-- The state with the package-common registers changed. -/
def State.modRegs (s : State) (f : Regs → Regs) : State := { s with regs := f s.regs }

/-- R734: the device has set a W1C bit now: 0 LOST_WIN, 1 BAR2_REFUSED, 2 DIV_LOCKED, 3 DIV_INVALID, 4 PPS_BUSY, 5 RP_ERROR, 8 + d REFUSED of
die `d`'s INJ_STATUS. -/
def State.raised (s : State) (k : Nat) : State := s.modRegs (fun r => { r with setAt := r.setAt.insert k s.now })

/-- R734: a W1C bit that the device has set in this CCLK period stays set, whatever software writes in it. -/
def State.raisedNow (s : State) (k : Nat) : Bool := s.regs.setAt.get k = some s.now

/-- The state with a host port changed. -/
def State.modPort (s : State) (k : Nat) (f : Port → Port) : State := { s with ports := s.ports.modify k f }

/-- Host port `k`. -/
def State.port (s : State) (k : Nat) : Port := s.ports.getD k Port.reset

/-- A die is healthy while it is neither lost, nor in D3, nor still returning to service (R679, R685). -/
def Die.healthy (x : Die) : Bool := !x.lost && !x.returning && x.power.state ≠ 3

/-- Die `d` is healthy. -/
def State.healthy (s : State) (d : Nat) : Bool := d < s.n && (s.die d).healthy

/-- The healthy dies in ascending order. -/
def State.healthyDies (s : State) : List Nat := (List.range s.n).filter s.healthy

/-- The healthy die at position `o mod H` of the ascending list of the H healthy dies (R471, R495, R498). -/
def State.holderAt (s : State) (o : Nat) : Nat :=
  let hs := s.healthyDies
  hs.getD (o % Max.max hs.length 1) 0

/-- The two holders of object or channel number `o` (R495, R615). -/
def State.holdersOf (s : State) (o : Nat) : Nat × Nat := (s.holderAt o, s.holderAt (o + 1))

/-- The x and y coordinates of a die (R40). -/
def dieXY (n d : Nat) : Nat × Nat := if n = 8 then (d % 4, d / 4) else (d % 2, d / 2)

/-- Umlin hop count between two dies (R41). -/
def hops (n a b : Nat) : Nat :=
  let (xa, ya) := dieXY n a
  let (xb, yb) := dieXY n b
  let dx := Max.max xa xb - Min.min xa xb
  let dx := if n = 8 then Min.min dx (4 - dx) else dx
  dx + (Max.max ya yb - Min.min ya yb)

/-- A port carries traffic. -/
def State.portUp (s : State) (k : Nat) : Bool := (s.port k).st = .inService

/-- R405: the port that a die reaches in the fewest hops; on an SK808, x = 1 and 2 use H1. -/
def nearPort (n d : Nat) : Nat := if hops n d 1 < hops n d 0 then 1 else 0

/-- R405: the in-service port that a die uses. A die that has yet to move to its nearest,
which has returned, uses the other one (R409). -/
def State.portOf (s : State) (d : Nat) : Option Nat :=
  match s.portUp 0, s.portUp 1 with
  | true, true => some (if (s.die d).stays then 1 - nearPort s.n d else nearPort s.n d)
  | true, false => some 0
  | false, true => some 1
  | false, false => none

/-- Some host port is in service. -/
def State.anyPort (s : State) : Bool := s.portUp 0 || s.portUp 1

/-- The GTC of a die. -/
def State.gtc (s : State) (d : Nat) : Nat := (s.die d).gtc

/-- The lifecycle state code of the package (R654, R655): FIELD_DEBUG sits on a fused FIELD. -/
def State.lifecycle (s : State) : Nat :=
  let fused := ((s.healthyDies.map (fun d => (s.die d).fuse.life)).foldl Max.max 0)
  if s.sec.debug then 3 else fused

/-- The fuses the package uses (R657): those of the lowest-numbered healthy die. -/
def State.fuse (s : State) : Fuses := (s.die (s.healthyDies.headD 0)).fuse

/-! ### Queues -/

/-- A queue that nothing has enabled (R414; entry fields per log entry 5). -/
def Queue.reset : Queue :=
  { st := .disabled, entry := ⟨0, 0, 0, 0, 0, 0, 0, 0⟩, accepted := 0, taken := 0, post := 0, low := 0,
    everEnabled := false, reading := [], fetchStall := 0, stallSince := none, stallCounted := 0, backlogged := false,
    moving := none, parkedEntry := none, recovered := [], deliver := none, due := 0, kept := none }

/-- Queue `q`. -/
def State.queue (s : State) (q : Nat) : Queue := s.queues.getD q Queue.reset

/-- The state with queue `q` changed. -/
def State.modQueue (s : State) (q : Nat) (f : Queue → Queue) : State :=
  { s with queues := s.queues.insert q (f (s.queue q)) }

/-- The modulus of serials (R411). -/
def serials : Nat := 2 ^ 48

/-- The serial `n` after `s` (R411). -/
def serialAdd (s n : Nat) : Nat := (s + n) % serials

/-- How far `x` lies ahead of `s`, modulo 2^48. -/
def serialAhead (x s : Nat) : Nat := (x + (serials - s % serials)) % serials

/-- `x` lies at or after `s` (R470). -/
def serialAtOrAfter (x s : Nat) : Bool := decide (serialAhead x s < 2 ^ 47)

/-- The ring size S (R412). -/
def Queue.ring (x : Queue) : Nat := 2 ^ x.entry.log2Size

/-- Completions are 128 bytes (R414). -/
def Queue.auditCpl (x : Queue) : Bool := bit x.entry.qflags 0

/-- The descriptor address of a serial (R412). -/
def Queue.descAddr (x : Queue) (s : Nat) : Nat := x.entry.descBase + 128 * (s % x.ring)

/-- The completion address of a serial (R412). -/
def Queue.cplAddr (x : Queue) (s : Nat) : Nat :=
  x.entry.cplBase + (if x.auditCpl then 128 else 64) * (s % x.ring)

/-- The Queue Table entry's address (R413). -/
def State.qtbAddr (s : State) (q : Nat) : Nat := s.regs.qtbBase + 64 * q

/-- The doorbell line's address (R413). -/
def State.dbAddr (s : State) (q : Nat) : Nat := s.regs.qtbDbBase + 64 * q

/-- The codes of `qstate` (R414). -/
def QState.code : QState → Nat
  | .disabled => 0 | .enabled => 1 | .draining => 2 | .withdrawing => 3 | .withdrawn => 4

/-! ### Jobs -/

/-- Job (q, s). -/
def State.job (s : State) (q n : Nat) : Option Job := s.jobs.find? (fun j => j.q = q && j.s = n)

/-- The state with job (q, n) changed. -/
def State.modJob (s : State) (q n : Nat) (f : Job → Job) : State :=
  { s with jobs := s.jobs.map (fun j => if j.q = q && j.s = n then f j else j) }

/-- A job's phase set. -/
def State.setPhase (s : State) (q n k : Nat) : State := s.modJob q n (fun j => { j with phase := k })

/-- The state without job (q, n). -/
def State.dropJob (s : State) (q n : Nat) : State :=
  { s with jobs := s.jobs.filter (fun j => !(j.q = q && j.s = n)) }

/-- A field of the job's descriptor. -/
def Job.f (j : Job) (off n : Nat) : Nat := field j.desc off n

/-- The kind (R424). -/
def Job.kind (j : Job) : Nat := j.f 0 1

/-- The target of a control job (R430). -/
def Job.target (j : Job) : Nat × Nat := (j.f 0x40 2, j.f 0x48 8)

/-- A job is accepted once its ACCEPT is durable (R449). -/
def Job.accepted (j : Job) : Bool := j.st ≠ .accepting

/-- The running control jobs of a kind on a target, in a phase. -/
def State.controlsOf (s : State) (kind phase q n : Nat) : List (Nat × Nat) :=
  (s.jobs.filter (fun j => j.st = .running && j.kind = kind && j.phase = phase && j.target = (q, n))).map (fun j => (j.q, j.s))

/-- Whether any job is accepted in the package. -/
def State.anyAccepted (s : State) : Bool := s.jobs.any Job.accepted

/-- The accepted jobs of a die, those it owns (R434, R452). -/
def State.acceptedOn (s : State) (d : Nat) : Nat := (s.jobs.filter (fun j => j.owner = d)).length

/-- The service group of a queue. -/
def State.group (s : State) (q : Nat) : Nat := (s.queue q).entry.group

/-- The run data of a RUN, changed. -/
def Job.modRun (j : Job) (f : RunData → RunData) : Job := { j with run := j.run.map f }

/-- The plan slot with its number. -/
def State.planSlot (s : State) (i : Nat) : PlanSlot :=
  s.plans.getD i { st := .free, owner := (0, 0), dropper := (0, 0), image := [], weights := [], plan := none, digest := [],
                   keySlot := none, progress := 0, base := none }

/-- The plan of a RUN: that of the slot it pins. -/
def State.planOf (s : State) (j : Job) : Option Plan := j.pinPlan.bind (fun i => (s.planSlot i).plan)

/-- The recovered jobs of every queue that have no slot (R472). -/
def State.unslotted (s : State) : List Recovered := s.queues.flatMap (fun e => e.2.recovered)

/-- World slot `w`. -/
def State.world (s : State) (w : Nat) : World :=
  s.worlds.getD w { st := .empty, header := zeros 64, visible := 0, retained := [], update := none, owner := (0, 0),
                    waitRoom := none }

/-- The job-pool areas a job holds (R89, R93): its HBM_JOB area and its checkpoint areas. -/
def Job.poolAreas (j : Job) : List Area :=
  match j.run with
  | none => []
  | some r => (r.work :: r.lcs.map (·.ckpt)).filter (fun a => a.size ≠ 0)

/-- A logical cluster's region as its checkpoint area holds it: the scratchpad region, then the accumulator region. -/
def packRegion (sp : Nat) (a b : Memory) : Memory := a.filter (fun c => c.1 < sp) ++ b.map (fun c => (c.1 + sp, c.2))

/-- The two regions of a checkpoint. -/
def unpackRegion (sp : Nat) (m : Memory) : Memory × Memory :=
  (m.filter (fun c => c.1 < sp), (m.filter (fun c => sp ≤ c.1)).map (fun c => (c.1 - sp, c.2)))

/-! ### Partitions -/

/-- The dispatch partition of a queue (R26). -/
def partOf (q : Nat) : Nat := q % 4

/-- The state with a partition of a die changed. -/
def State.modPart (s : State) (d p : Nat) (f : Partition → Partition) : State :=
  s.modDie d (fun x => { x with parts := x.parts.modify p f })

/-- Partition `p` of die `d`. -/
def State.part (s : State) (d p : Nat) : Partition := (s.die d).parts.getD p Partition.reset

/-! ### Free values -/

/-- A number for a free value, and the state that has drawn it (log entry 8). -/
def State.fresh (s : State) : Nat × State := (s.free, { s with free := s.free + 1 })

/-! ### Host memory (R2, R7, R382) -/

/-- The size of the host's physical address space (R384). -/
def hostTop : Nat := 2 ^ 57

/-- Software's writes in a host view land in host memory; bytes at addresses that do not exist do not. -/
def State.merge (s : State) (hv : HostView) : State :=
  { s with host := hv.writes.foldl (fun m w => if w.1 + w.2.length ≤ hostTop then m.write w.1 w.2 else m) s.host }

/-- Whether a range touches a range of a list. -/
def touches (rs : List (Nat × Nat)) (a n : Nat) : Bool :=
  rs.any (fun r => decide (r.1 < a + n) && decide (a < r.1 + r.2))

/-- A device read of host memory: none where the read returns an error completion or poison (R407), or where no such
address exists (log entry 13). -/
def State.readHost (s : State) (hv : HostView) (a n : Nat) : Option (List Byte) :=
  if touches hv.bad a n || decide (hostTop < a + n) then none else some (s.host.read a n)

/-- A device write of host memory. A write is posted, so the command that makes it goes on; one at an address that does not exist
reaches no memory, and the next tick stops for it (log entry 13). -/
def State.writeHost (s : State) (a : Nat) (bs : List Byte) : State :=
  if a + bs.length ≤ hostTop then { s with host := s.host.write a bs } else { s with badWrite := some a }

/-- The outcome of a command that had its effect. -/
def State.done (s : State) : Host.Outcome State Fault Refusal := .next s

/-- The outcome of a command that found its condition not met: nothing changes (log entry 2). -/
def State.idle (s : State) : Host.Outcome State Fault Refusal := .next s

/-! ### HBM (R357, R358, R364) -/

/-- Bytes of a pseudo-channel. -/
def pcBytes : Nat := 805306368
/-- Usable bytes of a pseudo-channel (R357). -/
def pcUsable : Nat := 754974720
/-- Usable bytes of a stack. -/
def hbmUsable : Nat := 24159191040

/-- Where a byte of the usable space lies (R358, R390): the key of pseudo-channel (x >> 10) mod 32 at its offset. -/
def hbmKey (x : Nat) : Nat := (x / 1024 % 32) * pcBytes + (x / 32768) * 1024 + x % 1024

/-- The key of the first data byte of a line of a pseudo-channel, and of its check bytes (R357). -/
def lineKey (pc line : Nat) : Nat := pc * pcBytes + 64 * line
/-- The key of the check bytes of a line. -/
def checkKey (pc line : Nat) : Nat := pc * pcBytes + pcUsable + 4 * line

/-- The pseudo-channel and line of a byte of the usable space. -/
def lineOf (x : Nat) : Nat × Nat := (x / 1024 % 32, ((x / 32768) * 1024 + x % 1024) / 64)

/-- The 68 bytes of a line with its check bytes. -/
def Die.codeword (x : Die) (pc line : Nat) : List Byte :=
  x.hbm.read (lineKey pc line) 64 ++ x.hbm.read (checkKey pc line) 4

/-- A line written with its check bytes (R364). -/
def Die.writeLine (x : Die) (pc line : Nat) (bs : List Byte) : Die :=
  { x with hbm := (x.hbm.write (lineKey pc line) bs).write (checkKey pc line) (rsCheck bs),
           injected := x.injected.filter (· ≠ (pc, line)) }

/-- The data of a line as a read returns it at a correction depth: corrected where the outer code can (R365). -/
def Die.lineData (x : Die) (depth pc line : Nat) : List Byte :=
  match rsDecode depth (x.codeword pc line) with
  | .corrected w => w.take 64
  | _ => x.hbm.read (lineKey pc line) 64

/-- The lines that a range of the usable space touches. -/
def linesOf (x n : Nat) : List (Nat × Nat) :=
  if n = 0 then [] else (tabulate ((x + n - 1) / 64 - x / 64 + 1) (fun i => lineOf (64 * (x / 64 + i))))

/-- The check bytes of the lines that a range touches, computed anew. -/
def Die.recheck (y : Die) (x n : Nat) : Die :=
  (linesOf x n).foldl (fun z l => z.writeLine l.1 l.2 (z.hbm.read (lineKey l.1 l.2) 64)) y

/-- The lines that a range covers in part, by their first bytes. -/
def partLines (x n : Nat) : List Nat :=
  (if n = 0 || x % 64 = 0 then [] else [x / 64 * 64]) ++ (if n = 0 || (x + n) % 64 = 0 then [] else [(x + n) / 64 * 64])

/-- Bytes written from offset `x` of the usable space, check bytes with them; a line covered whole leaves the poison list (R367). A line
covered in part has been read, and corrected where it was to be, before (R366). -/
def Die.writeHbm (y : Die) (x : Nat) (bs : List Byte) : Die :=
  let z : Die := { y with
    hbm := ((List.range bs.length).zip bs).foldl (fun m e => m.set (hbmKey (x + e.1)) e.2) y.hbm
    poison := y.poison.filter (fun l => !(linesOf x bs.length).any (fun m => m = l) ||
      !((linesOf (alignUp x 64) ((x + bs.length) / 64 * 64 - alignUp x 64)).any (fun m => m = l))) }
  z.recheck x bs.length

/-- Bytes read from offset `x` of the usable space. -/
def Die.readHbm (y : Die) (x n : Nat) : List Byte := tabulate n (fun i => y.hbm.get (hbmKey (x + i)))

/-- Whether a range touches a poisoned line (R367). -/
def Die.poisoned (y : Die) (x n : Nat) : Bool := (linesOf x n).any (fun l => y.poison.any (fun m => m = l))

/-- A line of a range holds errors that an injection has put there and no read has met, or the next read of it is to report
an injected severity (R651), or it waits for a copy from another die (R366). -/
def Die.unread (y : Die) (x n : Nat) : Bool :=
  let ls := y.injected ++ (y.inj.filter (fun i => i.arm && i.live && i.target = 4)).map (fun i => (i.where_ % 32, i.where_ / 32 % 2 ^ 24)) ++
    y.repairs.map Prod.fst
  !ls.isEmpty && (linesOf x n).any ls.contains

/-- The first byte of a line in the usable space (R358). -/
def lineOffset (l : Nat × Nat) : Nat := (64 * l.2) / 1024 * 32768 + l.1 * 1024 + (64 * l.2) % 1024

/-- The usable offset that a key's byte belongs to, its line's for a check byte, and then its place among the line's check bytes. -/
def hbmOwner (k : Nat) : Nat × Option Nat :=
  let pc := k / pcBytes
  let o := k % pcBytes
  if o < pcUsable then (o / 1024 * 32768 + pc * 1024 + o % 1024, none)
  else (lineOffset (pc, (o - pcUsable) / 4), some ((o - pcUsable) % 4))

/-- A range set to zero. -/
def Die.clearHbm (y : Die) (x n : Nat) : Die :=
  { y with
    hbm := y.hbm.filter (fun c => let a := (hbmOwner c.1).1; decide (a < x ∨ x + n ≤ a))
    poison := y.poison.filter (fun l => decide (lineOffset l < x ∨ x + n ≤ lineOffset l))
    injected := y.injected.filter (fun l => decide (lineOffset l < x ∨ x + n ≤ lineOffset l)) }

/-- A range of whole lines moved from offset `f` to `t`, with its check bytes, its poison and its errors. -/
def Die.moveHbm (x : Die) (f t n : Nat) : Die :=
  let here (a : Nat) : Bool := decide (f ≤ a ∧ a < f + n)
  let line (l : Nat × Nat) : Nat × Nat := lineOf (t + (lineOffset l - f))
  let lines (ls : List (Nat × Nat)) : List (Nat × Nat) := (ls.filter (fun l => here (lineOffset l))).map line
  let cells := (x.hbm.filter (fun c => here (hbmOwner c.1).1)).map (fun c =>
    let (a, k) := hbmOwner c.1
    match k with
    | none => (hbmKey (t + (a - f)), c.2)
    | some i => (let l := lineOf (t + (a - f)); checkKey l.1 l.2 + i, c.2))
  let y := (x.clearHbm f n).clearHbm t n
  { y with
    hbm := cells.foldl (fun m c => m.set c.1 c.2) y.hbm
    poison := y.poison ++ lines x.poison
    injected := y.injected ++ lines x.injected
    repairs := y.repairs.map (fun e => if here (lineOffset e.1) then (line e.1, e.2) else e) }

/-- A sparse region laid into HBM from offset `x`: the area is cleared, then its bytes written. -/
def Die.storeRegion (y : Die) (x n : Nat) (m : Memory) : Die :=
  (m.filter (fun c => c.1 < n)).foldl (fun z c => z.writeHbm (x + c.1) [c.2]) (y.clearHbm x n)

/-- The sparse region of `n` bytes at offset `x` of the usable space. -/
def Die.loadRegion (y : Die) (x n : Nat) : Memory :=
  y.hbm.foldl (fun m c =>
    let pc := c.1 / pcBytes
    let o := c.1 % pcBytes
    if o < pcUsable then
      let a := o / 1024 * 32768 + pc * 1024 + o % 1024
      if x ≤ a ∧ a < x + n then m.set (a - x) c.2 else m
    else m) []

/-! ### The division of HBM (R358, R360) -/

/-- 32 MiB. -/
def mib32 : Nat := 33554432

/-- Bytes of the world region over the stack. -/
def Regs.worldBytes (r : Regs) : Nat := r.worldSize * mib32
/-- Bytes of the job pool. -/
def Regs.poolBytes (r : Regs) : Nat := r.jobPool * mib32
/-- Bytes of the trace region. -/
def Regs.traceBytes (r : Regs) : Nat := r.traceSize * mib32
/-- The slot size of the warm-start store in bytes. -/
def Regs.warmSlotBytes (r : Regs) : Nat := 64 * r.warmSlot
/-- Bytes of the warm-start store. -/
def Regs.warmBytes (r : Regs) : Nat := alignUp (r.warmCount * r.warmSlotBytes) mib32
/-- First usable offset of the job pool. -/
def Regs.poolBase (r : Regs) : Nat := r.worldBytes
/-- First usable offset of the trace region. -/
def Regs.traceBase (r : Regs) : Nat := r.poolBase + r.poolBytes
/-- First usable offset of the warm-start store. -/
def Regs.warmBase (r : Regs) : Nat := r.traceBase + r.traceBytes
/-- First usable offset of the plan region. -/
def Regs.planBase (r : Regs) : Nat := r.warmBase + r.warmBytes
/-- Bytes of the plan region (R360). -/
def Regs.planBytes (r : Regs) : Nat := hbmUsable - r.planBase

/-- First fit of `n` bytes in [lo, hi) beside the areas in use (log entry 6). -/
def firstFit (used : List (Nat × Nat)) (lo hi n : Nat) : Option Nat :=
  let cands := (lo :: used.map (fun u => u.1 + u.2)).filter (fun a => decide (lo ≤ a ∧ a + n ≤ hi))
  let ok := cands.filter (fun a => used.all (fun u => decide (u.2 = 0 ∨ n = 0 ∨ a + n ≤ u.1 ∨ u.1 + u.2 ≤ a)))
  ok.foldl (fun b a => match b with | none => some a | some c => some (Min.min a c)) none

/-! ### Errors (R638 to R646) -/

/-- The class of an event code (R646). -/
def errClass (code : Nat) : Nat :=
  if code < 0x10 then 0 else if code < 0x20 then 1 else if code < 0x30 then 2 else if code < 0x40 then 3 else 4

/-- R644: an error record logged by a die, waiting for the supervisor. -/
def State.logErr (s : State) (d code unit detail : Nat) (job : Option (Nat × Nat) := none) (injected : Bool := false) : State :=
  s.modDie d (fun x =>
    let r : ErrRec :=
      { class_ := errClass code, injected := injected, die := d, code := code, gtc := x.gtc % 2 ^ 48,
        queue := (job.map Prod.fst).getD 0xFFFF, serial := (job.map (fun j => j.2 % 2 ^ 32)).getD 0xFFFFFFFF,
        unit := unit, dseq := x.dseq, detail := detail % 2 ^ 64 }
    { x with dseq := (x.dseq + 1) % 65536, unacked := x.unacked ++ [r] })

/-- R640: a die's record is durable, or gone from the internal log: the die keeps it no longer. -/
def State.ackError (s : State) (d k : Nat) : State :=
  s.modDie d (fun x =>
    { x with sent := x.sent - ((x.unacked.take x.sent).filter (fun r => r.dseq = k)).length,
             unacked := x.unacked.filter (fun r => r.dseq ≠ k) })

/-- The `unit` word of R645. -/
def unitCode (kind index : Nat) : Nat := kind * 4096 + index

/-- SECDED corrects a single inverted bit of a word. -/
def Flip.single (f : Flip) : Bool := decide ((List.range 72).foldl (fun n i => n + bit01 (bit f.bits i)) 0 ≤ 1)

/-- The unit of an SRAM word: a bank, the array that an accumulator memory serves, a slice, the queue context store. -/
def Flip.unit (f : Flip) : Nat :=
  match f.mem with
  | 0 => unitCode 5 (f.cl + 8 * f.bank)
  | 1 => unitCode 2 (529 * f.cl + 528)
  | 2 => unitCode 7 f.bank
  | _ => unitCode 12 4

/-- A word read: a corrected one is logged and stored right again; one beyond SECDED is logged. -/
def State.readFlip (s : State) (d : Nat) (job : Option (Nat × Nat)) (f : Flip) : State :=
  (s.logErr d (if f.single then 0x0001 else 0x0013) f.unit f.word job true).modDie d (fun x => { x with flips := x.flips.filter (· ≠ f) })

/-- The context of a queue read on a die: a word beyond correction is rebuilt (R628, R638). -/
def State.readContext (s : State) (d q : Nat) : State :=
  ((s.die d).flips.filter (fun f => f.mem = 3 && Config.contextWord f.word q)).foldl (fun s f => s.readFlip d none f) s

/-- A PACKAGE_FATAL is latched: HEALTHY falls and FAULT_N is asserted (R410, R476, R591, R695). -/
def State.packageFatal (s : State) : State :=
  { s with pins := { s.pins with fatal := true, healthy := false, healthyFrom := none, faultN := false } }

/-! ### Trace (R529 to R533) -/

/-- R529: a trace record. -/
def traceRecord (gtc event queue part serial die group unit arg : Nat) : List Byte :=
  natLE 5 gtc ++ natLE 1 event ++ natLE 2 (queue + 16384 * part) ++ natLE 4 (serial % 2 ^ 32) ++
    natLE 1 (die + 8 * group) ++ natLE 1 unit ++ natLE 2 (arg % 65536)

/-- Records into the front end's buffer of 1,024, after a TIME or LOST record that is due and enabled (R529, R531, R533). -/
def Die.pushTrace (x : Die) (d mask : Nat) (r : Option (List Byte)) : Die :=
  let hi := x.gtc / 2 ^ 40 % 2 ^ 24
  let timed (t : Trace) : Trace :=
    if bit mask 0x1E && (t.timeDue || t.timeHi ≠ hi) then
      if t.buf.length < 1024 then
        { t with buf := t.buf ++ [traceRecord (x.gtc % 2 ^ 40) 0x1E 0 0 hi d 0 0 0], timeHi := hi, timeDue := false }
      else t
    else t
  let lost (t : Trace) : Trace :=
    if bit mask 0x1F ∧ 0 < t.dropped ∧ t.buf.length < 1024 then
      { t with buf := t.buf ++ [traceRecord (x.gtc % 2 ^ 40) 0x1F 0 0 t.dropped d 0 0 0], dropped := 0, timeDue := true }
    else t
  let t := timed (lost x.trace)
  match r with
  | none => { x with trace := t }
  | some r =>
    { x with trace := if t.buf.length < 1024 then { t with buf := t.buf ++ [r] }
                      else { t with dropped := Min.min (t.dropped + 1) 0xFFFFFFFF } }

/-- R529: a scheduling event of a queue's job, recorded while the queue's TRACE flag and the event's mask bit are set. -/
def State.traceEv (s : State) (d event q n unit arg : Nat) : State :=
  let x := s.queue q
  if bit x.entry.qflags 1 && bit s.regs.rcdEventMask event && s.regs.rcdDest ≠ 0 then
    s.modDie d (fun y => y.pushTrace d s.regs.rcdEventMask
      (some (traceRecord (y.gtc % 2 ^ 40) event q (partOf q) n d x.entry.group unit arg)))
  else s

/-! ### Interrupts (R400 to R402) -/

/-- The message of a vector, or its pending bit while it is masked (R402): a 4-byte write of the entry's data. A device request
carries an address whose bits [63:57] are zero (R382). -/
def State.sendVector (s : State) (v : Nat) : State :=
  let (addr, data, masked) := s.msix.table.getD v (0, 0, true)
  if masked || s.msix.funcMask then
    { s with msix := { s.msix with pending := (if s.msix.pending.contains v then s.msix.pending else insertBy Nat.blt v s.msix.pending) } }
  else s.writeHost (addr % hostTop) (natLE 4 data)

/-- `count` and `holdoff` of a vector (R403): count 0 is read as 1; holdoff in CCLK. -/
def Regs.vecCount (r : Regs) (v : Nat) : Nat := Max.max 1 (bitsOf (r.vecMod.getD v 1) 15 0)
/-- The holdoff of a vector in CCLK (R403). -/
def Regs.vecHoldoff (r : Regs) (v : Nat) : Nat := 32 * bitsOf (r.vecMod.getD v 1) 47 32

/-- R400: an event of a vector on a port. -/
def State.vectorEvent (s : State) (k v : Nat) : State :=
  let (c, t) := (s.port k).vec.getD v (0, s.now)
  let c := c + 1
  if s.regs.vecCount v ≤ c || s.regs.vecHoldoff v = 0 then
    (s.modPort k (fun p => { p with vec := p.vec.erase v })).sendVector v
  else s.modPort k (fun p => { p with vec := p.vec.insert v (c, t) })

end Sys2Proof.Machine
end

