-- ==== Sys2Proof/Machine/Arbiters.lean ====
section
/-!
DEFINITION. Arbiter instances as every transfer between levels meets them (R33, R371, R373 to R375), Umlin's routes (R40, R41, R44)
and the messages under way on it (R42, R43).
-/
namespace Sys2Proof.Machine

/-! ### Arbiter instances (R371 to R375, R739) -/

/-- The cycles of an instance's clock in a CCLK period (R371): XCLK 2, ACLK 4, CCLK 1. -/
def arbClock (n : Nat) : Nat := if n < 32 then 2 else if n < 69 then 4 else if n < 74 then 2 else 1

/-- The number of requesters of an arbiter instance (R371, R739). -/
def requesters (n : Nat) : Nat :=
  if n < 32 then 6 else if n < 64 then 3 else if n < 69 then 8 else if n = 69 then 5 else if n < 75 then 3 else 0

/-- Arbiter instance `n` of a die. -/
def Die.arb (x : Die) (n : Nat) : Arb := x.arbs.getD n Arb.reset

/-- An instance is frozen while either bit is set (R740). -/
def Arb.frozen (a : Arb) : Bool := a.freeze || a.mgrFreeze

/-- An instance makes no new grant: it is frozen, or locked by a sequence that is not the requester's (R374, R375). -/
def Arb.held (a : Arb) : Bool := a.lock.isSome || a.frozen

/-- An arbiter instance of a die changed. -/
def State.modArb (s : State) (d n : Nat) (f : Arb → Arb) : State :=
  s.modDie d (fun x => { x with arbs := x.arbs.insert n (f (x.arb n)) })

/-- The counters of a requester of instance `n` as they stand (R373): the wait in progress counts in them. -/
def Arb.counted (a : Arb) (n r now : Nat) : Nat × Nat × Nat :=
  let (g, w, m) := a.counters.getD r (0, 0, 0)
  match a.waiting.get r with
  | none => (g, w, m)
  | some t =>
    let c := arbClock n * (now - t)
    (g, Min.min (w + c) (2 ^ 64 - 1), Max.max m (Min.min c (2 ^ 32 - 1)))

/-- A requester of instance `n` is granted (R373). -/
def Arb.grant (a : Arb) (n r now : Nat) : Arb :=
  let (g, w, m) := a.counted n r now
  { a with counters := a.counters.insert r (Min.min (g + 1) (2 ^ 64 - 1), w, m), waiting := a.waiting.erase r
           recent := (now, r :: (if a.recent.1 = now then a.recent.2 else [])) }

/-- R734: the grants of this CCLK period, as a clear of the counters in it leaves them. -/
def Arb.grantsAt (a : Arb) (now : Nat) : KMap (Nat × Nat × Nat) :=
  if a.recent.1 = now then a.recent.2.foldl (fun m r => m.insert r ((m.getD r (0, 0, 0)).1 + 1, 0, 0)) [] else []

/-- A requester waits from now on, unless it waits already. -/
def Arb.wait (a : Arb) (r now : Nat) : Arb := if (a.waiting.get r).isSome then a else { a with waiting := a.waiting.insert r now }

/-- A request of a transfer at an arbiter instance of a die; `waits` while its source holds new messages back (R44). -/
structure ArbReq where
  die : Nat
  inst : Nat
  req : Nat
  waits : Bool := false
  deriving DecidableEq, Repr

/-- Every instance that a transfer passes may grant it. -/
def State.arbOpen (s : State) (l : List ArbReq) : Bool := l.all (fun r => !r.waits && !((s.die r.die).arb r.inst).held)

/-- The grants of a transfer counted. -/
def State.granted (s : State) (l : List ArbReq) : State :=
  l.foldl (fun s r => s.modArb r.die r.inst (fun a => a.grant r.inst r.req s.now)) s

/-- A transfer waits at the instances that hold it. -/
def State.queued (s : State) (l : List ArbReq) : State :=
  l.foldl (fun s r => if ((s.die r.die).arb r.inst).held then s.modArb r.die r.inst (fun a => a.wait r.req s.now) else s) s

/-- R33, R374, R375: a transfer takes effect where every arbiter on its way grants it; else it keeps its place and waits. -/
def State.cross (s : State) (l : List ArbReq) (f : State → Host.Outcome State Fault Refusal) : Host.Outcome State Fault Refusal :=
  if s.arbOpen l then f (s.granted l) else .next (s.queued l)

/-! Requests by instance and requester (R371). -/

/-- At pseudo-channel `pc`: 0 GQU, 1 cluster DMA, 2 host DMA, 3 Umlin ingress, 4 Recorder, 5 scrubber. -/
def atPc (d pc r : Nat) : ArbReq := { die := d, inst := pc, req := r }
/-- At port B of World Store slice `k`: 0 the serving GQU, 1 the fill path, 2 Tinker. -/
def atPortB (d k r : Nat) : ArbReq := { die := d, inst := 32 + k, req := r }
/-- At the scratchpad banks of cluster `c`: 0 to 5 the engines, 6 cluster DMA, 7 host DMA. -/
def atBanks (d c r : Nat) : ArbReq := { die := d, inst := 64 + c, req := r }
/-- At fabric egress: 0 Ledger engine and completion writer, 1 dispatch partitions, 2 host DMA, 3 Recorder, 4 management controller. -/
def atEgress (d r : Nat) : ArbReq := { die := d, inst := 69, req := r }
/-- At the Vault port: 0 management controller, 1 Assayer, 2 signing engine. -/
def atVault (d r : Nat) : ArbReq := { die := d, inst := 74, req := r }

/-- The pseudo-channels that a range of a die's usable space lies in. -/
def pcsOf (x n : Nat) : List Nat :=
  if n = 0 then [] else if 32768 ≤ n then List.range 32
  else (tabulate ((x + n - 1) / 1024 - x / 1024 + 1) (fun i => (x / 1024 + i) % 32)).eraseDups

/-- The requests of an access to a range of a die's usable space. -/
def atHbm (d x n r : Nat) : List ArbReq := (pcsOf x n).map (fun pc => atPc d pc r)

/-! ### Umlin's routes (R40, R41, R44) -/

/-- The die at the other end of a link, and its port there (R40). -/
def linkPeer (n d k : Nat) : Nat × Nat :=
  if n = 2 then (1 - d, k)
  else
    let (x, y) := dieXY n d
    if n = 8 then
      (if k = 0 then ((x + 1) % 4 + 4 * y, 1) else if k = 1 then ((x + 3) % 4 + 4 * y, 0) else (x + 4 * (1 - y), k))
    else
      (if k = 0 then (1 - x + 2 * y, 1) else if k = 1 then (1 - x + 2 * y, 0) else (x + 2 * (1 - y), k))

/-- The dies that a set of dies reaches over links that work, through healthy dies. -/
def State.spread (s : State) : Nat → List Nat → List Nat
  | 0, l => l
  | k + 1, l =>
    let next := l.flatMap (fun d => (List.range 4).filterMap (fun p =>
      let e := (linkPeer s.n d p).1
      if (s.die d).linksUp.getD p false && s.healthy e then some e else none))
    State.spread s k ((l ++ next).eraseDups)

/-- A die reaches a host port: its own, or over Umlin the one of die 0 or 1 (R28, R45). -/
def State.reachesPort (s : State) (d : Nat) : Bool :=
  (List.range 2).any (fun k => s.portUp k && (d = k || (s.healthy k && (s.spread s.n [d]).contains k)))

/-- R28: the lowest-numbered healthy die that reaches a host port. -/
def State.electSupervisor (s : State) : Option Nat := s.healthyDies.find? s.reachesPort

/-- The hops of a route in x, as (die, ports): on an SK808 in the direction of P0 or of P1. -/
def xHops (n a b : Nat) (plus : Bool) : List (Nat × List Nat) :=
  let (xa, y) := dieXY n a
  let (xb, _) := dieXY n b
  if n = 8 then
    if plus then tabulate ((xb + 4 - xa) % 4) (fun i => ((xa + i) % 4 + 4 * y, [0]))
    else tabulate ((xa + 4 - xb) % 4) (fun i => ((xa + 4 - i) % 4 + 4 * y, [1]))
  else if xa = xb then [] else [(a, if n = 2 then [0, 1, 2, 3] else [0, 1])]

/-- The hop of a route in y, after those in x. -/
def yHops (n a b : Nat) : List (Nat × List Nat) :=
  let (_, ya) := dieXY n a
  let (xb, yb) := dieXY n b
  if ya = yb then [] else [(xb + (if n = 8 then 4 else 2) * ya, [2, 3])]

/-- R41: the route between two dies with every link working: x first, by the shorter direction, a distance of 2 through P0. -/
def routeOf (n a b : Nat) : List (Nat × List Nat) :=
  xHops n a b (n ≠ 8 || decide (((dieXY n b).1 + 4 - (dieXY n a).1) % 4 ≤ 2)) ++ yHops n a b

/-- A route over the links that work; none where a hop has none left, or passes a die that is out. -/
def State.usable (s : State) (l : List (Nat × List Nat)) : Option (List (Nat × List Nat)) :=
  let l := l.map (fun (d, ps) => (d, ps.filter (fun p => (s.die d).linksUp.getD p false && s.healthy (linkPeer s.n d p).1)))
  if l.all (fun e => !e.2.isEmpty) then some l else none

/-- A way from a die to another over any links that work, of the fewest hops, the lowest ports first. -/
def State.detour (s : State) (b : Nat) : Nat → Nat → List (Nat × List Nat)
  | 0, _ => []
  | k + 1, a =>
    if a = b then []
    else match (List.range 4).find? (fun p => (s.die a).linksUp.getD p false && (s.spread k [b]).contains (linkPeer s.n a p).1) with
      | some p => (a, [p]) :: State.detour s b k (linkPeer s.n a p).1
      | none => []

/-- R41, R44: the way that messages take: the route, where a link has failed its twin or the other way round an SK808's ring, else
any way that is left (log entry 78). -/
def State.way (s : State) (a b : Nat) : List (Nat × List Nat) :=
  let n := s.n
  match s.usable (routeOf n a b) with
  | some l => l
  | none =>
    match (if n = 8 then s.usable (xHops n a b (decide (2 < ((dieXY n b).1 + 4 - (dieXY n a).1) % 4)) ++ yHops n a b) else none) with
    | some l => l
    | none => s.detour b (((List.range n).find? (fun k => (s.spread k [b]).contains a)).getD 0) a

/-- R41, R42: the Umlin ports that a message of a class (0 CTRL, 1 DATA, 2 MGMT) passes: of two links, the one that its address picks. -/
def State.umlinPorts (s : State) (a b cls addr : Nat) : List ArbReq :=
  if a = b then []
  else (s.way a b).map (fun (d, ps) => { die := d, inst := 70 + ps.getD (Config.linkOf a b addr % ps.length) 0, req := cls })

/-- R44: a message from one die to another is to be sent again on a new path. -/
def State.retrying (s : State) (a b : Nat) : Bool := s.ctrl.any (fun m => m.src = a && m.dst = b && m.retry)

/-- The ports that a new message passes: it waits while messages from its source to its destination are retried (R44). -/
def State.overUmlin (s : State) (a b cls addr : Nat) : List ArbReq :=
  (s.umlinPorts a b cls addr).map (fun r => { r with waits := s.retrying a b })

/-! ### Messages of class CTRL under way (R42, R43) -/

/-- The first message of class CTRL under way from one die to another. -/
def State.firstCtrl (s : State) (a b : Nat) : Option CtrlBody := (s.ctrl.find? (fun m => m.src = a && m.dst = b)).map (·.body)

/-- A message of class CTRL sent to another die. -/
def State.sendCtrl (s : State) (a b : Nat) (m : CtrlBody) : State := if a = b then s else { s with ctrl := s.ctrl ++ [⟨a, b, m, false⟩] }

/-- The first message of class CTRL from one die to another has arrived. -/
def State.takeCtrl (s : State) (a b : Nat) : State := { s with ctrl := s.ctrl.eraseP (fun m => m.src = a && m.dst = b) }

/-- R43, R44: a message of class CTRL arrives: in the order sent, and once; one held at an arbiter on its way waits there. A die sends
itself none. -/
def State.arrive (s : State) (a b : Nat) (m : CtrlBody) (f : State → Host.Outcome State Fault Refusal) : Host.Outcome State Fault Refusal :=
  if a = b then f s
  else if s.firstCtrl a b = some m then s.cross (s.umlinPorts a b 0 0) (fun s => f (s.takeCtrl a b))
  else .next s

/-- R44: the messages under way on a link, at either end of it, that fails: each is retried on a new path. -/
def State.retryCtrl (s : State) (ends : List (Nat × Nat)) : State :=
  { s with ctrl := s.ctrl.map (fun m =>
      if (s.umlinPorts m.src m.dst 0 0).any (fun r => ends.contains (r.die, r.inst - 70)) then { m with retry := true } else m) }

end Sys2Proof.Machine
end

