-- ==== Sys2Proof/Machine/Flags.lean ====
section
/-!
DEFINITION. The flag word, the completion record, the audit digest's configuration word, and the outcomes of jobs.
-/
namespace Sys2Proof.Machine

/-- R439: the numeric flags in their bits. -/
def NumFlags.word (f : NumFlags) : Nat := bit01 f.nv + 2 * bit01 f.of + 4 * bit01 f.sat + 8 * bit01 f.ivw

/-! Advisory bits of R439. -/

/-- CHECK_DISAGREE. -/
def advDisagree : Nat := 4
/-- DIVERSITY_REDUCED. -/
def advDiversity : Nat := 5
/-- SEL_CONFLICT. -/
def advConflict : Nat := 6
/-- WARM_REJECTED. -/
def advWarmRejected : Nat := 7
/-- WARM_PARTIAL. -/
def advWarmPartial : Nat := 8
/-- NO_EFFECT. -/
def advNoEffect : Nat := 9

/-- The flag word of a job (R439). -/
def Job.flagWord (j : Job) : Nat := j.numFlags.word + j.advisory

/-- An advisory flag set. -/
def Job.advise (j : Job) (b : Nat) : Job := { j with advisory := setBit j.advisory b }

/-- An outcome with the error fields at their "none" values (R440). -/
def plainOutcome (status stage result : Nat) : CplFields :=
  { status := status, errSrc := 0, errField := 0xFFFF, errIndex := 0xFFFFFFFF, errCode := 0, errDetail := 0,
    gtcDone := 0, stage := stage, die := 0, result := result }

/-- DONE with a result. -/
def outDone (result : Nat := 0) : CplFields := plainOutcome 0 0xFF result
/-- EXPIRED. -/
def outExpired : CplFields := plainOutcome 2 0xFF 0
/-- CANCELLED. -/
def outCancelled : CplFields := plainOutcome 3 0xFF 0
/-- TIMEOUT at a stage, or 0xFF. -/
def outTimeout (stage : Nat) : CplFields := plainOutcome 4 stage 0
/-- NUMERIC at a stage. -/
def outNumeric (stage : Nat) : CplFields := plainOutcome 5 stage 0
/-- CHECK_FAIL at a stage. -/
def outCheckFail (stage : Nat) : CplFields := plainOutcome 6 stage 0
/-- MEMORY_ERROR with no error fields. -/
def outMemory : CplFields := plainOutcome 9 0xFF 0
/-- ABORTED_FAULT. -/
def outAborted : CplFields := plainOutcome 10 0xFF 0

/-- R440: an outcome with error fields. -/
def outErr (status src fld idx code detail : Nat) : CplFields :=
  { plainOutcome status 0xFF 0 with errSrc := src, errField := fld, errIndex := idx, errCode := code, errDetail := detail }

/-- A descriptor field at fault: MALFORMED with the field's offset and a field code (R440). -/
def outField (fld code : Nat) : CplFields := outErr 7 1 fld 0xFFFFFFFF code 0

/-- A named slot or version that does not exist: PLAN_ABSENT (R438, R440). -/
def outAbsent (fld : Nat) : CplFields := outErr 8 1 fld 0xFFFFFFFF 8 0

/-! Field codes of R440. -/

/-- RESERVED. -/
def fcReserved : Nat := 1
/-- RANGE. -/
def fcRange : Nat := 2
/-- ALIGN. -/
def fcAlign : Nat := 3
/-- QUEUE. -/
def fcQueue : Nat := 4
/-- SERIAL. -/
def fcSerial : Nat := 5
/-- CONFLICT. -/
def fcConflict : Nat := 6
/-- CONTENT. -/
def fcContent : Nat := 7

/-- R438, R439: DONE becomes DONE_FLAGGED when an advisory flag is set. SEL_CONFLICT is one of them: R305's word that it does not change
the status is read as leaving DONE's class alone, since R438 keeps DONE for a job with no advisory flag (DEDUCED, log entry 79). -/
def finalStatus (status advisory : Nat) : Nat := if status = 0 ∧ advisory ≠ 0 then 1 else status

/-- REPLAY, AUDIT and LAYER_DIG of `jflags` (R423). -/
def Job.replay (j : Job) : Bool := bit (j.f 1 1) 0
/-- AUDIT. -/
def Job.audit (j : Job) : Bool := bit (j.f 1 1) 1
/-- LAYER_DIG. -/
def Job.layerDig (j : Job) : Bool := bit (j.f 1 1) 2

/-- R554: the configuration word. -/
def configWord (replay orderSens : Bool) (n stepping : Nat) : Nat :=
  bit01 replay + 2 * bit01 orderSens + 0x100 +
    (if !replay && orderSens then 65536 * n + 1048576 * stepping else 0)

/-- R551, R553: the audit digest of a job. -/
def Job.auditDigest (j : Job) : List Byte :=
  sha512 (j.planDigest ++ j.weightsDigest ++ j.inDigest ++ natLE 8 j.config)

/-- R437: the completion record of a job with an outcome, 64 or 128 bytes. -/
def completionRecord (j : Job) (o : CplFields) (wide : Bool) : List Byte :=
  natLE 8 j.s ++ natLE 1 (finalStatus o.status j.advisory) ++ natLE 1 o.errSrc ++ natLE 2 o.errField ++ natLE 4 o.errIndex ++
    natLE 4 o.errCode ++ natLE 4 j.flagWord ++ natLE 8 o.errDetail ++ natLE 8 (j.f 0x30 8) ++ natLE 8 o.gtcDone ++
    natLE 1 o.stage ++ natLE 1 o.die ++ zeros 6 ++ natLE 8 o.result ++
    (if wide then (if j.audit then j.auditDigest else zeros 64) else [])

end Sys2Proof.Machine
end

