-- ==== Sys2Proof/Machine/Issue.lean ====
section
/-!
DEFINITION. The engines and their current and prefetch slots: which operation is eligible, and which is issued next
(R59, R91, R92, R513 to R516).
-/
namespace Sys2Proof.Machine

/-! ### Engines -/

/-- The engine of an operation code (R66): 0 tensor array, 1 vector engine, 2 Fletcher, 3 Selection Unit, 4 Solver Unit,
5 query emitter and GQUs, 6 cluster DMA, 7 check-value units, 8 Assayer. -/
def engineOf (code : Nat) : Nat :=
  if code < 0x0200 then 0
  else if code < 0x0300 then 1
  else if code < 0x0400 then 2
  else if code < 0x0500 then 5
  else if code < 0x0600 then 3
  else if code < 0x0700 then 4
  else if code = 0x0700 then 6
  else if code < 0x0704 then 7
  else 8

/-- The key of engine `e` of cluster `c` in a die's slots; cluster 5 stands for the die's check-value units (engines 0
and 1, R611) and its Assayer (engine 2). -/
def slotKey (c e : Nat) : Nat := 16 * c + e

/-- The slots that serve an engine kind for a cluster, as (cluster, engine). -/
def engineSlots (e c : Nat) : List (Nat × Nat) :=
  if e = 7 then [(5, 0), (5, 1)] else if e = 8 then [(5, 2)] else [(c, e)]

/-- An empty engine. -/
def Slot.empty : Slot := ⟨none, none⟩

/-- An engine slot of a die. -/
def Die.slot (x : Die) (c e : Nat) : Slot := x.slots.getD (slotKey c e) Slot.empty

/-- An engine slot set; an empty one is not kept. -/
def Die.setSlot (x : Die) (c e : Nat) (v : Slot) : Die :=
  { x with slots := if v = Slot.empty then x.slots.erase (slotKey c e) else x.slots.insert (slotKey c e) v }

/-- An operation holds a slot of a die. -/
def Die.holdsOp (x : Die) (r : OpRef) : Bool := x.slots.any (fun e => e.2.cur = some r || e.2.pre = some r)

/-- The operations that hold a scoreboard entry of a die (R516). -/
def Die.entries (x : Die) : List OpRef :=
  (x.slots.flatMap (fun e => e.2.cur.toList ++ e.2.pre.toList) ++ x.tests.map (·.r)).eraseDups

/-- The banks that serve a cluster (R624). -/
def Spares.mappedBanks (sp : Spares) (c : Nat) : List Nat :=
  ((List.range 66).filter (fun b => !(sp.banks.getD c []).contains b)).take 64

/-- R353, R354: the banks of a cluster that an access needs leave Retention and Off (3 until BANK_EXIT). -/
def Die.wake (x : Die) (c : Nat) : Die :=
  { x with clusters := x.clusters.modify c (fun k =>
      { k with banks := (x.spares.mappedBanks c).foldl (fun l b => if l.getD b 2 = 1 ∨ l.getD b 2 = 2 then l.set b 3 else l) k.banks }) }

/-! ### Stages and the clusters they run on (R59, R92, R578) -/

/-- A stage that has not begun. -/
def StageRun.fresh : StageRun :=
  { st := .pending, iter := 0, since := 0, launchAt := none, go := false, insts := [], crcs := [] }

/-- Stage `st` of a RUN. -/
def RunData.stage (r : RunData) (st : Nat) : StageRun := r.stages.getD st StageRun.fresh

/-- Every instance has completed every operation. -/
def stageComplete (sr : StageRun) (rec : StageRec) : Bool :=
  sr.insts.all (fun i => i.launched && decide (rec.ops.length ≤ i.completed.length))

/-- The SCRATCHPAD tensors that a stage reads, and those it writes. -/
def Plan.scratchOf (p : Plan) (xs : List Nat) : List Nat :=
  xs.eraseDups.filter (fun x => (p.tensors[x]?.map (·.sp)) = some Space.scratchpad)

/-- The tensors that an operation reads: its inputs, and the rows of a summary to which it adds (R268, R269). -/
def OpRec.reads (o : OpRec) : List Nat :=
  o.inputs ++ (if 0x0402 ≤ o.opcode ∧ o.opcode ≤ 0x0404 ∧ o.par 4 1 = 1 ∧ o.par 5 1 = 1 then [o.out 0] else [])

/-- What a DIVERSE stage brings in before its launch: the SCRATCHPAD tensors it reads (R578). -/
def Plan.bringsIn (p : Plan) (rec : StageRec) : List Nat := p.scratchOf (rec.ops.flatMap OpRec.reads)

/-- The tensors that a stage compares: outputs of geometry operations that an earlier SINGLE stage's geometry operation
writes too (R580). -/
def Plan.compared (p : Plan) (st : Nat) : List Nat :=
  match p.stages[st]? with
  | none => []
  | some rec =>
    if rec.placement ≠ 2 then []
    else
      let earlier := ((p.stages.take st).filter (fun e => e.placement = 1)).flatMap (fun e =>
        (e.ops.filter (fun o => engineOf o.opcode = 5)).map (fun o => o.out 0))
      ((rec.ops.filter (fun o => engineOf o.opcode = 5 && o.opcode ≠ 0x0400 && o.opcode ≠ 0x0401)).map (fun o => o.out 0)).filter
        earlier.contains

/-- What a DIVERSE stage copies back at its boundary: the SCRATCHPAD tensors it writes that are not compared (R578). -/
def Plan.copiesBack (p : Plan) (st : Nat) : List Nat :=
  match p.stages[st]? with
  | none => []
  | some rec => if rec.placement = 2 then (p.scratchOf (rec.ops.flatMap OpRec.outputs)).filter (fun x => !(p.compared st).contains x) else []

/-- A logical cluster has an instance under way on a cluster: launched, and not yet complete. -/
def RunData.busyLc (r : RunData) (p : Plan) (lc : Nat) : Bool :=
  r.stages.zipIdx.any (fun (sr, st) => sr.st = .launched && ((p.stages[st]?).map (·.placement)) ≠ some 2 &&
    sr.insts.any (fun i => i.lc = lc && i.launched &&
      decide (i.completed.length < ((p.stages[st]?).map (fun x => x.ops.length)).getD 0)))

/-- An instance of a logical cluster has begun: an operation of it has run or is in a slot. -/
def State.begunLc (s : State) (j : Job) (r : RunData) (p : Plan) (lc : Nat) : Bool :=
  let own (st : Nat) : Bool := ((p.stages[st]?).map (·.placement)) ≠ some 2
  r.stages.zipIdx.any (fun (sr, st) => sr.st = .launched && own st && sr.insts.any (fun i => i.lc = lc && !i.ran.isEmpty &&
    decide (i.completed.length < ((p.stages[st]?).map (fun x => x.ops.length)).getD 0))) ||
  (match r.lcs[lc]? with
   | some l => (s.die l.die).entries.any (fun o => o.q = j.q && o.s = j.s && o.lc = lc && own o.stage)
   | none => false)

/-- R92: the logical cluster that goes out for `lc`, which waits outside its cluster: one whose instances are done, else the
highest one above `lc` that has not begun (log entry 77). Only the lowest one that waits outside comes in. -/
def State.swapOut (s : State) (j : Job) (r : RunData) (p : Plan) (lc : Nat) : Option Nat :=
  match r.lcs[lc]? with
  | none => none
  | some l =>
    let here := (r.lcs.zipIdx.filter (fun e => e.1.die = l.die && e.1.cl = l.cl))
    if ((here.filter (fun e => !e.1.resident && r.busyLc p e.2)).map Prod.snd).head? ≠ some lc then none
    else
      let inside := (here.filter (fun e => e.1.resident)).map Prod.snd
      match inside.find? (fun o => !r.busyLc p o) with
      | some o => some o
      | none => (inside.filter (fun o => decide (lc < o) && !s.begunLc j r p o)).getLast?

/-! ### DMA requests (R349, R350) -/

/-- The DMA requests of a placed job that are its sequencers' own: checkpoints, swaps, region copies, by die and cluster. -/
def State.jobDma (s : State) (j : Job) (r : RunData) (p : Plan) : List ((Nat × Nat) × DmaReq) :=
  let out := (j.suspending || j.parking) && r.stages.all (fun sr => sr.st ≠ .launched)
  (r.lcs.zipIdx.flatMap (fun (l, i) =>
    if l.resident then (if out then [((l.die, l.cl), DmaReq.checkpoint j.q j.s i)] else [])
    else if (s.swapOut j r p i).isSome then [((l.die, l.cl), DmaReq.swap j.q j.s i)] else [])) ++
  (r.diverse.flatMap (fun (st, z) =>
    let ends := (z.die, z.cl) :: (r.lcs.take 1).map (fun l => (l.die, l.cl))
    let back : Bool := (match p.stages[st]? with
      | some rec => (r.stage st).st = .launched && stageComplete (r.stage st) rec && !(p.copiesBack st).isEmpty
      | none => false)
    if !z.resident then ends.map (fun e => (e, DmaReq.regionCopy j.q j.s st false))
    else if back then ends.map (fun e => (e, DmaReq.regionCopy j.q j.s st true)) else []))

/-- The operations that engines of a die hold and whose DMA has not been granted: one of the cluster DMA, or one with an operand in
host memory or in HBM, until its effect is in. -/
def State.opDma (s : State) (d : Nat) : List (Nat × DmaReq) :=
  (s.die d).slots.filterMap (fun (k, sl) =>
    match sl.cur with
    | none => none
    | some r =>
      match (s.job r.q r.s).bind (fun j => match j.run, s.planOf j with | some rd, some p => some (rd, p) | _, _ => none) with
      | none => none
      | some (rd, p) =>
        let far (o : OpRec) : Bool := (o.inputs ++ o.outputs).any (fun x =>
          [Space.host, Space.hbmPlan, Space.hbmJob].any (fun sp => ((p.tensors[x]?).map (·.sp)) = some sp))
        let dma : Bool := (match (p.stages[r.stage]?).bind (fun rec => rec.ops[r.idx]?) with
          | some o => engineOf o.opcode = 6 || far o
          | none => false)
        let ran := (rd.stage r.stage).insts.any (fun i => i.lc = r.lc && i.ran.contains r.idx)
        if k < 80 && dma && !ran then some (k / 16, DmaReq.op r) else none)

/-- A cluster with the DMA requests that wait on it now: each keeps the time it came; the block on new operations ends once no
request has waited 4,096 ACLK (1,024 CCLK periods); a cluster whose last request has gone is idle from now on (R354). -/
def Cluster.dmaNow (k : Cluster) (reqs : List DmaReq) (now : Nat) : Cluster :=
  if reqs.isEmpty && k.dmaWaits.isEmpty then k
  else
    let w := reqs.map (fun r => (r, ((k.dmaWaits.find? (fun e => e.1 = r)).map Prod.snd).getD now))
    { k with dmaWaits := w, dmaBlock := k.dmaBlock && w.any (fun e => decide (e.2 + 1024 ≤ now)),
             idleSince := if w.isEmpty then now else k.idleSince }

/-- The clusters that a DMA request is in flight to have their banks On (R354). -/
def Die.wakeDma (x : Die) : Die :=
  (List.range x.clusters.length).foldl (fun x c => if (x.clusters.getD c Cluster.reset).dmaWaits.isEmpty then x else x.wake c) x

/-- The DMA requests of the package noted. -/
def State.noteDma (s : State) : State :=
  let own := s.jobs.flatMap (fun j => match j.run, s.planOf j with
    | some r, some p => if j.st = .running && r.placed then s.jobDma j r p else []
    | _, _ => [])
  { s with dies := s.dies.zipIdx.map (fun (x, d) =>
      let ops := s.opDma d
      if own.isEmpty && ops.isEmpty && x.clusters.all (fun k => k.dmaWaits.isEmpty) then x
      else ({ x with clusters := x.clusters.zipIdx.map (fun (k, c) =>
        k.dmaNow (((own.filter (fun e => e.1 = (d, c))).map Prod.snd) ++ ((ops.filter (fun e => e.1 = c)).map Prod.snd)) s.now) } : Die).wakeDma) }

/-! ### Dependencies between operations of an instance (R59) -/

/-- A job parameter word (R427). -/
def RunData.word (r : RunData) (i : Nat) : Nat := r.params.getD i 0

/-- The host address and bytes of a HOST tensor (R68, R71). -/
def RunData.hostRange (r : RunData) (t : TensorEnt) : Nat × Nat :=
  ((r.bufs.getD (t.offset / 2 ^ 56) ⟨0, 0, 0⟩).addr + t.offset % 2 ^ 56, canonBytes t.fmt t.scaled (elemCount t.shape))

/-- The bytes of a space that an operation touches; those of host memory by their addresses. -/
structure Extent where
  sp : Space
  off : Nat
  len : Nat
  deriving DecidableEq, Repr

/-- Where a tensor of a placed job lies (R68, R71, R72). -/
def RunData.extent (r : RunData) (p : Plan) (x : Nat) : Option Extent :=
  (p.tensors[x]?).map (fun t =>
    match t.sp with
    | .scratchpad => ⟨.scratchpad, t.offset, (p.desc true x).footprint⟩
    | .accumulator => ⟨.accumulator, t.offset, (p.desc true x).footprint⟩
    | .hbmPlan => ⟨.hbmPlan, t.offset, canonBytes t.fmt t.scaled (elemCount t.shape)⟩
    | .hbmJob => ⟨.hbmJob, t.offset, canonBytes t.fmt t.scaled (elemCount t.shape)⟩
    | .host => let (a, n) := r.hostRange t; ⟨.host, a, n⟩)

/-- What an operation reads: its inputs, and the bytes that a RANGE scan names by job parameters (R622). -/
def RunData.reads (r : RunData) (p : Plan) (o : OpRec) : List Extent :=
  o.inputs.filterMap (r.extent p) ++
    (if o.opcode = 0x0703 ∧ o.par 1 1 = 1 then [⟨.host, r.word (o.par 2 1), r.word (o.par 3 1)⟩] else [])

/-- What an operation writes. -/
def RunData.writes (r : RunData) (p : Plan) (o : OpRec) : List Extent := o.outputs.filterMap (r.extent p)

/-- Two extents share a byte. -/
def Extent.meets (a b : Extent) : Bool := a.sp = b.sp && decide (a.off < b.off + b.len) && decide (b.off < a.off + a.len)

/-- Some extent of one list meets some extent of the other. -/
def touch (xs ys : List Extent) : Bool := xs.any (fun x => ys.any x.meets)

/-- R59: a later operation waits for an earlier one whose writes it touches, or whose reads it writes over. -/
def RunData.conflict (r : RunData) (p : Plan) (a b : OpRec) : Bool :=
  touch (r.writes p a) (r.reads p b) || touch (r.writes p a) (r.writes p b) || touch (r.reads p a) (r.writes p b)

/-- Operation `i` of an instance may start: every earlier one that it depends on has completed. -/
def RunData.eligible (r : RunData) (p : Plan) (ops : List OpRec) (completed : List Nat) (i : Nat) : Bool :=
  match ops[i]? with
  | none => false
  | some o =>
    (List.range i).all (fun k => completed.contains k ||
      match ops[k]? with
      | some a => !r.conflict p a o
      | none => true)

/-! ### Choice (R513) -/

/-- An eligible operation with what R513 orders it by. -/
structure Cand where
  key : List Nat
  safe : Bool
  engine : Nat
  cl : Nat
  ref : OpRef
  deriving DecidableEq, Repr

/-- The lexicographic order. -/
def lexLt : List Nat → List Nat → Bool
  | [], _ :: _ => true
  | _, [] => false
  | a :: as, b :: bs => decide (a < b) || (decide (a = b) && lexLt as bs)

/-- The region of an instance is in place: resident (R92), or, for a DIVERSE stage, copied in (R578). -/
def RunData.inPlace (r : RunData) (diverse : Bool) (st lc : Nat) : Bool :=
  if diverse then (match r.diverse.get st with | some x => x.resident | none => false)
  else match r.lcs[lc]? with | some x => x.resident | none => false

/-- R92: an instance's turn on its cluster: no lower logical cluster of the job that the cluster runs the stage for still waits
outside it. -/
def StageRun.turn (sr : StageRun) (r : RunData) (rec : StageRec) (ins : Inst) : Bool :=
  rec.placement = 2 || sr.insts.all (fun i => !(i.lc < ins.lc && i.die = ins.die && i.cl = ins.cl) ||
    decide (rec.ops.length ≤ i.completed.length) || ((r.lcs[i.lc]?).map (·.resident)).getD true)

/-- The eligible operations of one stage on a die. -/
def stageCands (x : Die) (d : Nat) (safe : Bool) (j : Job) (r : RunData) (p : Plan) (sr : StageRun) (st : Nat) : List Cand :=
  match p.stages[st]? with
  | none => []
  | some rec =>
    sr.insts.flatMap (fun ins =>
      if ins.die ≠ d || !ins.launched || !r.inPlace (rec.placement = 2) st ins.lc || !sr.turn r rec ins then []
      else (List.range rec.ops.length).filterMap (fun i =>
        let ref : OpRef := ⟨j.q, j.s, st, ins.lc, sr.iter, i⟩
        if ins.completed.contains i || ins.ran.contains i || x.holdsOp ref || !r.eligible p rec.ops ins.completed i then none
        else some ⟨[bit01 (!safe), j.order, ins.lc, st, i], safe, engineOf ((rec.ops[i]?.map (·.opcode)).getD 0), ins.cl, ref⟩))

/-- The eligible operations on a die. -/
def State.cands (s : State) (d : Nat) : List Cand :=
  s.jobs.flatMap (fun j =>
    match j.run, s.planOf j with
    | some r, some p =>
      if j.st ≠ .running || !r.placed || j.cancelBy.isSome then []
      else r.stages.zipIdx.flatMap (fun (sr, st) =>
        if sr.st = .launched then stageCands (s.die d) d (s.group j.q = 0) j r p sr st else [])
    | _, _ => [])

/-- The first candidate in the order of R513. -/
def best (l : List Cand) : Option Cand :=
  l.foldl (fun b c => match b with | none => some c | some x => if lexLt c.key x.key then some c else b) none

/-- The test unit of an engine (R594). -/
def engineUnit (c e : Nat) : Option Nat :=
  match e with
  | 0 => some (unitCode 2 (529 * c + 528))
  | 1 => some (unitCode 4 c)
  | 3 => some (unitCode 13 c)
  | 4 => some (unitCode 4 c)
  | _ => none

/-- A test unit as Tinker has it after reset. -/
def TestUnit.fresh : TestUnit :=
  { running := none, passed := [], since := none, tested := false, suspect := none, removed := false, overdue := false,
    mismatchAt := [], failed := false, quarantined := false, named := [] }

/-- A test unit of a die. -/
def Die.unit (x : Die) (u : Nat) : TestUnit := x.units.getD u TestUnit.fresh

/-- The engine kinds a test unit occupies, as a mask (R594): by the kind of its unit code; a scratchpad bank any kind. -/
def unitEngines (unit : Nat) : Nat :=
  match unit / 4096 with
  | 2 => 0x01
  | 4 => 0x12
  | 13 => 0x08
  | 5 => 0xFF
  | 6 => 0x20
  | _ => 0

/-- R574: the engine kinds that a suspect test unit takes out: of the divider lanes those of the units named. -/
def TestUnit.suspectEngines (t : TestUnit) (u : Nat) : Nat :=
  if t.suspect.isNone then 0
  else if t.named.isEmpty then unitEngines u
  else (if t.named.any (fun n => n / 4096 = 3) then 0x02 else 0) ||| (if t.named.any (fun n => n / 4096 = 4) then 0x10 else 0)

/-- An engine may start an operation: its cluster serves DMA under R350 first, and a unit under test makes an operation
of a job outside group 0 wait (R598); a suspect unit starts none (R574, R608). -/
def Die.engineOpen (x : Die) (c e : Nat) (safe : Bool) : Bool :=
  !(x.clusters.getD c Cluster.reset).dmaBlock &&
    match (if c < 5 then engineUnit c e else none) with
    | none => true
    | some u => (safe || (x.unit u).running.isNone) && !bit ((x.unit u).suspectEngines u) e

/-- R516: a scoreboard entry is free for an operation; 512 of the 8,192 are kept for group 0. -/
def State.scoreRoom (s : State) (d : Nat) (safe : Bool) : Bool :=
  let es := (s.die d).entries
  decide (es.length < 8192) && (safe || decide ((es.filter (fun r => s.group r.q ≠ 0)).length < 7680))

/-- The candidates for an engine slot. -/
def State.candsFor (s : State) (d c e : Nat) : List Cand :=
  (s.cands d).filter (fun k => (engineSlots k.engine k.cl).contains (c, e))

/-- An engine of a die takes an operation. -/
def State.take (s : State) (d c e : Nat) (r : OpRef) : State :=
  s.modDie d (fun x => (x.setSlot c e ⟨some r, none⟩).wake c)

/-- R513, R514: a free engine takes its prefetched operation, or the next one; an eligible group-0 operation displaces a prefetched one of
another group also while the engine is closed (R515). -/
def State.fillCurrent (s : State) (d c e : Nat) : State :=
  let x := s.die d
  let sl := x.slot c e
  match sl.cur, sl.pre with
  | some _, _ => s
  | none, some r =>
    let r := match best (s.candsFor d c e) with
      | some k => if k.safe && decide (s.group r.q ≠ 0) then k.ref else r
      | none => r
    if x.engineOpen c e (s.group r.q = 0) then s.take d c e r else s.modDie d (fun x => x.setSlot c e ⟨none, some r⟩)
  | none, none =>
    match best (s.candsFor d c e) with
    | none => s
    | some k =>
      if x.engineOpen c e k.safe && s.scoreRoom d k.safe then s.take d c e k.ref else s

/-- R514, R515: the prefetch slot takes the next operation; an operation of group 0 displaces one of another group. -/
def State.fillPrefetch (s : State) (d c e : Nat) : State :=
  let sl := (s.die d).slot c e
  match sl.cur, best (s.candsFor d c e) with
  | some _, some k =>
    let take := match sl.pre with
      | none => s.scoreRoom d k.safe
      | some r => k.safe && decide (s.group r.q ≠ 0)
    if take then s.modDie d (fun x => x.setSlot c e ⟨sl.cur, some k.ref⟩) else s
  | _, _ => s

/-- One engine served. -/
def State.issueOne (s : State) (d c e : Nat) : State := (s.fillCurrent d c e).fillPrefetch d c e

/-- The engine slots of a die that something waits for. -/
def State.wanted (s : State) (d : Nat) : List (Nat × Nat) :=
  (((s.cands d).flatMap (fun (k : Cand) => engineSlots k.engine k.cl)) ++
    (s.die d).slots.map (fun (e : Nat × Slot) => (e.1 / 16, e.1 % 16))).eraseDups

/-- Every engine of a die served. -/
def State.issueDie (s : State) (d : Nat) : State := (s.wanted d).foldl (fun s k => s.issueOne d k.1 k.2) s

/-- Every engine of the package served, the DMA requests noted before and after. -/
def State.issueAll (s : State) : State := ((List.range s.n).foldl State.issueDie s.noteDma).noteDma

end Sys2Proof.Machine
end

