-- ==== Sys2Proof/Machine/Digests.lean ====
section
/-!
DEFINITION. The digests of a RUN: its input digest (R552) and its layer digest buffer (R557 to R560), and the resolution
of the job parameter words that operations name.
-/
namespace Sys2Proof.Machine

/-- A selector field: 0xFF takes the constant, another value the named job parameter word. -/
def RunData.sel (r : RunData) (src const : Nat) : Nat := if src = 0xFF then const else r.word src

/-- R197: the body slot a Fletcher operation names. -/
def OpRec.bodySlot (o : OpRec) (params : List Nat) : Nat :=
  let v := o.par 0 2
  if bit v 15 then params.getD (v % 32) 0 % 1024 else v % 1024

/-- R197: the job parameter word that names the body slot, if one does. -/
def OpRec.bodyWord (o : OpRec) : Option Nat := if bit (o.par 0 2) 15 then some (o.par 0 2 % 32) else none

/-- A Fletcher operation. -/
def OpRec.isFletcher (o : OpRec) : Bool := o.opcode = 0x0300 || o.opcode = 0x0301

/-- R62, R65: the iterations of a stage. -/
def Plan.iterations (p : Plan) (params : List Nat) (st : Nat) : Nat :=
  match p.loopOf st with
  | none => 1
  | some l => if l.countSrc = 1 then params.getD l.paramIndex 0 else l.count

/-- R552 item 6: the HOST tensors an operation reads, in ascending index. -/
def Plan.hostInputs (p : Plan) : List Nat :=
  (List.range p.tensors.length).filter (fun x =>
    (p.tensors[x]?.map (·.sp)) = some Space.host && p.ops.any (fun o => o.inputs.contains x))

/-- The bytes of a HOST tensor as the job first read them, or as they stand (R552, R555). -/
def State.hostInput (s : State) (r : RunData) (p : Plan) (x : Nat) : List Byte :=
  match r.inputs.get x with
  | some bs => bs
  | none =>
    match p.tensors[x]? with
    | some t => let (a, n) := r.hostRange t; s.host.read a n
    | none => []

/-- R552: the input digest of a RUN. -/
def State.inputDigest (s : State) (j : Job) (r : RunData) (p : Plan) : List Byte :=
  sha512 (natLE 8 (j.f 0x50 8) ++ natLE 8 (j.f 0x58 8) ++ natLE 1 (j.f 0x41 1) ++ zeros 7 ++
    (tabulate 32 (fun i => natLE 8 (r.word i))).flatten ++
    (p.ops.filter OpRec.isFletcher).flatMap (fun o =>
      let b := o.bodySlot r.params
      let v := ((j.pinBodies.find? (fun x => x.slot = b)).map (·.version)).getD 0
      natLE 2 b ++ zeros 6 ++ natLE 8 v) ++
    p.hostInputs.flatMap (s.hostInput r p))

/-- R551 to R553: a dispatched RUN takes its digests when its outcome is decided; a LOAD_PLAN or world job that has read nothing yet has
the digest of its descriptor bytes. -/
def State.sealDigests (s : State) (j : Job) : Job :=
  match j.run, s.planOf j with
  | some r, some p =>
    if j.kind = 1 && j.dispatched && j.audit then
      { j with planDigest := ((j.pinPlan.map (fun i => (s.planSlot i).digest)).getD (zeros 64)), weightsDigest := p.weightsDigest,
               inDigest := s.inputDigest j r p }
    else j
  | _, _ =>
    if (j.kind = 2 || j.kind = 4 || j.kind = 5) && j.dispatched && j.audit && j.inDigest = zeros 64 then
      { j with inDigest := sha512 (slice j.desc 0x40 64) }
    else j

/-- R559: the records of one stage. -/
def layerRecords (p : Plan) (r : RunData) (st : Nat) : List Byte :=
  let crcs := (r.stages.getD st ⟨.pending, 0, 0, none, false, [], []⟩).crcs
  (tabulate (p.iterations r.params st) (fun i =>
    match crcs.getD i none with
    | some (c, n) => natLE 1 st ++ [1] ++ zeros 2 ++ natLE 4 i ++ natLE 8 c ++ natLE 8 n ++ zeros 8
    | none => natLE 1 st ++ [0] ++ zeros 2 ++ natLE 4 i ++ zeros 24)).flatten

/-- R558: the layer digest buffer. -/
def layerBuffer (j : Job) (r : RunData) (p : Plan) (tag : Nat) : List Byte :=
  let n := (List.range p.stages.length).foldl (fun a st => a + p.iterations r.params st) 0
  natLE 4 n ++ natLE 1 p.stages.length ++ zeros 3 ++ natLE 8 tag ++ natLE 8 j.config ++ zeros 40 ++
    (List.range p.stages.length).flatMap (layerRecords p r)

/-- R457: a die may write host memory while it holds its lease; one whose segment is not in use yet is asked for none. -/
def State.mayWrite (s : State) (d : Nat) : Bool :=
  let x := s.die d
  !x.lost && (s.portOf d).isSome && !x.ldg.stopped &&
    (!x.ldg.inUse || match x.ldg.lease with | none => false | some t => decide (s.now < t))

/-- A die may write host memory, and its fabric egress grants it (R33, R374, R410, R457). -/
def State.mayReach (s : State) (d : Nat) : Bool := s.mayWrite d && s.arbOpen [atEgress d 0]

/-- What job (q, n) writes to host memory beside its completion: now, or, where its owner may not, with its completion and before it
(R33, R410, R443, R457). -/
def State.jobWrite (s : State) (q n a : Nat) (bs : List Byte) : State :=
  match s.job q n with
  | none => s
  | some j =>
    if s.mayReach j.owner then (s.granted [atEgress j.owner 2]).writeHost a bs
    else (s.queued [atEgress j.owner 2]).modJob q n (fun j => { j with owed := j.owed ++ [(a, bs)] })

/-- R560: the layer digest buffer is written before the completion, also where the job ends early. -/
def State.writeLayers (s : State) (j : Job) : State :=
  match j.run, s.planOf j with
  | some r, some p =>
    if j.layerDig then
      s.jobWrite j.q j.s (j.f 0x70 8) (layerBuffer j r p (leNat (((j.pinPlan.map (fun i => (s.planSlot i).digest)).getD []).take 8)))
    else s
  | _, _ => s

end Sys2Proof.Machine
end

