-- ==== Sys2Proof/Machine/Jobs.lean ====
section
/-!
DEFINITION. Jobs through their states: readiness, finishing, completions in serial order, the Ledger's writes.
-/
namespace Sys2Proof.Machine

/-! ### Ledger writes (R450, R455 to R461) -/

/-- C: the record slots of a segment (R455). -/
def Regs.segSlots (r : Regs) : Nat := (2 ^ r.segSize - 4096) / 32

/-- R459: a Ledger record. -/
def ledgerRecord (type lflags queue count toDie serial seq gtc : Nat) : List Byte :=
  let b := natLE 1 type ++ natLE 1 lflags ++ natLE 2 queue ++ natLE 2 count ++ natLE 1 toDie ++ [0] ++ natLE 8 serial ++
    natLE 8 seq ++ natLE 4 (gtc % 2 ^ 32)
  b ++ natLE 4 (crc32c b)

/-- The type, flags, count, to_die and serial of a record for an item. -/
def LedgerItem.fields (s : State) : LedgerItem → Option (Nat × Nat × Nat × Nat × Nat × Nat)
  | .accept q n c fl => some (1, fl, q, c, 0, n)
  | .close q n c => some (2, 0, q, c, 0, n)
  | .move q dest => some (3, 0, q, 0, dest, (s.queue q).taken)
  | .suspend q n => some (4, 0, q, 1, 0, n)
  | .resume q n => some (5, 0, q, 1, 0, n)
  | _ => none

/-- A record written at the next sequence number of a die's segment (R455), not yet durable. An ACCEPT notes where it lies with the jobs
it covers, apart while they belong to another die (R458, R477). -/
def State.putRecord (s : State) (d : Nat) (it : LedgerItem) : State :=
  match it.fields s with
  | none => s
  | some (ty, fl, q, c, dest, n) =>
    let l := (s.die d).ldg
    let bs := ledgerRecord ty fl q c dest n l.next (s.gtc d)
    let a := s.regs.segBase.getD d 0 + 4096 + 32 * (l.next % s.regs.segSlots)
    let s := ((s.granted [atEgress d 0]).writeHost a bs).modDie d (fun x =>
      { x with ldg := { x.ldg with next := x.ldg.next + 1, unstable := x.ldg.unstable ++ [(it, a, bs)] } })
    match it with
    | .accept q n c _ =>
      let covers (k : Nat) : Bool := decide (serialAhead k n < c)
      let s : State := { s with jobs := s.jobs.map (fun j =>
          if j.q = q && covers j.s then (if j.owner = d then { j with acceptSeq := l.next } else { j with movedSeq := l.next }) else j) }
      (s.modQueue q (fun x => { x with recovered := x.recovered.map (fun r =>
          if covers r.serial then (if x.entry.homeDie = d then { r with acceptSeq := l.next } else { r with movedSeq := l.next }) else r) })).modDie d (fun x =>
        { x with ldg := { x.ldg with closing := x.ldg.closing.map (fun e => if e.1 = q && covers e.2.1 then (q, e.2.1, l.next) else e) } })
    | _ => s

/-- Runs of consecutive serials of one queue, of at most 256 (R459). -/
def serialRuns : List (Nat × Nat) → List (Nat × Nat × Nat)
  | [] => []
  | (q, n) :: rest =>
    match serialRuns rest with
    | (q', n', c) :: more =>
      if q = q' ∧ n' = serialAdd n 1 ∧ c < 256 then (q, n, c + 1) :: more else (q, n, 1) :: (q', n', c) :: more
    | [] => [(q, n, 1)]

/-- Queues and serials in ascending order. -/
def sortKeys (l : List (Nat × Nat)) : List (Nat × Nat) :=
  sortBy (fun a b => decide (a.1 < b.1) || (decide (a.1 = b.1) && decide (0 < serialAhead b.2 a.2 ∧ serialAhead b.2 a.2 < 2 ^ 47))) l

/-- Jobs by queue and serial. -/
def State.sortedJobs (s : State) (f : Job → Bool) : List (Nat × Nat) := sortKeys ((s.jobs.filter f).map (fun j => (j.q, j.s)))

/-- Where the ACCEPT lies by which die `d` owns a job (R452): the die that has it, or the one that a MOVE has given its records to. -/
def State.seqOn (s : State) (d owner q acc mov : Nat) : Option Nat :=
  if owner = d then some acc
  else match (s.queue q).moving with
    | some (b, k) => if b = d && decide (2 ≤ k) then some mov else none
    | none => none

/-- The jobs that a die owns (R452), each with the place of its ACCEPT and whether it is suspended: those in slots, those that a record alone
holds (R472), and those whose completion is written and whose CLOSE is not durable. -/
def State.ownedBy (s : State) (d : Nat) : List ((Nat × Nat) × Nat × Bool) :=
  s.jobs.filterMap (fun j => if j.accepted then (s.seqOn d j.owner j.q j.acceptSeq j.movedSeq).map (fun k => ((j.q, j.s), k, decide (j.st = .suspended))) else none) ++
    s.queues.flatMap (fun e => e.2.recovered.filterMap (fun r =>
      (s.seqOn d e.2.entry.homeDie e.1 r.acceptSeq r.movedSeq).map (fun k => ((e.1, r.serial), k, r.held)))) ++
    (s.die d).ldg.closing.map (fun e => ((e.1, e.2.1), e.2.2, false))

/-- R458, steps 2 and 3: the CARRIED ACCEPT records of the jobs whose ACCEPT lies below `base_seq` + 8,192, and the SUSPEND
records of those that are suspended. -/
def State.carry (s : State) (d : Nat) : State :=
  let old := (s.ownedBy d).filter (fun e => decide (e.2.1 < (s.die d).ldg.base + 8192))
  let s' := (serialRuns (sortKeys (old.map Prod.fst))).foldl (fun t r => t.putRecord d (.accept r.1 r.2.1 r.2.2 4)) s
  (sortKeys ((old.filter (fun e => e.2.2)).map Prod.fst)).foldl (fun t r => t.putRecord d (.suspend r.1 r.2)) s'

/-- The records that wait are written in their order, while the die may write host memory and its egress grants it (R33, R374, R457);
the one that would exceed the limit of R458 starts a reclaim, and the rest wait for its end. -/
def State.flushRecords (d : Nat) : Nat → State → State
  | 0, s => s
  | k + 1, s =>
    let l := (s.die d).ldg
    match l.held with
    | [] => s
    | it :: rest =>
      if l.reclaim.isSome then s
      else if !s.mayReach d then s.queued [atEgress d 0]
      else if s.regs.segSlots - 8192 < l.next + 1 - l.base then (s.modDie d (fun x => { x with ldg := { x.ldg with reclaim := some 1 } })).carry d
      else State.flushRecords d k ((s.modDie d (fun x => { x with ldg := { x.ldg with held := rest } })).putRecord d it)

/-- A record for a die's segment: written, or held behind those that wait (R457, R458, R461). -/
def State.ledgerWrite (s : State) (d : Nat) (it : LedgerItem) : State :=
  State.flushRecords d ((s.die d).ldg.held.length + 1) (s.modDie d (fun x => { x with ldg := { x.ldg with held := x.ldg.held ++ [it] } }))

/-- A record of a queue's jobs, written on any die, that is not durable yet, or waits to be written. -/
def State.recordsPending (s : State) (q : Nat) : Bool :=
  s.dies.any (fun x => (x.ldg.held ++ x.ldg.unstable.map Prod.fst).any (fun it => match it with
    | .accept k _ _ fl => k = q && fl ≠ 0 | .suspend k _ => k = q | _ => false))

/-- The segment header of a die written (R456), not yet durable. -/
def State.writeHeader (s : State) (d : Nat) (st live : Nat) : State :=
  let l := (s.die d).ldg
  let a := s.regs.segBase.getD d 0
  let bs := natLE 4 0x4744454C ++ natLE 1 d ++ natLE 1 st ++ zeros 2 ++ natLE 8 live ++ natLE 8 l.base ++
    natLE 8 l.epoch ++ zeros 32
  (s.writeHost a bs).modDie d (fun x =>
    { x with ldg := { x.ldg with inUse := true, unstable := x.ldg.unstable ++ [(.header, a, bs)] } })

/-! ### Queue Table fields the device writes (R414) -/

/-- The fields of a queue's entry that are due are written, where the home die may write host memory and its egress grants it. With the
state that a queue command leads to, or the home that a MOVE gives, `busy` clears (R417, R418, R477). -/
def State.putEntry (s : State) (q : Nat) : State :=
  let x := s.queue q
  if x.due = 0 then s
  else if !s.mayReach x.entry.homeDie then s.queued [atEgress x.entry.homeDie 1]
  else
    let s := (s.granted [atEgress x.entry.homeDie 1]).modQueue q (fun y => { y with due := 0 })
    let s := if bit x.due 0 then (s.writeHost (s.qtbAddr q + 0x18) (natLE 8 x.accepted)).writeHost (s.qtbAddr q + 0x20) (natLE 8 x.fetchStall) else s
    let s := if bit x.due 1 then s.writeHost (s.qtbAddr q + 0x28) (natLE 1 x.st.code) else s
    let s := if bit x.due 2 then s.writeHost (s.qtbAddr q + 0x12) [BitVec.ofNat 8 x.entry.homeDie] else s
    if s.regs.qtbBusy = some q && (bit x.due 1 || bit x.due 2) && x.st ≠ .withdrawing && x.moving.isNone then
      s.modRegs (fun r => { r with qtbBusy := none })
    else s

/-- `qstate` set and written. -/
def State.setQState (s : State) (q : Nat) (st : QState) : State :=
  (s.modQueue q (fun x => { x with st := st, due := setBit x.due 1 })).putEntry q

/-- `accepted` published (R415): it never decreases; `fetch_stall` goes with it (R435). -/
def State.publishAccepted (s : State) (q : Nat) (v : Nat) : State :=
  let x := s.queue q
  let v := if serialAtOrAfter v x.accepted then v else x.accepted
  let now := s.now
  let add := match x.stallSince with | none => 0 | some t => (now - Max.max t x.stallCounted) / countsPerUs
  let fs := Min.min (x.fetchStall + add) (2 ^ 64 - 1)
  let counted := match x.stallSince with | none => x.stallCounted | some t => Max.max t x.stallCounted + add * countsPerUs
  (s.modQueue q (fun y => { y with accepted := v, fetchStall := fs, stallCounted := counted, due := setBit y.due 0 })).putEntry q

/-! ### Placement held by jobs (R89, R90) -/

/-- The regions a job holds on clusters: those of a placed job, and the region of its DIVERSE instance. -/
def Job.regions (j : Job) : List LogCluster :=
  match j.run with
  | none => []
  | some r => (if r.placed then r.lcs else []) ++ (if r.placed then r.diverse.values else [])

/-- The dies in whose slices a job holds its World Store share: until its completion is written (R90). -/
def Job.shareDies (j : Job) : List Nat :=
  match j.run with
  | none => []
  | some r => if r.placed || j.st = .finished then r.lcs.map (·.die) ++ r.diverse.values.map (·.die) ++ r.shares else []

/-! ### Stalls (R434, R435) -/

/-- The accepted jobs that a die is home of: those in slots, and recovered ones that wait for a slot (R434, R472). -/
def State.jobsHomed (s : State) (d : Nat) : Nat :=
  s.acceptedOn d + (s.queues.map (fun e => if e.2.entry.homeDie = d then e.2.recovered.length else 0)).sum

/-- R434: the serial may be accepted. -/
def State.admits (s : State) (q n : Nat) : Bool :=
  let x := s.queue q
  decide (0 < serialAhead x.post n ∧ serialAhead x.post n ≤ x.ring) &&
    decide (serialAhead n x.low < x.entry.window) && decide (s.jobsHomed x.entry.homeDie < 4096)

/-- R435: the queue has posted descriptors that R434 keeps from acceptance. -/
def State.stalled (s : State) (q : Nat) : Bool :=
  let x := s.queue q
  x.st = .enabled && decide (0 < serialAhead x.post x.taken ∧ serialAhead x.post x.taken ≤ x.ring) && !s.admits q x.taken

/-- The start or the end of a stall noted (R435). -/
def State.noteStall (s : State) (q : Nat) : State :=
  match (s.queue q).stallSince, s.stalled q with
  | none, true => s.modQueue q (fun y => { y with stallSince := some s.now, stallCounted := s.now, backlogged := false })
  | some t, false =>
    s.modQueue q (fun y =>
      { y with stallSince := none, backlogged := false,
               fetchStall := Min.min (y.fetchStall + (s.now - Max.max t y.stallCounted) / countsPerUs) (2 ^ 64 - 1) })
  | _, _ => s

/-- The stalls of a die's queues noted: its accepted jobs hold them all back or let them go on (R434, R435). -/
def State.noteStalls (s : State) (d : Nat) : State :=
  s.queues.foldl (fun s e => if e.2.entry.homeDie = d then s.noteStall e.1 else s) s

/-! ### Ready lists (R503) and flows (R499) -/

/-- R503: a job joins the tail of a ready list, among those that entered READY in the same CCLK period in the order of queues, then of
serials. -/
def State.joinReady (s : State) (l : List (Nat × Nat)) (k : Nat × Nat) : List (Nat × Nat) :=
  let new (e : Nat × Nat) : Bool := match s.job e.1 e.2 with | some j => j.readyAt = some s.now | none => false
  let after (e : Nat × Nat) : Bool := new e && (decide (k.1 < e.1) || (e.1 = k.1 && !serialAtOrAfter k.2 e.2))
  let (late, early) := l.reverse.span after
  early.reverse ++ k :: late.reverse

/-- A job joins the tail of its group's ready list in the partition that owns its queue; one that is moving with its
queue joins it when the move has ended (R477). -/
def State.enterReady (s : State) (q n : Nat) : State :=
  match s.job q n with
  | none => s
  | some j =>
    let s := s.modJob q n (fun j => { j with st := .ready, readyAt := some s.now })
    if j.moved then s else s.modPart j.owner (partOf q) (fun p =>
      { p with ready := p.ready.modify (s.group q) (fun l => if l.contains (q, n) then l else s.joinReady l (q, n)) })

/-- A job leaves its ready list. -/
def State.unlist (s : State) (q n : Nat) : State :=
  s.modDies (fun x => { x with parts := x.parts.map (fun p => { p with ready := p.ready.map (fun l => l.filter (fun e => e ≠ (q, n))) }) })

/-- A job leaves its ready list without a dispatch: a partition that then holds no READY job measures no interval (R511). -/
def State.leaveReady (s : State) (q n : Nat) : State :=
  (s.unlist q n).modDies (fun x => { x with parts := x.parts.map (fun p =>
    { p with lastDispatch := if p.ready.all (fun l => l.isEmpty) then none else p.lastDispatch }) })

/-- The flow of a job. -/
def Job.flow (j : Job) : Nat := j.f 2 2

/-- R499: a job's flow released, its request withdrawn. -/
def State.releaseFlow (s : State) (q n : Nat) : State :=
  { s with flows := s.flows.map (fun e => (e.1,
      { e.2 with holder := if e.2.holder = some (q, n) then none else e.2.holder,
                 waiting := e.2.waiting.filter (fun w => (w.1, w.2.1) ≠ (q, n)) })) }

/-! ### Engine slots -/

/-- The distinct clusters of a list. -/
def clustersOf (l : List LogCluster) : List (Nat × Nat) := (l.map (fun x => (x.die, x.cl))).eraseDups

/-- An operation that a cluster works on, or a DMA transfer to it, is in flight (R354). -/
def State.clusterBusy (s : State) (d c : Nat) : Bool :=
  !((s.die d).clusters.getD c Cluster.reset).dmaWaits.isEmpty ||
  (s.die d).entries.any (fun r => match s.job r.q r.s with
    | some j => (match j.run with
      | some rd => (rd.stage r.stage).insts.any (fun i => i.lc = r.lc && i.die = d && i.cl = c)
      | none => false)
    | none => false)

/-- A job holds a region on a cluster. -/
def State.clusterHeld (s : State) (d c : Nat) : Bool := s.jobs.any (fun j => j.regions.any (fun l => l.die = d && l.cl = c))

/-- R354: a job lets go of its regions. A cluster that was at work, or on which no other job holds a region, is idle from now on;
one that holds no region any more has its banks On until it has been idle for long enough. -/
def State.noteIdle (s : State) (q n : Nat) : State :=
  match s.job q n with
  | none => s
  | some j => (clustersOf j.regions).foldl (fun s (d, c) =>
      let held := s.jobs.any (fun k => !(k.q = q && k.s = n) && k.regions.any (fun l => l.die = d && l.cl = c))
      s.modDie d (fun x => { x with clusters := x.clusters.modify c (fun k =>
        { k with idleSince := if held && !s.clusterBusy d c then k.idleSince else s.now
                 banks := if held then k.banks else k.banks.map (fun b => if b = 1 then 3 else b) }) })) s

/-- A message of class CTRL is about a stage of a job. -/
def CtrlBody.isOf (m : CtrlBody) (q n : Nat) : Bool :=
  match m with
  | .heartbeat => false
  | .launch a b _ => a = q && b = n
  | .go a b _ => a = q && b = n
  | .arrive a b _ => a = q && b = n
  | .notify _ => false

/-- Every operation of a job leaves the slots and the GQUs; messages about its stages say nothing any more. -/
def State.takeOps (s : State) (q n : Nat) : State :=
  let mine (r : OpRef) : Bool := r.q = q && r.s = n
  let drop (o : Option OpRef) : Option OpRef := match o with | some r => if mine r then none else some r | none => none
  ({ s with ctrl := s.ctrl.filter (fun m => !m.body.isOf q n) } : State).modDies (fun x =>
    { x with slots := (x.slots.map (fun e => (e.1, (⟨drop e.2.cur, drop e.2.pre⟩ : Slot)))).filter
               (fun e => e.2.cur.isSome || e.2.pre.isSome)
             tests := x.tests.filter (fun t => !mine t.r) })

/-- The operations of a job that has stopped leave, and the engines they held are served. -/
def State.clearOps (s : State) (q n : Nat) : State := (s.takeOps q n).issueAll

/-! ### Clusters leaving service (R355, R681, R682, R684) -/

/-- A cluster that leaves service and holds no region any more is off: its banks and accumulator memory lose their contents. -/
def Die.emptyClusters (x : Die) (held : Nat → Bool) (now : Nat) : Die :=
  let gone (c : Nat) (k : Cluster) : Bool := k.draining && !held c
  { x with
    clusters := x.clusters.zipIdx.map (fun e => if gone e.2 e.1 then
      { e.1 with off := true, draining := false, banks := List.replicate 66 2, idleSince := now } else e.1)
    flips := x.flips.filter (fun f => !(decide (f.mem ≤ 1) && gone f.cl (x.clusters.getD f.cl Cluster.reset))) }

/-- A change of power state or of the cluster set to D0 or D1 that holds now ends (R680). -/
def Die.endChange (x : Die) : Die :=
  match x.power.change with
  | some (t, _, _) =>
    if t ≤ 1 && !x.returning && x.clusters.all (fun k => !k.draining) &&
        (t = 1 || x.units.all (fun e => e.1 / 4096 = 6 || e.2.suspect.isNone)) then
      { x with power := { x.power with state := t, change := none } }
    else x
  | none => x

/-- The clusters that have been emptied, and the changes that wait on them. -/
def State.settleClusters (s : State) : State :=
  if s.dies.all (fun x => x.power.change.isNone && x.clusters.all (fun k => !k.draining)) then s
  else { s with dies := s.dies.zipIdx.map (fun e =>
    (e.1.emptyClusters (fun c => s.jobs.any (fun j => j.regions.any (fun l => l.die = e.2 && l.cl = c))) s.now).endChange) }

/-! ### Finishing a job -/

/-- What a job keeps when its outcome is decided: its digests, its pins, and the World Store shares that its placement holds
(R90: a job that holds no placement, as one that was suspended, holds none). -/
def Job.settled (j : Job) (o : CplFields) (g : Nat) : Job :=
  { (j.modRun (fun r => { r with
      placed := false, lcs := if r.placed then r.lcs.map (fun l => { l with spad := [], acc := [], ckpt := ⟨l.die, 0, 0⟩ }) else []
      diverse := if r.placed then r.diverse else [], shares := if r.placed then r.shares else [], inputs := []
      work := ⟨r.work.die, 0, 0⟩ })) with
    st := .finished, outcome := some { o with gtcDone := g, die := j.owner }, suspending := false, parking := false }

/-! ### What an ended load, drop or release leaves (R223, R86, R526) -/

/-- The cached lines of a world on a die that a reclamation leaves: those of pool slots still in use, and probe windows (R228); none of a
world that is gone. -/
def Die.dropLines (x : Die) (w : Nat) : Die :=
  let stays (line : Nat) : Bool :=
    if lineWorld line ≠ w then true
    else match x.worlds.get w with
      | some y => !lineIsBrick line || (y.lat.pool.get (lineSlice line * y.lat.poolPart + line % 2 ^ 25)).isSome
      | none => false
  { x with wsLines := x.wsLines.filter (fun c => stays c.line), fills := x.fills.filter stays }

/-- R279: the entries of a world in the L0 caches of a die's GQUs are invalid. -/
def Die.dropL0 (x : Die) (w : Nat) : Die := { x with l0Cache := x.l0Cache.map (fun e => (e.1, e.2.filter (fun c => c.1 ≠ w))) }

/-- A world slot EMPTY on every die. -/
def State.emptyWorld (s : State) (w : Nat) : State :=
  ({ s with worlds := s.worlds.erase w } : State).modDies (fun x => (({ x with worlds := x.worlds.erase w } : Die).dropLines w).dropL0 w)

/-- The DROP_PLAN jobs that wait on a slot look at it again. -/
def State.retryDrops (s : State) (i : Nat) : State :=
  { s with jobs := s.jobs.map (fun j =>
      if j.st = .running && j.kind = 3 && j.phase = 1 && j.f 0x40 1 = i then { j with phase := 0 } else j) }

/-- R86, R223, R526: the slot that a job still holds when it ends: one that its LOAD_PLAN or base load was filling is free again, one
that its DROP_PLAN or RELEASE was emptying is READY, and a body slot keeps its previous model. A load whose application is under way
is settled with it. -/
def State.leaveSlots (s : State) (j : Job) : State :=
  let k := (j.q, j.s)
  let i := j.f 0x40 1
  let w := j.f 0x42 2
  match j.kind with
  | 2 =>
    let x := s.planSlot i
    if x.st = .loading ∧ x.owner = k then ({ s with plans := s.plans.erase i } : State).retryDrops i else s
  | 3 =>
    let x := s.planSlot i
    if x.st = .dropping ∧ x.dropper = k then
      ({ s with plans := s.plans.insert i { x with st := .ready } } : State).retryDrops i
    else s
  | 4 =>
    let x := s.world w
    if i = 0 then (if x.st = .loading ∧ x.owner = k ∧ x.update.isNone = true then s.emptyWorld w else s)
    else if i = 1 then
      { s with bodies := s.bodies.update w (fun b =>
          { b with loading := match b.loading with | some l => if l.1 = k then none else some l | none => none }) }
    else if x.st = .releasing ∧ x.owner = k then { s with worlds := s.worlds.insert w { x with st := .ready } }
    else s
  | _ => s

/-- The job's outcome is decided (R481): it is FINISHED, its operations, clusters and flow are released. Its pins and
World Store shares stay until its completion is written (R78, R90). -/
def State.finishJob (s : State) (q n : Nat) (o : CplFields) : State :=
  match s.job q n with
  | none => s
  | some j =>
    if j.st = .finished then s
    else
      let g := s.gtc j.owner
      let s := (((s.leaveSlots j).noteIdle q n).writeLayers j).modJob q n (fun x => (s.sealDigests x).settled o g)
      let s := ((s.leaveReady q n).releaseFlow q n).clearOps q n
      (s.traceEv j.owner 0x0C q n (finalStatus o.status j.advisory) 0).settleClusters

/-- R400, R441: the completion of a finished job written through fabric egress, after what the job still owes host memory: bytes 0x08 to
the end first, then `serial`; its die owns it until its CLOSE is durable (R452); it adds an
event to the queue's vector on the port that wrote it. -/
def State.writeCompletion (s : State) (j : Job) (o : CplFields) : State :=
  let x := s.queue j.q
  let r := completionRecord j o x.auditCpl
  let a := x.cplAddr j.s
  let s := ((j.owed.foldl (fun s e => s.writeHost e.1 e.2) s).writeHost (a + 8) (r.drop 8)).writeHost a (r.take 8)
  let s := s.modQueue j.q (fun y => { y with low := serialAdd j.s 1, kept := if y.kept = some (serialAdd j.s 1) then none else y.kept })
  let s := (s.modDie j.owner (fun y =>
    { y with ldg := { y.ldg with unstable := y.ldg.unstable ++ [(.completion j.q j.s, a, r)], closing := y.ldg.closing ++ [(j.q, j.s, j.acceptSeq)] } })).granted [atEgress j.owner 0]
  let s := match s.portOf j.owner with
    | some k => s.vectorEvent k x.entry.vector
    | none => s
  (s.traceEv j.owner 0x0D j.q j.s (finalStatus o.status j.advisory) 0).dropJob j.q j.s

/-- R343: every store write of a job is present on every healthy die. -/
def State.storeSettled (s : State) (q n : Nat) : Bool :=
  s.storeWrites.all (fun w => !(w.q = q && w.s = n) || w.dies.all (fun d => !s.healthy d))

/-- Every completion of a queue that its serial order allows is written (R441); what R343, R451 and R457 hold back waits. -/
def State.writeCompletionsAux (q : Nat) : Nat → State → State
  | 0, s => s
  | fuel + 1, s =>
    match s.job q (s.queue q).low with
    | none => s
    | some j =>
      match j.st, j.outcome with
      | .finished, some o =>
        if s.mayWrite j.owner && !j.moved && s.storeSettled q j.s then
          if s.arbOpen [atEgress j.owner 0] then State.writeCompletionsAux q fuel (s.writeCompletion j o) else s.queued [atEgress j.owner 0]
        else s
      | _, _ => s

/-- R418: DRAINING ends in DISABLED after the last completion, WITHDRAWING in WITHDRAWN when all are parked; jobs that a record
alone holds (R472) are accepted ones too. -/
def State.settleQueue (s : State) (q : Nat) : State :=
  let x := s.queue q
  let js := s.jobs.filter (fun j => j.q = q)
  match x.st with
  | .draining => if js.isEmpty && x.recovered.isEmpty then s.setQState q .disabled else s
  | .withdrawing =>
    if js.all (fun j => j.st = .parked || j.st = .suspended || j.st = .finished) && x.recovered.isEmpty then
      (s.modQueue q (fun y => { y with parkedEntry := some (y.entry, y.accepted) })).setQState q .withdrawn
    else s
  | _ => s

/-- The completions of a queue, and what follows from them. -/
def State.writeCompletions (s : State) (q : Nat) : State :=
  ((State.writeCompletionsAux q s.jobs.length s).noteStalls (s.queue q).entry.homeDie).settleQueue q

/-- What waited for a die's egress or lease is written: records, Queue Table fields, completions. -/
def State.flushDie (s : State) (d : Nat) : State :=
  let s := State.flushRecords d ((s.die d).ldg.held.length) s
  s.queues.foldl (fun s e => if e.2.entry.homeDie = d then (s.putEntry e.1).writeCompletions e.1 else s) s

/-- A job finished and its queue's completions written. -/
def State.complete (s : State) (q n : Nat) (o : CplFields) : State := (s.finishJob q n o).writeCompletions q

/-- A job's advisory flag set. -/
def State.advise (s : State) (q n b : Nat) : State := s.modJob q n (fun j => j.advise b)

/-! ### CANCEL of a running RUN (R525) -/

/-- An operation of a job is the current one of an engine. -/
def State.opUnderWay (s : State) (q n : Nat) : Bool :=
  s.dies.any (fun x => x.slots.any (fun e => match e.2.cur with | some r => r.q = q && r.s = n | none => false))

/-- The HOST tensors that a job has written. -/
def RunData.written (r : RunData) (p : Plan) : List Nat :=
  let ran (st : Nat) (rec : StageRec) : List OpRec :=
    let sr := r.stage st
    if sr.st = .done || decide (0 < sr.iter) then rec.ops
    else rec.ops.zipIdx.filterMap (fun e => if sr.insts.any (fun i => i.ran.contains e.2) then some e.1 else none)
  ((p.stages.zipIdx.flatMap (fun e => (ran e.2 e.1).flatMap OpRec.outputs)).eraseDups).filter (fun x =>
    (p.tensors[x]?.map (·.sp)) = some Space.host)

/-- R525: the outputs that a cancelled job has written are undefined. -/
def State.undefOutputs (s : State) (j : Job) : State :=
  match j.run, s.planOf j with
  | some r, some p =>
    (r.written p).foldl (fun s x =>
      match p.tensors[x]? with
      | some t =>
        let (a, n) := r.hostRange t
        let (k, s) := s.fresh
        s.jobWrite j.q j.s a (tabulate n (Config.undefinedByte k))
      | none => s) s
  | _, _ => s

/-- R525: a RUN ends under a CANCEL, which completes. -/
def State.endCancelled (s : State) (j : Job) (cq cn : Nat) : State :=
  (((s.undefOutputs j).modJob j.q j.s (fun j => { j with cancelBy := none })).complete j.q j.s outCancelled).complete cq cn outDone

/-- R446, R525: a RUN under CANCEL ends once no operation of it is under way, and the CANCEL completes. -/
def State.settleCancel (s : State) (q n : Nat) : State :=
  match s.job q n with
  | none => s
  | some j =>
    match j.cancelBy with
    | none => s
    | some (cq, cn) => if j.st = .finished || s.opUnderWay q n then s else s.endCancelled j cq cn

/-- R448, R482: a RUN ends at a stage boundary: under a CANCEL of the same GTC count the lower status code wins. -/
def State.endStage (s : State) (q n : Nat) (o : CplFields) : State :=
  match s.job q n with
  | none => s
  | some j =>
    match j.cancelBy with
    | some (cq, cn) => if 3 < o.status then s.endCancelled j cq cn else s.complete q n o
    | none => s.complete q n o

/-! ### Re-dispatch (R467, R468) -/

/-- A job that is dispatched again, as it was accepted: its waits run from its acceptance (R488), the flags that its bindings have set stay
set (R486), nothing else of its execution stays. -/
def Job.restart (j : Job) : Job :=
  { j with st := .waiting, flags := j.binds.foldl (fun m b => if bit j.flags b.flag then setBit m b.flag else m) 0, met := false,
           dispatched := false, phase := 0, run := none, numFlags := NumFlags.none, advisory := 0,
           outcome := none, suspending := false, parking := false, moved := false, inDigest := zeros 64,
           planDigest := zeros 64, weightsDigest := zeros 64, quote := [], owed := [] }

/-- R468: the owner ends a job and dispatches it again from its ring slot; no record is written. Its pins stay recorded (R464). A RUN under a
CANCEL has ended (R525). -/
def State.redispatch (s : State) (q n : Nat) : State :=
  match s.job q n with
  | none => s
  | some j =>
    if let some (cq, cn) := j.cancelBy then s.endCancelled j cq cn
    else if j.st = .running || (j.dispatched && j.st = .ready) then
      let s := ((s.noteIdle q n).leaveReady q n).releaseFlow q n
      ((s.modJob q n Job.restart).clearOps q n).settleClusters
    else s

/-- The jobs that have work on a cluster of a die: those with a region there or an instance running there. -/
def State.jobsOnCluster (s : State) (d c : Nat) : List (Nat × Nat) :=
  (s.jobs.filter (fun j => j.st = .running && j.regions.any (fun l => l.die = d && l.cl = c))).map (fun j => (j.q, j.s))

/-- The jobs that have work on a die. -/
def State.jobsOnDie (s : State) (d : Nat) : List (Nat × Nat) :=
  (s.jobs.filter (fun j => j.st = .running && j.regions.any (fun l => l.die = d))).map (fun j => (j.q, j.s))

/-- Several jobs re-dispatched. -/
def State.redispatchAll (s : State) (l : List (Nat × Nat)) : State := l.foldl (fun s j => s.redispatch j.1 j.2) s

end Sys2Proof.Machine
end

