-- ==== Sys2Proof/Machine/ErrorRing.lean ====
section
/-!
DEFINITION. The error ring and the supervisor's internal log as structures (R639 to R644): writing, holding and draining
records, and the ring's base.
-/
namespace Sys2Proof.Machine

/-- R732: an address with a granule: its lower bits and bits [63:57] are RSV. -/
def addrBits (granule v : Nat) : Nat := v % 2 ^ 57 / granule * granule

/-- R644: an error record as the ring and the sideband hold it. -/
def ErrRec.bytes (r : ErrRec) (seq : Nat) : List Byte :=
  natLE 4 seq ++ natLE 1 (r.class_ + 128 * bit01 r.injected) ++ natLE 1 r.die ++ natLE 2 r.code ++ natLE 6 r.gtc ++ natLE 2 r.queue ++
    natLE 4 r.serial ++ natLE 2 r.unit ++ natLE 2 r.dseq ++ natLE 8 r.detail

/-- R640, R642: a record can be written now: the ring is enabled and not full, and the supervisor reaches a host port through fabric
egress. -/
def State.ringRoom (s : State) : Bool :=
  s.sup.errBase ≠ 0 && decide ((s.sup.errProduced + 2 ^ 32 - s.sup.errConsumed) % 2 ^ 32 < 2 ^ s.sup.errLog2) &&
    (match s.sup.die with | some k => s.mayWrite k && s.arbOpen [atEgress k 4] | none => false)

/-- R640: a record written to the ring, bytes 0x04 to 0x1F first, then `seq`; the error vector is signalled. -/
def State.putRing (s : State) (r : ErrRec) : State :=
  let n := s.sup.errProduced
  let k := s.sup.die.getD 0
  let a := s.sup.errBase + 32 * (n % 2 ^ s.sup.errLog2)
  let b := r.bytes n
  let s := (s.writeHost (a + 4) (b.drop 4)).writeHost a (b.take 4)
  let s : State := { s with sup := { s.sup with errProduced := (n + 1) % 2 ^ 32 } }
  let s := (s.modDie k (fun x => { x with ldg := { x.ldg with unstable := x.ldg.unstable ++ [(.error r.die r.dseq, a, b)] } })).granted [atEgress k 4]
  match s.portOf k with
  | some p => s.vectorEvent p s.regs.errVector
  | none => s

/-- The held records written as far as the ring takes them. -/
def State.drainLogAux : Nat → State → State
  | 0, s => s
  | k + 1, s =>
    match s.sup.log with
    | [] => s
    | r :: rest => if s.ringRoom then State.drainLogAux k (({ s with sup := { s.sup with log := rest } } : State).putRing r) else s

/-- The held records written as far as the ring takes them, oldest first (R640, R642). -/
def State.drainLog (s : State) : State := State.drainLogAux s.sup.log.length s

/-- A record displaced or discarded (R642). -/
def State.dropError (s : State) (r : ErrRec) : State :=
  ({ s with sup := { s.sup with errDropped := Min.min (s.sup.errDropped + 1) (2 ^ 32 - 1) } } : State).ackError r.die r.dseq

/-- R642: a record held in the internal log of 1,024: in a full log it displaces the oldest of the lowest class present,
where that is at or below its own, or is discarded. -/
def State.holdError (s : State) (r : ErrRec) : State :=
  let l := s.sup.log
  if l.length < 1024 then { s with sup := { s.sup with log := l ++ [r] } }
  else
    let low := (l.map (·.class_)).foldl Min.min r.class_
    match l.find? (fun x => x.class_ = low) with
    | some x => (({ s with sup := { s.sup with log := (l.erase x) ++ [r] } } : State)).dropError x
    | none => s.dropError r

/-- HPT_ERR_BASE written (R639, R642): a non-zero base takes the held records, 0 disables the ring; another base is ignored
while the ring is enabled (R733). -/
def State.setRingBase (s : State) (v : Nat) : State :=
  if s.sup.errBase = 0 || v = 0 then ({ s with sup := { s.sup with errBase := addrBits 4096 v } } : State).drainLog else s

end Sys2Proof.Machine
end

