-- ==== Sys2Proof/Machine/Registers.lean ====
section
/-!
DEFINITION. Register accesses (R9 to R14, R386 to R391, R402, R729 to R740): what each offset of BAR0 reads, what a
write of a set-up register does, BAR2.
-/
namespace Sys2Proof.Machine

/-! ### Values (R736 to R739) -/

/-- A register as an access meets it: 32 or 64 bits wide, with the value it reads. -/
inductive RegView where
  | r32 (v : Nat)
  | r64 (v : Nat)
  deriving DecidableEq, Repr

/-- Bits laid at a position. -/
def at' (v pos : Nat) : Nat := v * 2 ^ pos

/-- The index of an array element at a stride, when the offset is the start of one. -/
def arrayIndex (o base stride count : Nat) : Option Nat :=
  if base ≤ o ∧ (o - base) % stride = 0 ∧ (o - base) / stride < count then some ((o - base) / stride) else none

/-- The codes of HPT_PORT_STATUS. -/
def PortState.code : PortState → Nat
  | .down => 0 | .training => 1 | .inService => 2 | .failed => 3

/-- HPT_PORT_STATUS (R737) of one port, at bit 0. -/
def Port.statusBits (p : Port) : Nat := p.st.code + at' (bit01 p.x32) 2 + at' (bit01 p.cache) 3 + at' p.rate 4

/-- SEC_STATUS (R665). -/
def State.secStatus (s : State) : Nat :=
  s.sec.result + at' s.lifecycle 9 + at' (bit01 s.sec.tamper) 12 + at' (bit01 s.sec.glitch) 13 +
    at' (bit01 (s.healthyDies.all (fun d => (s.die d).keyReady) && !s.healthyDies.isEmpty)) 14

/-- The package-common register at an offset of its window, but for arrays (R736). -/
def State.pkgScalar (s : State) (o : Nat) : Option RegView :=
  let r := s.regs
  if o = 0x00000 then some (.r32 (bit01 s.boot.fwReady + 2 * bit01 s.boot.memReady + 4 * bit01 r.lostWin + 8 * bit01 r.bar2Refused))
  else if o = 0x00008 then some (.r32 ((s.port 0).statusBits + at' (s.port 1).statusBits 8))
  else if o = 0x0000C then some (.r32 0)
  else if o = 0x00010 then some (.r32 (bit01 (s.port 0).coherent + 2 * bit01 (s.port 1).coherent))
  else if o = 0x00014 then some (.r32 r.maxRate)
  else if o = 0x00018 then some (.r32 r.cplTimeout)
  else if o = 0x0001C then some (.r32 r.retrainLimit)
  else if o = 0x00020 then some (.r32 r.pollInterval)
  else if o = 0x00024 then some (.r32 r.dbSweep)
  else if o = 0x00028 then some (.r32 r.errVector)
  else if o = 0x0002C then some (.r32 r.bar2Die)
  else if o = 0x00030 then some (.r32 r.hbValue)
  else if o = 0x00034 then some (.r32 r.hbTimeout)
  else if o = 0x00040 then some (.r64 s.sup.errBase)
  else if o = 0x00048 then some (.r32 s.sup.errLog2)
  else if o = 0x0004C then some (.r32 s.sup.errConsumed)
  else if o = 0x00050 then some (.r32 s.sup.errProduced)
  else if o = 0x00054 then some (.r32 s.sup.errDropped)
  else if o = 0x20000 then some (.r64 s.sec.bootAddr)
  else if o = 0x20008 then some (.r32 s.sec.bootSize)
  else if o = 0x2000C then some (.r32 0)
  else if o = 0x20010 then some (.r32 s.sec.bootStatus)
  else if o = 0x20020 then some (.r32 s.sec.cmd)
  else if o = 0x20024 then some (.r32 s.secStatus)
  else if o = 0x20028 then some (.r64 s.sec.cmdAddr)
  else if o = 0x30000 then some (.r64 r.qtbBase)
  else if o = 0x30008 then some (.r64 r.qtbDbBase)
  else if o = 0x30010 then some (.r32 r.qtbCmd)
  else if o = 0x30014 then some (.r32 (r.qtbResult + at' (bit01 r.qtbBusy.isSome) 8))
  else if o = 0x30018 then some (.r32 r.backlogTime)
  else if o = 0x40000 then some (.r32 0)
  else if o = 0x40004 then some (.r32 (bit01 r.ldgReady))
  else if o = 0x40008 then some (.r32 r.segSize)
  else if o = 0x50000 then some (.r32 r.groupCmd)
  else if o = 0x50004 then some (.r32 (r.groupEnabled + at' r.groupResult 16 + at' (bit01 r.groupBusy.isSome) 24))
  else if o = 0x50008 then some (.r32 r.bugleLead)
  else if o = 0x5000C then some (.r32 r.suspectWindow)
  else if o = 0x50010 then some (.r32 r.disWindow)
  else if o = 0x50018 then some (.r64 r.frameCount)
  else if o = 0x60000 then some (.r32 r.rcdDest)
  else if o = 0x60004 then some (.r32 (bit01 r.rcdWrap))
  else if o = 0x60008 then some (.r64 r.rcdHostBase)
  else if o = 0x60010 then some (.r32 r.rcdHostSize)
  else if o = 0x60014 then some (.r32 r.rcdEventMask)
  else if o = 0x60018 then some (.r32 r.rpRate)
  else if o = 0x6001C then some (.r32 r.rpLat)
  else if o = 0x60020 then some (.r32 (bit01 r.rpReady + 2 * bit01 r.rpError))
  else if o = 0x70000 then some (.r32 r.worldSize)
  else if o = 0x70004 then some (.r32 r.jobPool)
  else if o = 0x70008 then some (.r32 r.traceSize)
  else if o = 0x7000C then some (.r32 r.warmCount)
  else if o = 0x70010 then some (.r32 r.warmSlot)
  else if o = 0x70018 then some (.r32 r.corrDepth)
  else if o = 0x7001C then some (.r32 r.scrubPeriod)
  else if o = 0x70020 then some (.r32 (bit01 r.divLocked + 2 * bit01 r.divInvalid))
  else if o = 0x71000 then some (.r32 r.coarseRes)
  else if o = 0x80000 then some (.r32 (bit01 r.tnkEnable))
  else if o = 0x80004 then some (.r32 (bit01 r.tnkOverdue))
  else if o = 0x80008 then some (.r32 (bit01 r.tnkInitDone))
  else if o = 0x90000 then some (.r64 (s.gtc (s.healthyDies.headD 0)))
  else if o = 0x90008 then some (.r64 s.pps.value)
  else if o = 0x90010 then some (.r64 s.pps.latched)
  else if o = 0x90018 then some (.r32 s.pps.window)
  else if o = 0x9001C then some (.r32 (bit01 s.pps.arm))
  else if o = 0x90020 then some (.r32 (bit01 s.pps.busy + 2 * bit01 s.pps.lost))
  else if o = 0xA0000 then some (.r32 r.pwrCap)
  else if o = 0xA0004 then some (.r32 r.retIdle)
  else if o = 0xA0008 then some (.r32 r.offIdle)
  else if o = 0xB0000 then some (.r32 r.rstCmd)
  else if o = 0xB0004 then some (.r32 (r.rstResult + at' (bit01 r.rstBusy) 8))
  else none

/-- The package-common register at an offset of its window (R731, R736). -/
def State.pkgReg (s : State) (o : Nat) : Option RegView :=
  let r := s.regs
  match s.pkgScalar o with
  | some v => some v
  | none =>
    match arrayIndex o 0x10000 8 2048 with
    | some v => some (.r64 (r.vecMod.getD v 1))
    | none =>
    match arrayIndex o 0x40040 8 8 with
    | some d => some (.r64 (r.segBase.getD d 0))
    | none =>
    match arrayIndex o 0x50044 4 15 with
    | some g => some (.r32 (r.weight.getD (g + 1) 1))
    | none =>
    match arrayIndex o 0x50100 0x20 8 with
    | some i => some (.r64 (r.rsv.getD i ⟨0, 0, 0, 0⟩).start)
    | none =>
    match arrayIndex o 0x50108 0x20 8 with
    | some i => some (.r32 (r.rsv.getD i ⟨0, 0, 0, 0⟩).period)
    | none =>
    match arrayIndex o 0x5010C 0x20 8 with
    | some i => some (.r32 (r.rsv.getD i ⟨0, 0, 0, 0⟩).len)
    | none =>
    match arrayIndex o 0x50110 0x20 8 with
    | some i => some (.r32 (r.rsv.getD i ⟨0, 0, 0, 0⟩).units)
    | none =>
    match arrayIndex o 0x60040 8 8 with
    | some d => some (.r64 (if d < s.n then (s.die d).trace.wrIndex else 0))
    | none =>
    match arrayIndex o 0x80040 4 5 with
    | some k => some (.r32 (r.tnkInterval.getD k 0))
    | none =>
    match arrayIndex o 0xA0040 4 8 with
    | some d => some (.r32 (if d < s.n then (s.die d).power.est else 0))
    | none =>
    match arrayIndex o 0xA1000 4 8 with
    | some d => some (.r32 (if d < s.n then (s.die d).power.temp else 0))
    | none => none

/-- RST_SPARE_STATE (R632). -/
def Die.spareState (x : Die) : Nat :=
  let sp := x.spares
  sp.clMap + at' sp.gquFail 4 +
    (List.range 5).foldl (fun a c =>
      a + at' (Min.min (sp.banks.getD c []).length 2 + 4 * bit01 (!(sp.divs.getD c []).isEmpty)) (16 + 4 * c) +
        at' (Min.min (sp.columns.getD c []).length 8) (36 + 4 * c)) 0 + at' (bit01 sp.qctx) 56

/-- PWR_DIE_STATUS (R680). -/
def Die.powerStatus (x : Die) : Nat :=
  let p := x.power
  p.state + at' (bit01 p.change.isSome) 2 +
    (List.range 5).foldl (fun a c => a + at' (bit01 ((x.clusters.getD c Cluster.reset).off)) (3 + c)) 0 +
    at' p.result 8 + at' (bit01 p.thermalStop) 16

/-- INJ_CTL of a slot (R650). -/
def InjSlot.ctl (i : InjSlot) : Nat :=
  i.target + at' i.op 4 + at' i.count 8 + at' (bit01 i.arm) 16 + at' (bit01 i.atGtc) 17 + at' (bit01 i.charge) 18

/-- The registers of an arbiter instance (R739) at a time. `ARB_DRAINED`: frozen, with no access outstanding; commands are whole,
so none is but a locked sequence (log entry 14). -/
def Die.arbReg (x : Die) (now n o : Nat) : Option RegView :=
  let a := x.arb n
  if o = 0 then some (.r32 (bit01 a.freeze))
  else if o = 4 then some (.r32 (bit01 (a.frozen && a.lock.isNone) + 2 * bit01 a.mgrFreeze + 4 * bit01 a.lock.isSome + at' a.orphans 16))
  else if o = 8 then some (.r32 (if n < 32 ∨ n = 69 then a.ageLimit else 0))
  else if o = 0xC then some (.r32 (if n < 64 ∨ n = 74 then a.lockMax else 0))
  else match arrayIndex o 0x100 0x20 (requesters n) with
    | some r => some (.r64 (a.counted n r now).1)
    | none =>
    match arrayIndex o 0x108 0x20 (requesters n) with
    | some r => some (.r64 (a.counted n r now).2.1)
    | none =>
    match arrayIndex o 0x110 0x20 (requesters n) with
    | some r => some (.r32 (a.counted n r now).2.2)
    | none => none

/-- The register of a die window at an offset (R738) at a time. -/
def Die.reg (x : Die) (now o : Nat) : Option RegView :=
  if o = 0x10000 then some (.r32 x.power.ctl)
  else if o = 0x10004 then some (.r32 x.powerStatus)
  else if o = 0x20000 then some (.r64 x.spareState)
  else if 0x100000 ≤ o ∧ o < 0x100000 + 75 * 0x1000 then x.arbReg now ((o - 0x100000) / 0x1000) ((o - 0x100000) % 0x1000)
  else if o = 0x40000 then
    some (.r32 (bit01 x.injUnlocked + 2 * bit01 x.injRefused +
      (List.range 8).foldl (fun a i => a + at' (bit01 (x.inj.getD i InjSlot.reset).arm) (2 + i)) 0))
  else match arrayIndex o 0x30000 8 4 with
    | some p => some (.r64 (x.parts.getD p Partition.reset).gapMax)
    | none =>
    match arrayIndex o 0x40100 0x20 8 with
    | some i => some (.r32 (x.inj.getD i InjSlot.reset).ctl)
    | none =>
    match arrayIndex o 0x40108 0x20 8 with
    | some i => some (.r64 (x.inj.getD i InjSlot.reset).where_)
    | none =>
    match arrayIndex o 0x40110 0x20 8 with
    | some i => some (.r64 (x.inj.getD i InjSlot.reset).mask)
    | none =>
    match arrayIndex o 0x40118 0x20 8 with
    | some i => some (.r64 (x.inj.getD i InjSlot.reset).at_)
    | none => none

/-- A 32-bit word of the MSI-X table or the pending-bit array (R385, R399). -/
def Msix.word (m : Msix) (o : Nat) : Nat :=
  if o < 0x8000 then
    let (a, d, k) := m.table.getD (o / 16) (0, 0, true)
    if o % 16 = 0 then a % 2 ^ 32 else if o % 16 = 4 then a / 2 ^ 32 else if o % 16 = 8 then d else bit01 k
  else if o < 0x8100 then
    ((m.pending.filter (fun v => v / 32 = (o - 0x8000) / 4)).foldl (fun a v => a + 2 ^ (v % 32)) 0)
  else 0

/-! ### Reads (R13, R14, R386, R388, R389, R730) -/

/-- The state with every register at its reset value (R389). -/
def State.asReset (s : State) : State :=
  { s with regs := Regs.reset s.ident, dies := s.dies.map (fun x => { Die.reset x.fuse with lost := x.lost, spares := x.spares }),
           sup := Supervisor.reset, pps := Pps.reset, sec := { Security.reset with debug := s.sec.debug }, msix := ⟨[], [], false⟩ }

/-- The 32-bit half of a register at an offset and the whole 64-bit value when it is the lower half of a wide one. -/
def RegView.half (v : RegView) (upper : Bool) : Nat × Option Nat :=
  match v, upper with
  | .r32 w, _ => (w % 2 ^ 32, none)
  | .r64 w, false => (w % 2 ^ 32, some w)
  | .r64 w, true => (w / 2 ^ 32, none)

/-- The register that covers an aligned 4-byte offset through a lookup: itself, or the upper half of the one below. -/
def findReg (look : Nat → Option RegView) (o : Nat) : Option (RegView × Bool) :=
  match look o with
  | some v => some (v, false)
  | none =>
    if 4 ≤ o then
      match look (o - 4) with
      | some (.r64 v) => some (.r64 v, true)
      | _ => none
    else none

/-- Whether an offset belongs to the `HPT_` registers or the boot mailbox, which answer before FW_READY (R389). -/
def earlyOffset (off : Nat) : Bool :=
  decide (0x08000000 ≤ off ∧ off < 0x08018000) || decide (0x08020000 ≤ off ∧ off < 0x08020020)

/-- What a 32-bit read of BAR0 finds: the half, and a whole value to capture. -/
def State.readWord (s : State) (off : Nat) : Nat × Option Nat :=
  if off < 0x08000000 then
    let d := off / 0x1000000
    if s.n ≤ d then (0, none)
    else match findReg ((s.die d).reg s.now) (off % 0x1000000) with
      | some (v, up) => v.half up
      | none => (0, none)
  else if off < 0x09000000 then
    match findReg s.pkgReg (off - 0x08000000) with
    | some (v, up) => v.half up
    | none => (0, none)
  else (s.msix.word (off - 0x09000000), none)

/-- Where the accesses of this model reach the configuration space: the dword of the MSI-X capability, above BAR0's
offsets (PRESUMED: its layout is PCI Express's; log entry 9). -/
def msixControl : Nat := 0x10000000

/-- Captures and staged halves are kept per port and offset. -/
def halfKey (p off : Nat) : Nat := p * 2 ^ 28 + off

/-- A 32-bit register read on a port (R13). The spec does not say how long a captured half lasts: the model gives it to one
upper-half read, and later ones read the live value (DESIGN CHOICE, log entry 74). -/
def State.regRead (s : State) (p off : Nat) : State :=
  let lostDie := decide (off < 0x08000000) && decide (off / 0x1000000 < s.n) && (s.die (off / 0x1000000)).lost
  if lostDie then (s.modRegs (fun r => { r with lostWin := true, readData := natLE 4 0xFFFFFFFF })).raised 0
  else
    let view := if s.boot.fwReady || earlyOffset off then s else s.asReset
    let (v, whole) := view.readWord off
    match whole with
    | some w => s.modRegs (fun r => { r with readData := natLE 4 v, captured := r.captured.insert (halfKey p (off + 4)) (w / 2 ^ 32) })
    | none =>
      match s.regs.captured.get (halfKey p off) with
      | some c => s.modRegs (fun r => { r with readData := natLE 4 c, captured := r.captured.erase (halfKey p off) })
      | none => s.modRegs (fun r => { r with readData := natLE 4 v })

/-- A read of 64 bits (R12): of a 64-bit register at its own width, or of two words of the MSI-X structures; one of anything
else is no access of a register's width and is discarded (log entry 12). -/
def State.regRead64 (s : State) (off : Nat) : State :=
  if decide (off < 0x08000000) && decide (off / 0x1000000 < s.n) && (s.die (off / 0x1000000)).lost then
    (s.modRegs (fun r => { r with lostWin := true, readData := natLE 8 (2 ^ 64 - 1) })).raised 0
  else
    let view := if s.boot.fwReady || earlyOffset off then s else s.asReset
    if 0x09000000 ≤ off then s.modRegs (fun r => { r with readData := natLE 4 (view.readWord off).1 ++ natLE 4 (view.readWord (off + 4)).1 })
    else match (view.readWord off).2 with
      | some w => s.modRegs (fun r => { r with readData := natLE 8 w })
      | none => if decide (off < 0x08000000) && decide (s.n ≤ off / 0x1000000) then s.modRegs (fun r => { r with readData := zeros 8 }) else s

/-- R386: a register access on port `p` to die `d` travels over Umlin in class MGMT; one that an arbiter on its way holds waits there. -/
def State.toWindow (s : State) (p d : Nat) (f : State → State) : State :=
  if s.arbOpen (s.overUmlin p d 2 d) then f (s.granted (s.overUmlin p d 2 d)) else s.queued (s.overUmlin p d 2 d)

/-- An access at a BAR0 offset: one to the window of a die that is there travels to it; any other is answered where it arrives (R14, R388). -/
def State.atOffset (s : State) (p off : Nat) (f : State → State) : State :=
  if decide (off < 0x08000000) && decide (off / 0x1000000 < s.n) && !(s.die (off / 0x1000000)).lost then s.toWindow p (off / 0x1000000) f else f s

/-- LOWER_HALF_READ (R12, R13, R382): a read of a register, or of the configuration dword of MSI-X. One of 32 bits of the lower half of a wide register captures the upper half
for the read that follows; a 64-bit one gives the whole value. -/
def execLowerHalfRead (p off : Nat) (s : State) (width : Nat := 4) : Host.Outcome State Fault Refusal :=
  if s.portUp p && off = msixControl && width = 4 then
    .next (s.modRegs (fun r => { r with readData := natLE 4 (0x11 + at' 2047 16 + at' (bit01 s.msix.funcMask) 30) }))
  else if s.portUp p && (width = 4 || width = 8) && off % width = 0 && decide (off < 0x10000000) then
    .next (s.atOffset p off (fun s => if width = 8 then s.regRead64 off else s.regRead p off))
  else s.idle

/-! ### Writes of set-up registers (R729, R732, R733) -/

/-- A value clamped to its limits. -/
def clamp (lo hi v : Nat) : Nat := Max.max lo (Min.min hi v)

/-- R732: a value with 0 as a special setting below its lower limit: between them it is clamped to the lower limit. -/
def clampZero (lo hi v : Nat) : Nat := if v = 0 then 0 else clamp lo hi v

/-- Whether queues are all DISABLED (R733). -/
def State.queuesDisabled (s : State) : Bool := s.queues.all (fun e => e.2.st = .disabled)

/-- R569: a declared window is open at a GTC count. -/
def Window.openAt (w : Window) (g : Nat) : Bool :=
  decide (0 < w.len ∧ w.start ≤ g) &&
    (if w.period = 0 then decide (g < w.start + w.len) else decide ((g - w.start) % w.period < w.len))

/-- A window that is disabled. -/
def Window.off : Window := ⟨0, 0, 0, 0⟩

/-- R570: at a GTC count later than that of the write, at which the window is not open, values written to window `i` take effect. -/
def Regs.windowDue (r : Regs) (g i : Nat) : Bool :=
  (r.rsvHeld.getD i none).isSome && decide (r.rsvAt.getD i 0 < g) && !(r.rsv.getD i Window.off).openAt g

/-- The values written to window `i` take effect where they are due. -/
def Regs.settleWindow (r : Regs) (g i : Nat) : Regs :=
  if r.windowDue g i then { r with rsv := r.rsv.set i ((r.rsvHeld.getD i none).getD Window.off), rsvHeld := r.rsvHeld.set i none } else r

/-- R570: a value written to window `i` waits for the first GTC count after the write at which the window is not open. -/
def State.writeWindow (s : State) (i : Nat) (f : Window → Window) : State :=
  let g := s.gtc (s.healthyDies.headD 0)
  s.modRegs (fun r => let r := r.settleWindow g i
    { r with rsvHeld := r.rsvHeld.set i (some (f ((r.rsvHeld.getD i none).getD (r.rsv.getD i Window.off)))), rsvAt := r.rsvAt.set i g })

/-- A write of a package-common register that has no behaviour of its own: `v` is the whole value of the register. -/
def State.writePkgScalar (s : State) (o v : Nat) : Option State :=
  let m (f : Regs → Regs) : Option State := some (s.modRegs f)
  if o = 0x00000 then
    m (fun r => { r with lostWin := r.lostWin && (!bit v 2 || s.raisedNow 0), bar2Refused := r.bar2Refused && (!bit v 3 || s.raisedNow 1) })
  else if o = 0x00014 then m (fun r => { r with maxRate := clamp 0 5 (v % 8) })
  else if o = 0x00018 then m (fun r => { r with cplTimeout := clamp 1 16000 v })
  else if o = 0x0001C then m (fun r => { r with retrainLimit := clamp 10 100000 v })
  else if o = 0x00020 then m (fun r => { r with pollInterval := clamp 1 10000 v })
  else if o = 0x00024 then m (fun r => { r with dbSweep := clamp 0 1000 v })
  else if o = 0x00028 then m (fun r => { r with errVector := v % 2048 })
  else if o = 0x0002C then m (fun r => { r with bar2Die := v % 8 })
  else if o = 0x00040 then some (s.setRingBase v)
  else if o = 0x00048 then
    some (if s.sup.errBase = 0 then { s with sup := { s.sup with errLog2 := clamp 6 20 v } } else s)
  else if o = 0x20000 then some { s with sec := { s.sec with bootAddr := addrBits 64 v } }
  else if o = 0x20008 then some { s with sec := { s.sec with bootSize := v } }
  else if o = 0x20028 then some { s with sec := { s.sec with cmdAddr := addrBits 64 v } }
  else if o = 0x30000 then some (if s.queuesDisabled then s.modRegs (fun r => { r with qtbBase := addrBits 4096 v }) else s)
  else if o = 0x30008 then some (if s.queuesDisabled then s.modRegs (fun r => { r with qtbDbBase := addrBits 4096 v }) else s)
  else if o = 0x30018 then m (fun r => { r with backlogTime := clamp 1 1000000 v })
  else if o = 0x40008 then some (if s.regs.ldgStarted then s else s.modRegs (fun r => { r with segSize := clamp 20 26 v }))
  else if o = 0x50008 then m (fun r => { r with bugleLead := clamp 32 4096 v })
  else if o = 0x5000C then m (fun r => { r with suspectWindow := clamp 1 (2 ^ 32 - 1) v })
  else if o = 0x50010 then m (fun r => { r with disWindow := clamp 1 (2 ^ 32 - 1) v })
  else if o = 0x60000 then m (fun r => { r with rcdDest := v % 4 })
  else if o = 0x60004 then m (fun r => { r with rcdWrap := bit v 0 })
  else if o = 0x60008 then some (if s.regs.rcdDest = 0 then s.modRegs (fun r => { r with rcdHostBase := addrBits 4096 v }) else s)
  else if o = 0x60010 then some (if s.regs.rcdDest = 0 then s.modRegs (fun r => { r with rcdHostSize := clamp 16 30 v }) else s)
  else if o = 0x60014 then m (fun r => { r with rcdEventMask := v / 2 * 2 })
  else if o = 0x60018 then m (fun r => { r with rpRate := v % 2 })
  else if o = 0x6001C then m (fun r => { r with rpLat := clamp 3 7 v })
  else if o = 0x60020 then m (fun r => { r with rpError := r.rpError && (!bit v 1 || s.raisedNow 5) })
  else if o = 0x70018 then m (fun r => { r with corrDepth := clamp 1 2 (v % 4) })
  else if o = 0x7001C then m (fun r => { r with scrubPeriod := clamp 1 720 v })
  else if o = 0x70020 then m (fun r => { r with divLocked := r.divLocked && (!bit v 0 || s.raisedNow 2), divInvalid := r.divInvalid && (!bit v 1 || s.raisedNow 3) })
  else if o = 0x80000 then m (fun r => { r with tnkEnable := bit v 0 })
  else if o = 0x80004 then m (fun r => { r with tnkOverdue := bit v 0 })
  else if o = 0x90008 then some { s with pps := { s.pps with value := v } }
  else if o = 0x90018 then some { s with pps := { s.pps with window := clamp 0 3200000 v } }
  else if o = 0x90020 then some { s with pps := { s.pps with busy := s.pps.busy && (!bit v 0 || s.raisedNow 4) } }
  else if o = 0xA0000 then m (fun r => { r with pwrCap := clamp (60 * s.n) (capReset { s.ident with gradeM := false }) v })
  else if o = 0xA0004 then m (fun r => { r with retIdle := clamp 1 1000000 v })
  else if o = 0xA0008 then m (fun r => { r with offIdle := clamp 1 1000000 v })
  else if o = 0x20020 then some (if bit v 31 then s else { s with sec := { s.sec with cmd := v % 256 } })
  else if o = 0x30010 then m (fun r => if bit v 31 then r else { r with qtbCmd := v % 16384 + at' (bitsOf v 17 16) 16 + at' (bitsOf v 22 20) 20 })
  else if o = 0x50000 then m (fun r => if bit v 31 then r else { r with groupCmd := v % 16 + at' (bitsOf v 9 8) 8 })
  else if o = 0x9001C then some (if bit v 0 then s else { s with pps := { s.pps with arm := false } })
  else if o = 0xB0000 then
    some (if bit v 31 then s else { s.modRegs (fun r => { r with rstCmd := v % 2 ^ 22 }) with boot := { s.boot with warmArm := none } })
  else none

/-- A write of a package-common register. A register whose write is a command of its own, an RO register and an
unlisted offset are left as they are. -/
def State.writePkg (s : State) (o v : Nat) : State :=
  match s.writePkgScalar o v with
  | some t => t
  | none =>
    match arrayIndex o 0x10000 8 2048 with
    | some i => s.modRegs (fun r => { r with vecMod := r.vecMod.insert i (bitsOf v 15 0 + at' (bitsOf v 47 32) 32) })
    | none =>
    match arrayIndex o 0x40040 8 8 with
    | some d => if s.regs.ldgStarted then s else s.modRegs (fun r => { r with segBase := r.segBase.set d (addrBits 4096 v) })
    | none =>
    match arrayIndex o 0x50044 4 15 with
    | some g => s.modRegs (fun r => { r with weight := r.weight.set (g + 1) (clamp 1 255 v) })
    | none =>
    match arrayIndex o 0x50100 0x20 8 with
    | some i => s.writeWindow i (fun w => { w with start := v })
    | none =>
    match arrayIndex o 0x50108 0x20 8 with
    | some i => s.writeWindow i (fun w => { w with period := clampZero 320 (2 ^ 32 - 1) v })
    | none =>
    match arrayIndex o 0x5010C 0x20 8 with
    | some i => s.writeWindow i (fun w => { w with len := v })
    | none =>
    match arrayIndex o 0x50110 0x20 8 with
    | some i => s.writeWindow i (fun w => { w with units := bitsOf v 7 0 + at' (bitsOf v 23 16) 16 })
    | none =>
    match arrayIndex o 0x60040 8 8 with
    | some d => if v = 0 then s.modDie d (fun x => { x with trace := { x.trace with wrIndex := 0 } }) else s
    | none =>
    match arrayIndex o 0x80040 4 5 with
    | some k => s.modRegs (fun r => { r with tnkInterval := r.tnkInterval.set k (clamp 320000 3200000000 v) })
    | none => s

/-- Whether injection is available (R648). -/
def State.injAvailable (s : State) (d : Nat) : Bool :=
  match s.lifecycle with
  | 0 => true | 1 => true | 3 => true | 4 => true
  | 2 => (s.die d).injUnlocked
  | _ => false

/-- R511, R734: SCH_GAP_MAX cleared: a gap found in this CCLK period counts. -/
def State.clearGap (s : State) (d p : Nat) : State :=
  s.modPart d p (fun y => { y with gapMax := if y.gapSeen.1 = s.now then y.gapSeen.2 else 0 })

/-- A write of a die-window register with no behaviour of its own. -/
def State.writeDieReg (s : State) (d o v : Nat) : State :=
  let inj (f : InjSlot → InjSlot) (i : Nat) : State :=
    if s.injAvailable d then s.modDie d (fun x => { x with inj := x.inj.modify i f }) else s
  if 0x100000 ≤ o ∧ o < 0x100000 + 75 * 0x1000 then
    let n := (o - 0x100000) / 0x1000
    let q := (o - 0x100000) % 0x1000
    let lim := clamp 1 65535 (v % 65536)
    if q = 8 ∧ (n < 32 ∨ n = 69) then
      s.modDie d (fun x => { x with arbs := x.arbs.insert n { x.arb n with ageLimit := lim } })
    else if q = 0xC ∧ (n < 64 ∨ n = 74) then
      s.modDie d (fun x => { x with arbs := x.arbs.insert n { x.arb n with lockMax := lim } })
    else s
  else if o = 0x10000 then
    (if bit v 31 then s else s.modDie d (fun x => { x with power := { x.power with ctl := v % 256 } }))
  else if o = 0x40000 then s.modDie d (fun x => { x with injRefused := x.injRefused && (!bit v 1 || s.raisedNow (8 + d)) })
  else match arrayIndex o 0x30000 8 4 with
    | some p => if bit v 63 then s.clearGap d p else s
    | none =>
    match arrayIndex o 0x40108 0x20 8 with
    | some i => inj (fun y => { y with where_ := v }) i
    | none =>
    match arrayIndex o 0x40110 0x20 8 with
    | some i => inj (fun y => { y with mask := v }) i
    | none =>
    match arrayIndex o 0x40118 0x20 8 with
    | some i => inj (fun y => { y with at_ := v }) i
    | none => s

/-- A write to the MSI-X table: a 32-bit word of an entry. Clearing a mask bit is VECTOR_UNMASK. -/
def Msix.writeWord (m : Msix) (o v : Nat) : Msix :=
  if o < 0x8000 then
    let e := o / 16
    let (a, d, k) := m.table.getD e (0, 0, true)
    let ent :=
      if o % 16 = 0 then (a / 2 ^ 32 * 2 ^ 32 + v, d, k) else if o % 16 = 4 then (a % 2 ^ 32 + v * 2 ^ 32, d, k)
      else if o % 16 = 8 then (a, v, k) else (a, d, k || bit v 0)
    { m with table := m.table.insert e ent }
  else m

/-- The whole value written to the register at an offset. -/
def State.commitWrite (s : State) (off v : Nat) : State :=
  if off < 0x08000000 then s.writeDieReg (off / 0x1000000) (off % 0x1000000) v
  else if off < 0x09000000 then s.writePkg (off - 0x08000000) v
  else { s with msix := (s.msix.writeWord (off - 0x09000000) (v % 2 ^ 32)) }

/-- The lookup of registers at an offset of BAR0. -/
def State.lookReg (s : State) (off : Nat) : Option RegView :=
  if off < 0x08000000 then (if off / 0x1000000 < s.n then (s.die (off / 0x1000000)).reg s.now (off % 0x1000000) else none)
  else if off < 0x09000000 then s.pkgReg (off - 0x08000000) else none

/-- A register in which every bit that is written takes the value written: none that is cleared by writing ones or zero. -/
def plainOffset (off : Nat) : Bool :=
  !(([0x08000000, 0x08060020, 0x08070020, 0x08090020] : List Nat).contains off) && (arrayIndex off 0x08060040 8 8).isNone &&
    !(decide (off < 0x08000000) && (off % 0x1000000 = 0x40000 || (arrayIndex (off % 0x1000000) 0x30000 8 4).isSome))

/-- R734: a write of H0 that meets one of H1 to the same register in the same CCLK period applied first: H1's value stands. -/
def State.overtaken (s : State) (p off : Nat) : Bool := decide (p = 0) && plainOffset off && s.regs.h1At.get off = some s.now

/-- A write of H1 is noted (R734). -/
def State.noteWrite (s : State) (p off : Nat) : State :=
  if p = 1 then s.modRegs (fun r => { r with h1At := r.h1At.insert off s.now }) else s

/-- The whole value that port `p` writes to the register at an offset (R734). -/
def State.commitFrom (s : State) (p off v : Nat) : State := if s.overtaken p off then s else (s.commitWrite off v).noteWrite p off

/-- R12, R13: an access of a register's own width, or the two 32-bit halves of a wide one, the lower first. The spec leaves two
cases open (DESIGN CHOICE, log entry 74): an upper half written with no staged lower half keeps the register's current lower
half; a staged lower half survives a 64-bit write of its register and is joined to a later upper half. -/
def State.regWrite (s : State) (p off width v : Nat) : State :=
  if 0x09000000 ≤ off then
    if width = 4 then s.commitFrom p off v
    else if width = 8 then (s.commitFrom p off (v % 2 ^ 32)).commitFrom p (off + 4) (v / 2 ^ 32)
    else s
  else match findReg s.lookReg off with
    | some (.r32 _, _) => if width = 4 then s.commitFrom p off (v % 2 ^ 32) else s
    | some (.r64 _, false) =>
      if width = 8 then s.commitFrom p off (v % 2 ^ 64)
      else if width = 4 then s.modRegs (fun r => { r with staged := r.staged.insert (halfKey p off) (v % 2 ^ 32) })
      else s
    | some (.r64 w, true) =>
      if width = 4 then
        let lo := (s.regs.staged.get (halfKey p (off - 4))).getD (w % 2 ^ 32)
        (s.modRegs (fun r => { r with staged := r.staged.erase (halfKey p (off - 4)) })).commitFrom p (off - 4)
          (lo + (v % 2 ^ 32) * 2 ^ 32)
      else s
    | none => s

/-- Unmasking: the vectors whose pending bit is set and which are now unmasked send one message each (R402). -/
def State.flushPending (s : State) : State :=
  s.msix.pending.foldl (fun s v =>
    if !s.msix.pending.contains v || (s.msix.table.getD v (0, 0, true)).2.2 || s.msix.funcMask then s
    else ({ s with msix := { s.msix with pending := s.msix.pending.filter (fun w => w ≠ v) } } : State).sendVector v) s

/-- A configuration request (R382) that writes the dword of the MSI-X capability: bit 30 is the function mask (R399); the
pending vectors that it unmasks send their messages (R402). -/
def State.configWrite (s : State) (v : Nat) : State := ({ s with msix := { s.msix with funcMask := bit v 30 } } : State).flushPending

/-- REGISTER_WRITE (R382, R729): a write of a register that has no behaviour of its own, or of the function's
configuration space. -/
def execRegisterWrite (p off width v : Nat) (s : State) : Host.Outcome State Fault Refusal :=
  if s.portUp p && off = msixControl && width = 4 then .next (s.configWrite v)
  else if s.portUp p && decide (off < 0x10000000) && (width = 4 || width = 8) && off % width = 0 then
    if decide (off < 0x08000000) && decide (off / 0x1000000 < s.n) && (s.die (off / 0x1000000)).lost then
      .next ((s.modRegs (fun r => { r with lostWin := true })).raised 0)
    else if s.boot.fwReady || earlyOffset off then .next (s.atOffset p off (fun s => s.regWrite p off width v))
    else s.idle
  else s.idle

/-! ### Registers with behaviour of their own -/

/-- A register command is taken on a port in service once firmware runs (R386, R389). -/
def State.takes (s : State) (p : Nat) : Bool := s.portUp p && s.boot.fwReady

/-- A command to a register of die `d`'s window: none where the part has no such die (R14); of a lost die it sets
LOST_WIN and does no more (R388); to another die it travels (R386). -/
def State.inWindow (s : State) (p d : Nat) (f : State → State) : State :=
  if s.takes p && decide (d < s.n) then
    if (s.die d).lost then (s.modRegs (fun r => { r with lostWin := true })).raised 0 else s.toWindow p d f
  else s

/-- Fabric egress grants again: the records, Queue Table fields, completions and error records that waited for it are written. -/
def State.egressOpens (s : State) : State := ((List.range s.n).foldl State.flushDie s).drainLog

/-- ARB_FREEZE (R374, R740): software's freeze bit of an instance. -/
def execArbFreeze (p d n : Nat) (on : Bool) (s : State) : Host.Outcome State Fault Refusal :=
  (s.inWindow p d (fun s => if n < 75 then
    let t := s.modArb d n (fun a => { a with freeze := on })
    if n = 69 && !on then t.egressOpens else t
  else s)).done

/-- ARB_CLEAR (R373, R734): every counter of an instance to zero, but for the grants of this CCLK period; waits in progress count from now. -/
def execArbClear (p d n : Nat) (s : State) : Host.Outcome State Fault Refusal :=
  .next (s.inWindow p d (fun s => if n < 75 then
    s.modDie d (fun x => { x with arbs := x.arbs.insert n { x.arb n with
      counters := (x.arb n).grantsAt s.now, waiting := (x.arb n).waiting.map (fun e => (e.1, s.now)) } }) else s))

/-- GAP_MAX_CLEAR (R511, R734). -/
def execGapMaxClear (p d k : Nat) (s : State) : Host.Outcome State Fault Refusal :=
  .next (s.inWindow p d (fun s => s.clearGap d k))

/-- TRACE_INDEX_RESET (R532): RCD_WR_INDEX of a die to zero. -/
def execTraceIndexReset (p d : Nat) (s : State) : Host.Outcome State Fault Refusal :=
  .next (s.inWindow p d (fun s => s.modDie d (fun x => { x with trace := { x.trace with wrIndex := 0 } })))

/-- R361: nothing loaded and no job holds job-pool space. -/
def State.divisionFree (s : State) : Bool :=
  s.plans.all (fun e => e.2.st = .free) && s.worlds.all (fun e => e.2.st = .empty) &&
    s.dies.all (fun x => x.warm.all (fun e => e.2.cur.isNone && e.2.prev.isNone)) &&
    s.jobs.all (fun j => j.poolAreas.isEmpty)

/-- HBM_DIVISION_WRITE (R360, R361): value `reg` of R360, in the order of its table. A write that changes the
coarse-level reservation does not change the four regions. -/
def execHbmDivisionWrite (p reg v : Nat) (s : State) : Host.Outcome State Fault Refusal :=
  if !s.takes p || decide (6 ≤ reg) then s.idle
  else if !s.divisionFree then .next ((s.modRegs (fun r => { r with divLocked := true })).raised 2)
  else
    let r := s.regs
    let t : Regs :=
      match reg with
      | 0 => { r with worldSize := clamp 0 720 v }
      | 1 => { r with jobPool := clamp 0 720 v }
      | 2 => { r with traceSize := clamp 0 720 v }
      | 3 => { r with warmCount := clamp 0 65536 v }
      | 4 => { r with warmSlot := clamp 1 16384 v }
      | _ => { r with coarseRes := clamp 0 32 v }
    if hbmUsable < t.planBase then .next ((s.modRegs (fun r => { r with divInvalid := true })).raised 3) else .next (s.modRegs (fun _ => t))

/-- VECTOR_UNMASK (R402): a vector's mask bit cleared, or with no vector the function mask. -/
def execVectorUnmask (p : Nat) (v : Option Nat) (s : State) : Host.Outcome State Fault Refusal :=
  if s.takes p then
    match v with
    | none => (({ s with msix := { s.msix with funcMask := false } } : State).flushPending).done
    | some v =>
      if v < 2048 then
        let (a, d, _) := s.msix.table.getD v (0, 0, true)
        (({ s with msix := { s.msix with table := s.msix.table.insert v (a, d, false) } } : State).flushPending).done
      else s.idle
  else s.idle

end Sys2Proof.Machine
end

