-- ==== Sys2Proof/Machine/Locks.lean ====
section
/-!
DEFINITION. Locked sequences of record applications, of the scrubber and of Vault key operations, and orphaned locks (R375 to R377).
-/
namespace Sys2Proof.Machine

/-! ### Owners -/

/-- A lock's owner below this is a GQU, which applies a record: 64 × world + GQU. -/
def worldOwners : Nat := 64 * 64
/-- The scrubber of a pseudo-channel, as the owner of a lock. -/
def scrubOwner : Nat := worldOwners + 62
/-- Requester `r` of the Vault port, as the owner of a lock. -/
def vaultOwner (r : Nat) : Nat := worldOwners + 48 + r

/-- The unit that an error record names for an owner (R645): the GQU; the pseudo-channel of a scrubber; the die of a Vault operation. -/
def ownerUnit (d n o : Nat) : Nat :=
  if o < worldOwners then unitCode 6 (o % 64) else if o = scrubOwner then unitCode 8 n else unitCode 15 d

/-! ### Sequences -/

/-- The records of an update (R232). -/
def WorldUpdate.records (u : WorldUpdate) : List DeltaRec :=
  match parseDelta (fun i => field u.header (4 + 2 * i) 2) u.delta with
  | .ok l => l
  | .error _ => []

/-- The pseudo-channel to which a record is homed (R219, R220). -/
def DeltaRec.home (r : DeltaRec) (w : Nat) : Nat :=
  if r.op = 5 then let (x, y, z) := r.l0Cell; l0Home w x y z else brickHome w (r.cell % 2 ^ 27)

/-- The World Store lines that a record's sequence reads: the probe window of its cell and the brick of the entry that is valid there; none
for a record that names an L0 cell. -/
def Lattice.recordLines (l : Lattice) (w v : Nat) (r : DeltaRec) : List Nat :=
  let key := r.cell % 2 ^ 27
  let k := r.home w
  if r.op = 5 then []
  else windowLine w k (bucketOf l.indexLog2 key) :: (match l.l1At key v with
    | some (_, e) => if e.state = 3 then [brickLine w k e.brick] else []
    | none => [])

/-- The line of the brick that a record has put into the pool. -/
def Lattice.brickPut (l : Lattice) (w v : Nat) (r : DeltaRec) : Option Nat :=
  let key := r.cell % 2 ^ 27
  match l.l1At key v with
  | some (_, e) => if r.op < 2 ∧ e.state = 3 then some (brickLine w (r.home w) e.brick) else none
  | none => none

/-- The World Store lines that a record's sequence reads or writes: its probe window, the brick that it replaces, the pool slot that it
fills. -/
def Lattice.sequenceLines (l : Lattice) (w v : Nat) (r : DeltaRec) : List Nat :=
  l.recordLines w v r ++ ((l.applyRecord PrepErr.none w v r).1.brickPut w v r).toList

/-- The two instances that a record's sequence locks: its pseudo-channel and port B of the slice there. -/
def lockPair (pc : Nat) : List Nat := [pc, 32 + pc]

/-- A locked sequence of GQU `g` for world `w` begins on a pseudo-channel and the port B of its slice, where neither is
frozen or locked; else the GQU waits at the one that is. -/
def State.lockPc (s : State) (d pc w g : Nat) : State :=
  let l := [atPc d pc 0, atPortB d pc 0]
  if s.arbOpen l then
    (lockPair pc).foldl (fun s n => s.modArb d n (fun a => { a with lock := some (64 * w + g, s.now) })) (s.granted l)
  else s.queued l

/-- The locks of a world on a die are released. -/
def State.unlockWorld (s : State) (d w : Nat) : State :=
  s.modDie d (fun x => { x with arbs := x.arbs.map (fun e =>
    (e.1, { e.2 with lock := match e.2.lock with
      | some (o, t) => if o / 64 = w then none else some (o, t)
      | none => none })) })

/-- A Vault key operation of requester `r`, one locked sequence of the Vault port (R375): it begins and holds its lock and its working
area (`held`), or it ends, with its effect. -/
def State.vaultOp (s : State) (d r : Nat) (held : Bool) (f : State → Host.Outcome State Fault Refusal) : Host.Outcome State Fault Refusal :=
  let mine : Bool := match ((s.die d).arb 74).lock with | some (o, _) => o = vaultOwner r | none => false
  let begun := fun (s : State) => (s.modArb d 74 (fun a => { a with lock := some (vaultOwner r, s.now) })).modDie d (fun x => { x with vaultWork := some s.free })
  let ended := fun (s : State) => (s.modArb d 74 (fun a => { a with lock := none })).modDie d (fun x => { x with vaultWork := none })
  if mine then (if held then .next s else f (ended s))
  else s.cross [atVault d r] (fun s => if held then .next (begun s) else f s)

/-- R669: a Vault key operation in progress ends, its working area zeroed. -/
def Die.endVault (x : Die) : Die :=
  { x with vaultWork := none, arbs := if (x.arb 74).lock.isSome then x.arbs.insert 74 { x.arb 74 with lock := none } else x.arbs }

/-! ### Orphaned locks (R376) -/

/-- The rollback of a record application: what its sequence may have written in the World Store is invalidated, and the die that prepared
has lost its lock (R377). A record not yet applied has left no trace in HBM and holds no pool slot. -/
def State.rollbackRecord (s : State) (d w : Nat) : State :=
  let lines : List Nat := match (s.world w).update, (s.die d).worlds.get w with
    | some u, some y => ((u.records[y.applied]?).map (fun r => y.lat.sequenceLines w u.version r)).getD []
    | _, _ => []
  let s := s.modDie d (fun x => { x with wsLines := x.wsLines.filter (fun c => !lines.contains c.line) })
  { s with worlds := s.worlds.update w (fun x => { x with update := x.update.map (fun u =>
      { u with dies := if u.dies.get d = some 1 then u.dies.insert d 2 else u.dies }) }) }

/-- R376: the lock of an instance is orphaned: the sequence is rolled back (the scrubber's leaves the line as it was; a Vault operation's
working area is zeroed), the locks of its instances are released, and ORPHAN_LOCK is logged with the cycles of the instance's clock. -/
def State.orphanLock (s : State) (d n : Nat) : State :=
  match ((s.die d).arb n).lock with
  | none => s
  | some (o, t) =>
    let held := Min.min (arbClock n * (s.now - t)) (2 ^ 32 - 1)
    let mine (k : Nat) : Bool := match ((s.die d).arb k).lock with | some (o', _) => o' = o | none => false
    let s := if o < worldOwners then s.rollbackRecord d (o / 64) else if n = 74 then s.modDie d (fun x => { x with vaultWork := none }) else s
    let s := ((if n < 64 then lockPair (n % 32) else [n]).filter mine).foldl (fun s k => s.modArb d k (fun a =>
      { a with lock := none, orphans := Min.min (a.orphans + 1) 65535 })) s
    s.logErr d 0x0016 (ownerUnit d n o) (held + 2 ^ 32 * n)

/-- The locks that a GQU of a die owns are orphaned (R376: its port is reset). -/
def State.orphanOf (s : State) (d g : Nat) : State :=
  ((List.range 32).filter (fun n => match ((s.die d).arb n).lock with | some (o, _) => o < worldOwners && o % 64 = g | none => false)).foldl
    (fun s n => s.orphanLock d n) s

end Sys2Proof.Machine
end

