-- ==== Sys2Proof/Machine/Attest.lean ====
section
/-!
DEFINITION. Identity and attestation: the package identity (R668), the measurements of a quote (R672, R673), what is random.
-/
namespace Sys2Proof.Machine

/-- R658: a public key: modulus and exponent, big-endian, 516 bytes. -/
def RsaKey.public (k : RsaKey) : List Byte := natBE 512 k.n ++ natBE 4 k.e

/-- R668: the package identity. -/
def State.packageId (s : State) : List Byte := (sha512 (s.dies.flatMap (fun x => x.fuse.devKey.public))).take 8

/-- Random bytes (R658, R668), and the state that has drawn them. -/
def State.randomBytes (s : State) (n : Nat) : List Byte × State :=
  (tabulate n (fun i => Config.randomByte (s.free + i)), { s with free := s.free + n })

/-- A key slot hash; an empty slot is all zero (R657). -/
def slotHashBytes (h : Option (List Byte)) : List Byte := h.getD (zeros 64)

/-- R672: the digest over the security fuses. -/
def Fuses.digest (f : Fuses) : List Byte :=
  sha512 (f.rootHash ++ f.slotHash.flatMap slotHashBytes ++ natLE 1 (f.revoked % 16 + 16 * bit01 f.signRequired))

/-- R672, R673: the state byte of a plan slot; the signing slot is told of a READY plan. -/
def PlanSlot.quoteByte (x : PlanSlot) : Nat :=
  match x.st with
  | .free => 0
  | .loading => 1
  | .dropping => 3
  | .ready => 2 + 4 * bit01 x.keySlot.isSome + 8 * (x.keySlot.getD 0 % 4)

/-- R672, R673: the digests of a plan slot. -/
def PlanSlot.quoteDigests (x : PlanSlot) : List Byte :=
  if x.st = .ready then x.digest ++ (x.plan.map (·.weightsDigest)).getD (zeros 64) else zeros 128

/-- R672: bytes 0x0000 to 0x89FF of a quote that die `d` makes. -/
def State.quoteBody (s : State) (d : Nat) (nonce : List Byte) : List Byte :=
  let x := s.die d
  let f := s.fuse
  let (digest, svn) := match x.fw with | some f => (f.digest, f.svn) | none => (zeros 64, 0)
  natLE 4 0x544F5551 ++ natLE 2 1 ++ natLE 1 d ++ natLE 1 s.lifecycle ++ natLE 8 x.gtc ++ nonce ++ digest ++
    natLE 1 f.rollback ++ natLE 1 svn ++ natLE 1 (2 * bit01 f.signRequired) ++
    natLE 1 (s.healthyDies.foldl (fun m d => setBit m d) 0) ++ natLE 1 s.n ++ natLE 1 (bit01 s.ident.gradeM) ++
    natLE 1 s.ident.stepping ++ [0] ++ s.packageId ++ f.digest ++ zeros 64 ++
    tabulate 256 (fun i => BitVec.ofNat 8 (s.planSlot i).quoteByte) ++
    (tabulate 256 (fun i => (s.planSlot i).quoteDigests)).flatten ++ (x.fuse.cert ++ zeros 2048).take 2048

/-- R672: the quote with its signature, and the state that has drawn the salt; after tamper or glitch it is unsigned (R675). -/
def State.signQuote (s : State) (d : Nat) (body : List Byte) : List Byte × State :=
  if s.sec.tamper || s.sec.glitch then
    (body.modify 0x72 (fun b => b ||| 1) ++ zeros 512, s)
  else
    let k := (s.die d).fuse.devKey
    let (salt, s) := s.randomBytes 64
    (body ++ pssSign k.n (k.d.getD 0) (sha512 body) salt, s)

end Sys2Proof.Machine
end

