-- ==== Sys2Proof/Machine/Arrays.lean ====
section
/-!
DEFINITION. The tensor array (R127 to R149): accumulation chains, matrix multiply, batched matrix multiply and temporal
convolution on the elements of their operands, and the reduction trees of R161.
-/
namespace Sys2Proof.Machine

/-- One operand of an array operation: its elements with random access, its scale bytes and its format. -/
structure ArrOperand where
  fmt : Fmt
  isScaled : Bool
  elems : Array Elem
  stored : Array Val
  scales : Array Nat
  deriving Repr

/-- Read an array operand from the bytes its tensor holds. -/
def ArrOperand.read (t : TensorDesc) (bs : ByteArr) : NumM ArrOperand := do
  let es ← t.elems bs
  let n := elemCount t.shape
  pure { fmt := t.fmt, isScaled := t.scaled, elems := es.toArray,
         stored := ((t.patterns bs).map t.fmt.decode).toArray,
         scales := if t.scaled then (tabulate n (t.scaleOf bs)).toArray else #[] }

/-- Element `i`; `none` (a row outside a convolution's input) reads as zero (R149). -/
def ArrOperand.val (o : ArrOperand) (i : Option Nat) : Val :=
  match i with
  | some i => (o.elems.getD i (.pt (.zero false))).val
  | none => .zero false

/-- The integer element `i` without its block scale. -/
def ArrOperand.int (o : ArrOperand) (i : Option Nat) : Int :=
  match i with
  | some i => (o.stored.getD i (.zero false)).toRat.floor
  | none => 0

/-- The scale exponent of element `i`: 0 where the operand is not block-scaled (R104), none for the reserved byte. -/
def ArrOperand.exp (o : ArrOperand) (i : Option Nat) : Option Int :=
  match i with
  | some i => if o.isScaled then scaleExp (o.scales.getD i 0) else some 0
  | none => some 0

/-- Element `i` as an interval (R751 for a point operand). -/
def ArrOperand.iv (o : ArrOperand) (i : Option Nat) : NumM Iv :=
  match i with
  | none => pure ⟨.zero false, .zero false⟩
  | some i =>
    match o.elems.getD i (.pt (.zero false)) with
    | .iv v => pure v
    | .pt v => Iv.ofPoint ((o.fmt.float.getD f16).largest) v

/-- R105: an FP32 accumulation step: the exact term added and rounded once. Whether an infinity times zero raises NV when the
accumulator is NaN already is left open by R117: the model looks at the two factors alone and raises it (DESIGN CHOICE, log
entry 28). -/
def accumF32 (acc : Val) (ins : List Val) (term : Val) : NumM Val :=
  if term.isNan && !ins.any Val.isNan then do raiseNV; pure .nan
  else f32.result .rne [acc, term] (Val.add .rne acc term)

/-- The chain of one FP32 accumulator entry over terms in order (R143). -/
def chainF32 (a w : ArrOperand) (acc : Val) (idx : List (Option Nat × Option Nat)) : NumM Val :=
  idx.foldlM (fun acc (i, j) =>
    let x := a.val i
    let y := w.val j
    accumF32 acc [x, y] (Val.mul x y)) acc

/-- The chain of one FP32 accumulator entry for block-scaled integers: one exact block sum a term (R107). -/
def chainBlocks (a w : ArrOperand) (acc : Val) (idx : List (Option Nat × Option Nat)) : NumM Val :=
  (chunks 32 idx).foldlM (fun acc blk =>
    let (i0, j0) := blk.headD (none, none)
    match a.exp i0, w.exp j0 with
    | some ea, some ew =>
      let s : Int := blk.foldl (fun s (i, j) => s + a.int i * w.int j) 0
      accumF32 acc [] ((Val.ofInt s).scale (ea + ew))
    | _, _ => accumF32 acc [.nan] .nan) acc

/-- The chain of one IV32 accumulator entry (R120). -/
def chainIv (a w : ArrOperand) (acc : Iv) (idx : List (Option Nat × Option Nat)) : NumM Iv :=
  idx.foldlM (fun acc (i, j) => do Iv.accumulate f32 acc (← a.iv i) (← w.iv j)) acc

/-- The exact integer sum of one INT32 entry. -/
def chainInt (a w : ArrOperand) (acc : Int) (idx : List (Option Nat × Option Nat)) : Int :=
  idx.foldl (fun s (i, j) => s + a.int i * w.int j) acc

/-- R106: an INT32 entry outside its range is written as the nearer limit, with SAT. -/
def clampInt32 (i : Int) : NumM Int :=
  if i < int32Range.1 then do raiseSAT; pure int32Range.1
  else if int32Range.2 < i then do raiseSAT; pure int32Range.2
  else pure i

/-- One entry: the terms of `idx` added to `start` in order (R143). -/
def chain (k : AccKind) (a w : ArrOperand) (start : AccVal) (idx : List (Option Nat × Option Nat)) : NumM AccVal :=
  match k, start with
  | .int, .int s => do pure (.int (← clampInt32 (chainInt a w s idx)))
  | .flt, .flt s =>
    if a.fmt.isInt && w.fmt.isInt then do pure (.flt (← chainBlocks a w s idx))
    else do pure (.flt (← chainF32 a w s idx))
  | .itv, .itv s => do pure (.itv (← chainIv a w s idx))
  | _, s => pure s

/-- R145: the part sum of one part added into the accumulator; an INT32 sum is exact in any order and takes no part here. -/
def addPart (acc part : AccVal) : NumM AccVal :=
  match acc, part with
  | .flt a, .flt b => do pure (.flt (← f32.add a b))
  | .itv a, .itv b => do pure (.itv (← Iv.add f32 a b))
  | a, _ => pure a

/-- How an operation divides its K range: not at all (R143), or into parts cut at multiples of the tile depth and
added in an order the manual leaves open (R145), drawn at the free counter `n`; `block` counts the ranges of K that are divided one
by one (the key blocks of attention), `entry` the accumulator entries, whose parts may arrive each in its own order. -/
inductive KSplit where
  | fixed
  | free (n block entry : Nat)
  deriving DecidableEq, Repr

/-- The division as one accumulator entry meets it. -/
def KSplit.at_ (sp : KSplit) (block entry : Nat) : KSplit :=
  match sp with
  | .fixed => .fixed
  | .free n _ _ => .free n block entry

/-- The number of tiles of a range of K, at most: 1,048,576 (R136) over the least tile depth. -/
def maxTiles : Nat := 8192

/-- Cut the terms into parts of whole K tiles of `kt` at the cuts the free value names; `base` counts the tiles before them. -/
def kParts (n base kt : Nat) (idx : List (Option Nat × Option Nat)) : List (List (Option Nat × Option Nat)) :=
  ((chunks kt idx).zipIdx.foldl (fun (acc : List (List (Option Nat × Option Nat))) (c, i) =>
    match acc with
    | [] => [c]
    | p :: ps => if Config.kCut n (base + i) then c :: p :: ps else (p ++ c) :: ps) []).reverse

/-- One entry under a division of its K range. -/
def entry (sp : KSplit) (kt : Nat) (k : AccKind) (a w : ArrOperand) (start : AccVal)
    (idx : List (Option Nat × Option Nat)) : NumM AccVal :=
  match sp with
  | .fixed => chain k a w start idx
  | .free n block ent =>
    let parts := kParts n (block * maxTiles) kt idx
    if parts.length ≤ 1 || k = .int then chain k a w start idx
    else do
      let order := sortBy (fun (x y : Nat × List (Option Nat × Option Nat)) => decide (x.1 < y.1))
        (parts.zipIdx.map (fun (p, i) => (Config.kArrival n (ent * maxTiles + i), p)))
      order.foldlM (fun acc (_, p) => do addPart acc (← chain k a w k.zero p)) start

/-- The starting value of an entry from a BIAS element (R135, R744). -/
def biasStart (k : AccKind) (v : Val) : NumM AccVal := k.store (.val v .rne false)

/-- R127: the terms of entry (b, m, n) of a matrix multiply. -/
def matTerms (nm nn nk : Nat) (wShared : Bool) (b m n : Nat) : List (Option Nat × Option Nat) :=
  tabulate nk (fun kk => (some ((b * nm + m) * nk + kk), some (((if wShared then 0 else b) * nn + n) * nk + kk)))

/-- R149: the terms of entry (t, o) of a temporal convolution. -/
def convTerms (tIn cIn taps dil pad t o : Nat) : List (Option Nat × Option Nat) :=
  tabulate (taps * cIn) (fun kk =>
    let row := t + kk / cIn * dil
    let i : Option Nat := if pad ≤ row ∧ row - pad < tIn then some ((row - pad) * cIn + kk % cIn) else none
    (i, some (o * (taps * cIn) + kk)))

/-- All entries of `nb` items of `nm` rows and `nn` columns in canonical order, batch item by batch item, row by row. `terms` gives
those of an entry (b, m, n), `starts` the start of each entry in canonical order. -/
def allEntries (sp : KSplit) (kt : Nat) (k : AccKind) (a w : ArrOperand) (nb nm nn : Nat)
    (terms : Nat → Nat → Nat → List (Option Nat × Option Nat)) (starts : Array AccVal) : NumM (List AccVal) :=
  (List.range (nb * nm * nn)).mapM (fun e =>
    entry (sp.at_ 0 e) kt k a w (starts.getD e k.zero) (terms (e / (nn * nm)) (e / nn % nm) (e % nn)))

/-! ### Reduction trees (R161) -/

/-- One level of the tree: neighbours added, an absent partner passing its node up. -/
def treeLevel : List Val → NumM (List Val)
  | a :: b :: rest => do
    let s ← f32.add a b
    pure (s :: (← treeLevel rest))
  | l => pure l

/-- Nine levels over at most 512 values. -/
def treeLevels : Nat → List Val → NumM (List Val)
  | 0, l => pure l
  | n + 1, l => do treeLevels n (← treeLevel l)

/-- R161: tree_sum. -/
def treeSum (xs : List Val) : NumM Val := do
  let heads ← (chunks 512 xs).mapM (fun c => do pure ((← treeLevels 9 c).headD (.zero false)))
  match heads with
  | [] => pure (.zero false)
  | h :: hs => hs.foldlM (fun acc v => f32.add acc v) h

end Sys2Proof.Machine
end

