-- ==== Sys2Proof/Machine/Abft.lean ====
section
/-!
DEFINITION. The checksum columns of a tensor array (R150 to R155): what each column sums to, the comparison at the write of a
row's final sums, and what a fault of the array does to the sums.
-/
namespace Sys2Proof.Machine

/-! ### One row of one weight tile -/

/-- A data column of a row as the checker meets it: its terms, its starting value, its final sum as written. -/
structure CheckCol where
  idx : List (Option Nat × Option Nat)
  start : AccVal
  out : AccVal
  deriving DecidableEq, Repr

/-- The columns whose number is `j` mod `m`: the groups G_j (R150, m = 8) and H_j (R152, m = 4). -/
def groupCols (cols : List CheckCol) (m j : Nat) : List CheckCol := (cols.zipIdx.filter (fun e => e.2 % m = j)).map Prod.fst

/-- A value of a computation of the check, whose flags are no flags of the job. -/
def quietly {α : Type} (x : NumM α) : α := x.runFlags.1

/-- The activation of term `k` of a group. -/
def termA (g : List CheckCol) (k : Nat) : Option Nat := (((g.head?.map (·.idx)).getD []).getD k (none, none)).1

/-- The weight of term `k` in a column. -/
def CheckCol.termW (c : CheckCol) (k : Nat) : Option Nat := (c.idx.getD k (none, none)).2

/-- The number of terms of a row. -/
def termCount (g : List CheckCol) : Nat := (g.head?.map (fun c => c.idx.length)).getD 0

/-! ### Integer accumulations (R150, R151) -/

/-- An entry of an integer accumulation. -/
def AccVal.asInt : AccVal → Int
  | .int i => i
  | _ => 0

/-- R150: the weight of a checksum column in row `k`. -/
def checkWeight (w : ArrOperand) (g : List CheckCol) (k : Nat) : Int := g.foldl (fun s c => s + w.int (c.termW k)) 0

/-- R150: what a checksum column accumulates: the group's initial sum and the products, in 48-bit two's complement. -/
def intColumn (a w : ArrOperand) (g : List CheckCol) : Nat :=
  intBits 48 ((List.range (termCount g)).foldl (fun s k => s + a.int (termA g k) * checkWeight w g k)
    (g.foldl (fun s c => s + c.start.asInt) 0))

/-- What the clamp of R106 takes off a column's exact sum. -/
def CheckCol.clamped (a w : ArrOperand) (g : List CheckCol) (c : CheckCol) : Int :=
  let e := (List.range (termCount g)).foldl (fun s k => s + a.int (termA g k) * w.int (c.termW k)) c.start.asInt
  e - quietly (clampInt32 e)

/-- R151: the column's sum, as read with the bits `x` turned, differs from the group's sum in 48 bits. An entry that R106 writes as the
nearer limit counts with its exact sum, so that the clamp is no mismatch (log entry 75). -/
def intDiffers (a w : ArrOperand) (g : List CheckCol) (x : Nat) : Bool :=
  decide (intColumn a w g ^^^ (x % 2 ^ 48) ≠ intBits 48 (g.foldl (fun s c => s + c.out.asInt + c.clamped a w g) 0))

/-! ### FP32 accumulations (R152, R154) -/

/-- An entry of an FP32 accumulation. -/
def AccVal.asFlt : AccVal → Val
  | .flt v => v
  | .raw w => f32.decode w
  | _ => .zero false

/-- A sum of values in FP32, each step rounded in a mode. -/
def sumIn (m : RMode) (vs : List Val) : Val := vs.foldl (fun s v => quietly (f32.add s v m)) (.zero false)

/-- An exact sum of finite values, rounded once. -/
def sumOnce (m : RMode) (vs : List Val) : Val := quietly (f32.roundVal m (vs.foldl (Val.add m) (.zero false)))

/-- Columns 0 to 3: the group sum of the initial values and the products with the group's weight, accumulated as a data column
is; `av` and `wv` read the operands as points. -/
def fltColumn (av wv : Option Nat → Val) (init : List Val) (g : List CheckCol) : Val :=
  (List.range (termCount g)).foldl (fun acc k =>
    let x := av (termA g k)
    let y := sumOnce .rne (g.map (fun c => wv (c.termW k)))
    quietly (accumF32 acc [x, y] (Val.mul x y))) (sumIn .rne init)

/-- Columns 4 to 7: the magnitudes, every rounding toward +∞. -/
def magColumn (av wv : Option Nat → Val) (init : List Val) (g : List CheckCol) : Val :=
  (List.range (termCount g)).foldl (fun acc k =>
    let y := sumOnce .rup (g.map (fun c => (wv (c.termW k)).abs))
    quietly (f32.result .rup [] (Val.add .rup acc (Val.mul (av (termA g k)).abs y)))) (sumIn .rup (init.map Val.abs))

/-- A point word with bits turned. -/
def Val.turn (v : Val) (x : Nat) : Val := f32.decode (f32.encode v ^^^ (x % 2 ^ 32))

/-- τ of R152: none where it is infinite or no number, so that nothing exceeds it. -/
def tolerance (k : Nat) (mag : Val) : Option Rat :=
  match mag with
  | .zero _ => some 0
  | .fin q => some ((2 * k + 160 : Nat) * pow2 (-24) * q)
  | _ => none

/-- One value lies more than `t` above another: of an infinity beside a finite value so, of infinities of one sign or a NaN not. -/
def Val.above (t : Rat) (a b : Val) : Bool :=
  match a, b with
  | .nan, _ => false
  | _, .nan => false
  | .inf true, _ => false
  | .inf false, .inf false => false
  | .inf false, _ => true
  | _, .inf true => true
  | _, .inf false => false
  | a, b => decide (t < a.toRat - b.toRat)

/-- Whether the point operands of a group are all finite (R154). -/
def finiteTerms (av wv : Option Nat → Val) (g : List CheckCol) : Bool :=
  (List.range (termCount g)).all (fun k => (av (termA g k)).isFinite && g.all (fun c => (wv (c.termW k)).isFinite))

/-- R152: |S − c| > τ, where S is the group sum in FP32, taken in ascending order of the columns (R152 allows any order; log entry
75). `x` and `y` are bits turned in the sum column and in the magnitude column. -/
def fltDiffers (a w : ArrOperand) (g : List CheckCol) (x y : Nat) : Bool :=
  let init := g.map (fun c => c.start.asFlt)
  let outs := g.map (fun c => c.out.asFlt)
  if !(finiteTerms a.val w.val g && init.all Val.isFinite && outs.all Val.isFinite) then false
  else
    let s := sumIn .rne outs
    let c := (fltColumn a.val w.val init g).turn x
    match tolerance (termCount g) ((magColumn a.val w.val init g).turn y) with
    | none => false
    | some t => Val.above t s c || Val.above t c s

/-! ### IV32 accumulations (R153, R154) -/

/-- An entry of an IV32 accumulation. -/
def AccVal.asIv : AccVal → Iv
  | .itv i => i
  | _ => ⟨.zero false, .zero false⟩

/-- The midpoint of an interval with finite endpoints, rounded once to FP32, RNE (DESIGN CHOICE, log entry 75: R153 does not say how a
midpoint that is no FP32 value is formed). -/
def Iv.mid (i : Iv) : Val := quietly (f32.roundVal .rne (Val.ofRat ((i.lo.toRat + i.hi.toRat) / 2)))

/-- Both endpoints are finite. -/
def Iv.finite (i : Iv) : Bool := i.lo.isFinite && i.hi.isFinite

/-- R153: the point sum of the midpoints lies below Σ lo − τ or above Σ hi + τ. -/
def ivDiffers (a w : ArrOperand) (g : List CheckCol) (x y : Nat) : Bool :=
  let ia (i : Option Nat) : Iv := quietly (a.iv i)
  let iw (i : Option Nat) : Iv := quietly (w.iv i)
  let init := g.map (fun c => c.start.asIv)
  let outs := g.map (fun c => c.out.asIv)
  let fin := (List.range (termCount g)).all (fun k => (ia (termA g k)).finite && g.all (fun c => (iw (c.termW k)).finite))
  if !(fin && init.all Iv.finite && outs.all Iv.finite) then false
  else
    let av (i : Option Nat) : Val := (ia i).mid
    let wv (i : Option Nat) : Val := (iw i).mid
    let lo := sumIn .rdn (outs.map (·.lo))
    let hi := sumIn .rup (outs.map (·.hi))
    let c := (fltColumn av wv (init.map Iv.mid) g).turn x
    match tolerance (termCount g) ((magColumn av wv (init.map Iv.mid) g).turn y) with
    | none => false
    | some t => Val.above t lo c || Val.above t c hi

/-! ### The check of a row, and faults -/

/-- The first group of a row that the check finds to differ; `turned j` are the bits turned in checksum column `j`. -/
def rowMismatch (k : AccKind) (a w : ArrOperand) (cols : List CheckCol) (turned : Nat → Nat) : Option Nat :=
  match k with
  | .int => (List.range 8).find? (fun j => intDiffers a w (groupCols cols 8 j) (turned j))
  | .flt => (List.range 4).find? (fun j => fltDiffers a w (groupCols cols 4 j) (turned j) (turned (j + 4)))
  | .itv => (List.range 4).find? (fun j => ivDiffers a w (groupCols cols 4 j) (turned j) (turned (j + 4)))

/-- The bits that faults turn in the final sum of a logical column of a row of a tile. -/
def turnedBits (fs : List ArrFault) (tile row col : Nat) : Nat :=
  fs.foldl (fun x f => if f.tile = tile ∧ f.row = row ∧ f.col = col then x ^^^ f.mask else x) 0

/-- An entry with bits of its word turned; of an IV32 entry bits 63 to 32 are those of hi. -/
def AccVal.turn (v : AccVal) (x : Nat) : AccVal :=
  if x = 0 then v
  else match v with
    | .int i => .int (bitsInt 32 (intBits 32 i ^^^ (x % 2 ^ 32)))
    | .flt v => .flt (v.turn x)
    | .itv i => .itv ⟨i.lo.turn x, i.hi.turn (x / 2 ^ 32)⟩
    | .raw w => .raw (w ^^^ (x % 2 ^ 32))

/-- An array operation laid out as the checker meets it: batch items, rows and columns of an item, the terms of an entry, and
the entries' starting values and sums in canonical order. -/
structure ArrGrid where
  kind : AccKind
  a : ArrOperand
  w : ArrOperand
  items : Nat
  rows : Nat
  cols : Nat
  terms : Nat → Nat → Nat → List (Option Nat × Option Nat)
  starts : Array AccVal
  sums : Array AccVal

/-- The weight tiles of an item along N. -/
def ArrGrid.tiles (g : ArrGrid) : Nat := ceilDiv g.cols 512

/-- The sums with the faults of the array in them: tile `b × n_N + nt`, row `m`, column `n mod 512`. -/
def ArrGrid.faulted (g : ArrGrid) (fs : List ArrFault) : List AccVal :=
  if fs.isEmpty then g.sums.toList
  else g.sums.toList.zipIdx.map (fun (v, e) =>
    let n := e % g.cols
    v.turn (turnedBits fs (e / (g.cols * g.rows) * g.tiles + n / 512) (e / g.cols % g.rows) (n % 512)))

/-- One row of one tile for the check. -/
def ArrGrid.row (g : ArrGrid) (outs : Array AccVal) (b nt m : Nat) : List CheckCol :=
  tabulate (Min.min 512 (g.cols - 512 * nt)) (fun i =>
    let e := (b * g.rows + m) * g.cols + 512 * nt + i
    { idx := g.terms b m (512 * nt + i), start := g.starts.getD e g.kind.zero, out := outs.getD e g.kind.zero })

/-- R151 to R155: the first mismatch of an operation, as (tile, row, group), in the order of R138. The row is that of its batch item
(DESIGN CHOICE, log entry 75: R155 names the row without saying so). -/
def ArrGrid.mismatch (g : ArrGrid) (fs : List ArrFault) : Option (Nat × Nat × Nat) :=
  let outs := (g.faulted fs).toArray
  (List.range (g.items * g.tiles)).findSome? (fun t => (List.range g.rows).findSome? (fun m =>
    (rowMismatch g.kind g.a g.w (g.row outs (t / g.tiles) (t % g.tiles) m) (fun j => turnedBits fs t m (512 + j))).map
      (fun j => (t, m, j))))

/-- The pass in which a tile's final sums of row `m` are written (R138): `height` is T_M, `kTiles` n_K. -/
def ArrGrid.pass (g : ArrGrid) (height kTiles tile m : Nat) : Nat :=
  let h := Max.max height 1
  (tile * ceilDiv g.rows h + m / h) * kTiles + (kTiles - 1)

/-- What an array operation gives: its outputs and flags, or the mismatch that ends it (pass, row, group). -/
structure ArrOut where
  outs : List ByteArr
  flags : NumFlags
  bad : Option (Nat × Nat × Nat)
  deriving Repr

end Sys2Proof.Machine
end

