-- ==== Sys2Proof/Machine/Attention.lean ====
section
/-!
DEFINITION. Fused attention (R146, R147) with the checks of its accumulations.
-/
namespace Sys2Proof.Machine

/-- `exp (rne (a − b))`, +0 where both are −∞ (R147). -/
def expDiff (a b : Val) : NumM Val :=
  if a = .inf true && b = .inf true then pure (.zero false)
  else do expF32 (← f32.sub a b)

/-- The operands and parameters of an attention: Q, Kt, V, `scale`, the rows M, the width d, the division of its K ranges, the faults of
the array. -/
structure AttnArgs where
  q : ArrOperand
  kt : ArrOperand
  v : ArrOperand
  scale : Val
  rows : Nat
  d : Nat
  split : KSplit
  faults : List ArrFault

/-- The state of one row between key blocks: mx, l and o, and the first mismatch met (tile, group). -/
structure AttnRow where
  mx : Val
  l : Val
  o : List Val
  bad : Option (Nat × Nat)
  deriving DecidableEq, Repr

/-- The sums of one row of one accumulation of attention, with the faults of the array in them, and the check of the row. -/
def AttnArgs.checked (g : AttnArgs) (a w : ArrOperand) (tile m : Nat) (terms : List (List (Option Nat × Option Nat)))
    (starts sums : List Val) : List Val × Option (Nat × Nat) :=
  if g.faults.isEmpty then (sums, none)
  else
    let outs := sums.zipIdx.map (fun (v, n) => (AccVal.flt v).turn (turnedBits g.faults tile m n))
    let cols := (terms.zip (starts.zip outs)).map (fun (t, s, o) => ({ idx := t, start := .flt s, out := o } : CheckCol))
    (outs.map AccVal.asFlt, (rowMismatch .flt a w cols (fun j => turnedBits g.faults tile m (512 + j))).map (fun j => (tile, j)))

/-- The weights p of a block as an activation operand. -/
def weightsOperand (f : Fmt) (p : List Val) : ArrOperand :=
  { fmt := f, isScaled := false, elems := (p.map Elem.pt).toArray, stored := p.toArray, scales := #[] }

/-- One block of keys for one row (R147): block `j`, the key indices `keys`. The weighted sums are accumulated over the keys, whose range
R145 may divide. -/
def attnBlock (g : AttnArgs) (m : Nat) (st : AttnRow) (j : Nat) (keys : List Nat) : NumM AttnRow := do
  let terms := keys.map (fun i => tabulate g.d (fun e => (some (m * g.d + e), some (i * g.d + e))))
  let dots ← terms.mapM (chainF32 g.q g.kt (.zero false))
  let (dots, bad1) := g.checked g.q g.kt (2 * j) m terms (dots.map (fun _ => .zero false)) dots
  let s ← dots.mapM (f32.mul g.scale)
  let mn := s.foldl Val.max st.mx
  let a ← expDiff st.mx mn
  let p ← s.mapM (fun x => do
    let e ← expDiff x mn
    match g.v.fmt.float with
    | some f => f.convert .rne false e
    | none => pure e)
  let ts ← treeSum p
  let l ← f32.add (← f32.mul st.l a) ts
  let po := weightsOperand g.v.fmt p
  let o0 ← st.o.mapM (fun o => f32.mul o a)
  let vterms := tabulate g.d (fun e => keys.zipIdx.map (fun (i, n) => (some n, some (i * g.d + e))))
  let o ← ((o0.zip vterms).zipIdx).mapM (fun ((o, t), e) => do
    let r ← entry (g.split.at_ j ((j * g.rows + m) * g.d + e)) g.v.fmt.tileDepth .flt po g.v (.flt o) t
    pure r.asFlt)
  let (o, bad2) := g.checked po g.v (2 * j + 1) m vterms o0 o
  pure ⟨mn, l, o, (st.bad.orElse fun _ => bad1).orElse fun _ => bad2⟩

/-- R147: all rows, and the first mismatch met (row, tile, group), row by row. -/
def attention (g : AttnArgs) (sValid : Nat) : NumM (List Val × Option (Nat × Nat × Nat)) := do
  let out ← (List.range g.rows).mapM (fun m => do
    let st ← ((chunks 512 (List.range sValid)).zipIdx).foldlM (fun st (keys, j) => attnBlock g m st j keys)
      ⟨.inf true, .zero false, List.replicate g.d (.zero false), none⟩
    let o ← st.o.mapM (fun o => f32.div o st.l)
    pure (o, st.bad.map (fun b => (m, b))))
  pure ((out.map Prod.fst).flatten, out.findSome? Prod.snd)

end Sys2Proof.Machine
end

