-- ==== Sys2Proof/Machine/Descriptor.lean ====
section
/-!
DEFINITION. The checks of a descriptor and its binding table at acceptance (R423 to R431).
-/
namespace Sys2Proof.Machine

/-- A check of one field: its byte offset, whether it fails, the field code (R440). -/
abbrev FieldCheck := Nat × Bool × Nat

/-- A check from its condition for failing. -/
def ck (off : Nat) (bad : Prop) [Decidable bad] (code : Nat) : FieldCheck := (off, decide bad, code)

/-- Reserved bytes of a descriptor. -/
def ckReserved (d : List Byte) (off n : Nat) : FieldCheck := ck off (field d off n ≠ 0) fcReserved

/-- Bits [63:48] of a serial field. -/
def ckSerialBits (d : List Byte) (off : Nat) : FieldCheck := ck off (serials ≤ field d off 8) fcReserved

/-- The address rule of R431: bits [63:57] zero, aligned. -/
def ckAddr (d : List Byte) (off align : Nat) : List FieldCheck :=
  [ck off (hostTop ≤ field d off 8) fcRange, ck off (field d off 8 % align ≠ 0) fcAlign]

/-- An address field that no rule lets be zero. -/
def ckAddrSet (d : List Byte) (off align : Nat) : List FieldCheck := ck off (decide (field d off 8 = 0)) fcRange :: ckAddr d off align

/-- An address that is zero exactly when a count is zero. -/
def ckAddrCount (d : List Byte) (off align : Nat) (used : Bool) : List FieldCheck :=
  ck off ((field d off 8 ≠ 0) ≠ used) fcConflict :: ckAddr d off align

/-- The first check that fails. -/
def firstFail (l : List FieldCheck) : Option CplFields := (l.find? (fun c => c.2.1)).map (fun c => outField c.1 c.2.2)

/-- Management-only kinds (R424). -/
def mgmtKind (k : Nat) : Bool := k = 2 || k = 3 || k = 4 || k = 10

/-- The checks of the common part (R423). `n` is the serial the descriptor's position gives. -/
def commonChecks (d : List Byte) (q n : Nat) (audit : Bool) : List FieldCheck :=
  let k := field d 0 1
  let j := field d 1 1
  [ck 0x00 (0x0B ≤ k) fcReserved, ck 0x00 (mgmtKind k && decide (16 ≤ q)) fcQueue,
   ck 0x01 (8 ≤ j) fcReserved, ck 0x01 (bit j 2 && k ≠ 1) fcReserved, ck 0x01 (bit j 1 && !audit) fcConflict,
   ck 0x04 (field d 4 4 = 0) fcRange, ckSerialBits d 8, ck 0x08 (field d 8 8 ≠ n) fcSerial] ++
  ckAddrCount d 0x20 64 (field d 0x28 1 ≠ 0) ++
  [ck 0x28 (64 < field d 0x28 1) fcRange, ck 0x29 (1 < field d 0x29 1) fcReserved, ckReserved d 0x2A 6, ckReserved d 0x38 8]

/-- The checks of a RUN's part (R426). -/
def runChecks (d : List Byte) : List FieldCheck :=
  let w := field d 0x41 1
  [ck 0x41 (64 ≤ w ∧ w ≠ 0xFF) fcRange, ck 0x42 (16 < field d 0x42 1) fcRange, ck 0x43 (32 < field d 0x43 1) fcRange,
   ckReserved d 0x44 4, ck 0x58 (w = 0xFF ∧ field d 0x58 8 ≠ 0) fcConflict] ++
  ckAddrCount d 0x60 64 (field d 0x42 1 ≠ 0) ++ ckAddrCount d 0x68 64 (field d 0x43 1 ≠ 0) ++
  ckAddrCount d 0x70 64 (bit (field d 1 1) 2) ++ [ckReserved d 0x78 8]

/-- The checks of a LOAD_PLAN's part (R428). -/
def loadPlanChecks (d : List Byte) : List FieldCheck :=
  [ckReserved d 0x41 7] ++ ckAddrSet d 0x48 64 ++
  [ck 0x50 (field d 0x50 8 < 256 ∨ 268435456 < field d 0x50 8) fcRange] ++
  ckAddrCount d 0x58 64 (field d 0x60 8 ≠ 0) ++ [ck 0x60 (2 ^ 40 < field d 0x60 8) fcRange] ++
  ckAddr d 0x68 64 ++ [ckReserved d 0x70 16]

/-- The delta list and obstacle table fields of a world job (R429). -/
def worldTables (d : List Byte) : List FieldCheck :=
  let c := field d 0x64 4
  ckAddrSet d 0x58 16 ++ [ck 0x60 (field d 0x60 4 % 16 ≠ 0) fcAlign] ++
  ckAddrCount d 0x68 64 (c ≠ 0 && c ≠ 0xFFFFFFFF) ++ [ckReserved d 0x70 16]

/-- The checks of a WORLD_LOAD's part (R429): the fields its target does not use are reserved. -/
def worldLoadChecks (d : List Byte) : List FieldCheck :=
  let t := field d 0x40 1
  [ck 0x40 (2 < t) fcReserved, ckReserved d 0x41 1, ck 0x42 ((if t = 1 then 1024 else 64) ≤ field d 0x42 2) fcRange, ckReserved d 0x44 4] ++
  (if t = 0 then
     ckAddrSet d 0x48 64 ++ [ck 0x50 (field d 0x50 8 = 0) fcRange] ++
       (ckAddrSet d 0x58 16 ++ [ck 0x60 (field d 0x60 4 % 16 ≠ 0) fcAlign, ck 0x64 (field d 0x64 4 = 0xFFFFFFFF) fcRange] ++
        ckAddrCount d 0x68 64 (field d 0x64 4 ≠ 0) ++ [ckReserved d 0x70 16])
   else if t = 1 then
     ckAddrSet d 0x48 64 ++ [ckReserved d 0x58 8, ckReserved d 0x60 4, ckReserved d 0x64 4, ckReserved d 0x68 8, ckReserved d 0x70 16]
   else
     [ckReserved d 0x48 8, ckReserved d 0x50 8, ckReserved d 0x58 8, ckReserved d 0x60 4, ckReserved d 0x64 4,
      ckReserved d 0x68 8, ckReserved d 0x70 16])

/-- The checks of a WORLD_UPDATE's part (R429). -/
def worldUpdateChecks (d : List Byte) : List FieldCheck :=
  [ckReserved d 0x40 1, ckReserved d 0x41 1, ck 0x42 (64 ≤ field d 0x42 2) fcRange, ckReserved d 0x44 4] ++ worldTables d

/-- The checks of a SIGNAL's part (R430). -/
def signalChecks (d : List Byte) (q : Nat) : List FieldCheck :=
  let op := field d 0x40 1
  let aux := field d 0x50 8
  let ty := aux % 4
  [ck 0x40 (2 < op) fcReserved, ck 0x40 (op = 2 ∧ 16 ≤ q) fcQueue, ckReserved d 0x41 1, ck 0x42 (16384 ≤ field d 0x42 2) fcRange,
   ckReserved d 0x44 4, ck 0x48 (op = 1 ∧ field d 0x48 8 ≠ 0) fcReserved,
   ck 0x50 (if op = 2 then ty = 3 ∨ aux ≠ ty + 256 * (if ty = 2 then aux / 256 % 64 else 0) else aux ≠ 0) fcReserved,
   ckReserved d 0x58 40]

/-- The checks of a SUSPEND, RESUME or CANCEL (R430, R431). `n` is the job's own serial. -/
def controlChecks (d : List Byte) (q n : Nat) : List FieldCheck :=
  let tq := field d 0x40 2
  let ts := field d 0x48 8
  [ck 0x40 (16384 ≤ tq) fcRange, ck 0x40 (tq ≠ q ∧ 16 ≤ q) fcQueue, ckReserved d 0x42 6, ckSerialBits d 0x48,
   ck 0x48 (tq = q && serialAtOrAfter ts n) fcConflict, ckReserved d 0x50 48]

/-- R672: the size of a quote. -/
def quoteBytes : Nat := 35840

/-- The checks of the kind-specific part (R426 to R430), in ascending offset. -/
def kindChecks (d : List Byte) (q n : Nat) : List FieldCheck :=
  match field d 0 1 with
  | 0 => [ckReserved d 0x40 64]
  | 1 => runChecks d
  | 2 => loadPlanChecks d
  | 3 => [(0x41, 7), (0x48, 8), (0x50, 8), (0x58, 8), (0x60, 8), (0x68, 8), (0x70, 16)].map (fun (f : Nat × Nat) => ckReserved d f.1 f.2)
  | 4 => worldLoadChecks d
  | 5 => worldUpdateChecks d
  | 6 => signalChecks d q
  | 10 => ckAddrSet d 0x60 64 ++ [ck 0x68 (field d 0x68 4 < quoteBytes) fcRange, ckReserved d 0x6C 20]
  | _ => controlChecks d q n

/-- R431: the first failing check of a descriptor, in ascending order of byte offset. -/
def descriptorFault (d : List Byte) (q n : Nat) (audit : Bool) : Option CplFields :=
  firstFail (commonChecks d q n audit ++ kindChecks d q n)

/-- A binding table entry (R425). -/
def parseBind (b : List Byte) : Bind :=
  { flag := field b 0 1, source := field b 1 1, object := field b 4 4, value := field b 8 8, watched := false, notice := false }

/-- The field code of a binding entry at fault, given the flags bound before it. -/
def bindFault (b : List Byte) (before : List Nat) : Option Nat :=
  let e := parseBind b
  if 64 ≤ e.flag then some fcRange
  else if 1 < e.source ∨ field b 2 2 ≠ 0 then some fcReserved
  else if e.source = 0 ∧ 16384 ≤ e.object then some fcRange
  else if e.source = 1 ∧ e.object ≠ 0 then some fcReserved
  else if before.contains e.flag then some fcConflict
  else none

/-- R431: the first entry of a binding table that fails, and how. -/
def bindsFault : Nat → List Nat → List (List Byte) → Option CplFields
  | _, _, [] => none
  | i, before, b :: rest =>
    match bindFault b before with
    | some c => some (outErr 7 2 0x20 i c 0)
    | none => bindsFault (i + 1) (field b 0 1 :: before) rest

/-- A job as its descriptor arrives (R431, R445): its outcome is decided at once when the descriptor or its binding
table is unreadable or fails a check. -/
def arrivedJob (s : State) (hv : HostView) (q n : Nat) : Job :=
  let x := s.queue q
  let bytes := s.readHost hv (x.descAddr n) 128
  let d := bytes.getD (natLE 8 0 ++ natLE 8 n ++ zeros 112)
  let count := field d 0x28 1
  let table := tabulate count (fun i => s.readHost hv (field d 0x20 8 + 16 * i) 16)
  let fault : Option CplFields :=
    match bytes with
    | none => some (outErr 9 1 0xFFFF 0xFFFFFFFF 0 0)
    | some d =>
      match descriptorFault d q n x.auditCpl with
      | some o => some o
      | none =>
        match (List.range count).find? (fun i => (table.getD i none).isNone) with
        | some i => some (outErr 9 2 0x20 i 0 0)
        | none => bindsFault 0 [] (table.map (fun b => b.getD []))
  { q := q, s := n, owner := x.entry.homeDie, desc := d, st := .accepting, flags := 0,
    binds := if fault.isNone then table.map (fun b => parseBind (b.getD [])) else [], acceptedAt := 0, acceptSeq := 0, lastFlag := 0xFF, met := false,
    dispatched := false, phase := 0, order := 0, run := none, numFlags := NumFlags.none, advisory := 0, inDigest := zeros 64,
    planDigest := zeros 64, weightsDigest := zeros 64, config := configWord (bit (field d 1 1) 0) false 0 0, quote := [],
    outcome := fault, pinPlan := none, pinBodies := [], pinWorld := none, suspending := false,
    parking := false, cancelBy := none, cancelAt := 0, readyAt := none, moved := false, movedSeq := 0, owed := [] }

end Sys2Proof.Machine
end

