-- ==== Sys2Proof/Machine/Queues.lean ====
section
/-!
DEFINITION. Queue and group commands, doorbells, descriptor reads and acceptance (R392 to R398, R411 to R436, R508 to
R510).
-/
namespace Sys2Proof.Machine

/-! ### Doorbells -/

/-- A doorbell line is active while its queue is enabled. -/
def State.lineActive (s : State) (q : Nat) : Bool := (s.queue q).st = .enabled

/-- R392: the port that watches a queue's doorbell line. -/
def State.watchPort (s : State) (q : Nat) : Option Nat :=
  match s.portUp 0, s.portUp 1 with
  | true, true => some (q % 2)
  | true, false => some 0
  | false, true => some 1
  | false, false => none

/-- A delivery under way to the queue's partition: the latest contents (R395, R398). -/
def State.sendDelivery (s : State) (q v : Nat) : State := s.modQueue q (fun x => { x with deliver := some v })

/-- What a line whose contents could not be read stands for: no 64 bytes are that number. -/
def unreadLine : Nat := 2 ^ 512

/-- The watching port reads a line and delivers it; an unreadable line is skipped and logged, and held for the next poll or sweep
(R398, R445). -/
def State.readLine (s : State) (hv : HostView) (k q : Nat) : State :=
  match s.readHost hv (s.dbAddr q) 64 with
  | none => (s.modPort k (fun p => { p with lines := p.lines.insert q unreadLine })).logErr k 0x0004 (unitCode 11 k) q
  | some bs => (s.modPort k (fun p => { p with lines := p.lines.insert q (leNat bs) })).sendDelivery q (leNat bs)

/-- A line of a queue read and delivered by the port that watches it. -/
def State.rereadLine (s : State) (hv : HostView) (q : Nat) : State :=
  match s.watchPort q with
  | none => s
  | some k => s.readLine hv k q

/-- A queue's line given up (R383). -/
def State.dropLine (s : State) (q : Nat) : State :=
  { s with ports := s.ports.map (fun p => { p with lines := p.lines.erase q, taking := p.taking.filter (· ≠ q) }) }

/-- DOORBELL_SNOOP (R394): an invalidated line is taken again with RdShared. -/
def execDoorbellSnoop (k q : Nat) (s : State) : Host.Outcome State Fault Refusal :=
  let p := s.port k
  if s.portUp k && p.coherent && (p.lines.get q).isSome then
    .next (s.modPort k (fun p => { p with lines := p.lines.erase q, taking := p.taking.filter (· ≠ q) ++ [q] }))
  else s.idle

/-- DOORBELL_LINE_READ (R394, R395): the line taken arrives and is delivered. -/
def execDoorbellLineRead (k q : Nat) (hv : HostView) (s : State) : Host.Outcome State Fault Refusal :=
  if s.portUp k && (s.port k).taking.contains q then
    (s.merge hv).cross [atEgress k 1] (fun s =>
      .next ((s.modPort k (fun p => { p with taking := p.taking.filter (· ≠ q) })).readLine hv k q))
  else s.idle

/-- DOORBELL_SWEEP (R396): each held line is read again; contents that differ from the last delivery are delivered, and
DB_MISSED is logged. -/
def execDoorbellSweep (k : Nat) (hv : HostView) (s : State) : Host.Outcome State Fault Refusal :=
  if s.portUp k && (s.port k).coherent && s.regs.dbSweep ≠ 0 then
    (s.merge hv).cross [atEgress k 1] (fun s => .next ((s.port k).lines.foldl (fun s e =>
      match s.readHost hv (s.dbAddr e.1) 64 with
      | none => s.logErr k 0x0004 (unitCode 11 k) e.1
      | some bs => if leNat bs = e.2 then s else (s.readLine hv k e.1).logErr k 0x0004 (unitCode 11 k) e.1) s))
  else s.idle

/-- The active lines a port watches, in ascending queue order. -/
def State.watched (s : State) (k : Nat) : List Nat :=
  (s.queues.map Prod.fst).filter (fun q => s.lineActive q && s.watchPort q = some k)

/-- DOORBELL_POLL (R397): each active line the port watches is read and delivered, in ascending queue order. -/
def execDoorbellPoll (k : Nat) (hv : HostView) (s : State) : Host.Outcome State Fault Refusal :=
  if s.portUp k && !(s.port k).coherent then
    (s.merge hv).cross [atEgress k 1] (fun s => .next ((s.watched k).foldl (fun s q => s.readLine hv k q) s))
  else s.idle

/-- R422: a delivered post is invalid. -/
def Queue.postInvalid (x : Queue) (v : Nat) : Bool :=
  decide (serials ≤ v) || decide (2 ^ 47 ≤ serialAhead v x.post) || decide (x.ring < serialAhead v x.accepted)

/-- DOORBELL_DELIVERY (R398, R422): a delivery travels from the port's die to the queue's home in class CTRL; for a queue that is not enabled
it is discarded, an invalid post is ignored and logged. -/
def execDoorbellDelivery (q : Nat) (s : State) : Host.Outcome State Fault Refusal :=
  let x := s.queue q
  match x.deliver with
  | none => s.idle
  | some line =>
    s.cross (((s.watchPort q).map (fun k => s.overUmlin k x.entry.homeDie 0 q)).getD []) fun s =>
    let v := line % 2 ^ 64
    let s := (s.modQueue q (fun y => { y with deliver := none })).readContext x.entry.homeDie q
    if x.st ≠ .enabled then .next s
    else if x.postInvalid v then
      .next (s.logErr x.entry.homeDie 0x0005 (unitCode 12 (partOf q)) v (some (q, 0xFFFFFFFF)))
    else .next ((s.modQueue q (fun y => { y with post := v })).noteStall q)

/-! ### Queue commands (R416 to R419) -/

/-- The result of a queue command. -/
def State.qtbResult (s : State) (r : Nat) : State := s.modRegs (fun x => { x with qtbResult := r })

/-- A `go` of QTB_CMD is taken while the register is not busy: its RW fields take the values written. -/
def State.qtbGo (s : State) (p q op d : Nat) (f : State → State) : State :=
  if s.takes p && s.regs.qtbBusy.isNone && decide (q < 16384) then
    f (s.modRegs (fun r => { r with qtbCmd := q + at' op 16 + at' (d % 8) 20 }))
  else s

/-- The entry of a queue as the Queue Table holds it (R414). -/
def parseEntry (b : List Byte) : QEntry :=
  { descBase := field b 0 8, cplBase := field b 8 8, log2Size := field b 0x10 1, group := field b 0x11 1 % 16,
    homeDie := field b 0x12 1, qflags := field b 0x13 1 % 4, vector := field b 0x14 2, window := field b 0x16 2 }

/-- The rings of an entry: (first address, bytes). -/
def QEntry.rings (e : QEntry) : List (Nat × Nat) :=
  [(e.descBase, 128 * 2 ^ e.log2Size), (e.cplBase, (if bit e.qflags 0 then 128 else 64) * 2 ^ e.log2Size)]

/-- R414: a field of the entry is out of its range. -/
def entryBroken (b : List Byte) : Bool :=
  let e := parseEntry b
  let badAddr (a : Nat) : Bool := decide (a % 4096 ≠ 0) || decide (hostTop ≤ a)
  badAddr e.descBase || badAddr e.cplBase || decide (e.log2Size < 4 ∨ 16 < e.log2Size) || decide (16 ≤ field b 0x11 1) ||
    decide (4 ≤ field b 0x13 1) || decide (2048 ≤ e.vector) || decide (e.window < 1 ∨ 256 < e.window) ||
    decide (serials ≤ field b 0x18 8)

/-- Two ranges overlap. -/
def overlaps (a b : Nat × Nat) : Bool := decide (a.1 < b.1 + b.2) && decide (b.1 < a.1 + a.2)

/-- R419: the entry's rings overlap those of another enabled queue. -/
def State.ringsOverlap (s : State) (q : Nat) (e : QEntry) : Bool :=
  s.queues.any (fun o => o.1 ≠ q && o.2.st = .enabled &&
    o.2.entry.rings.any (fun a => e.rings.any (overlaps a)))

/-- R419, R565, R649: what keeps a group-0 queue from being enabled. -/
def State.safetyNotReady (s : State) : Bool :=
  !s.regs.tnkInitDone || s.regs.hbTimeout = 0 ||
    (s.lifecycle = 2 && s.dies.any (fun x => x.inj.any (·.arm)))

/-- A parked job becomes eligible again (R418): it returns to READY, or, when it had not met its wait, to its wait. -/
def State.unpark (s : State) (j : Job) : State :=
  if j.dispatched || j.met then
    if j.flow ≠ 0 && (s.flows.getD j.flow ⟨none, [], false⟩).holder ≠ some (j.q, j.s) then
      s.modJob j.q j.s (fun x => { x with st := .flowWait })
    else s.enterReady j.q j.s
  else s.modJob j.q j.s (fun x => { x with st := .waiting })

/-- Every parked job of a queue, in serial order, becomes eligible again. -/
def State.unparkAll (s : State) (q : Nat) : State :=
  (s.sortedJobs (fun j => j.q = q && j.st = .parked)).foldl (fun s k =>
    match s.job k.1 k.2 with | some j => s.unpark j | none => s) s

/-- ENABLE (R418, R419, R474, R510, R565). -/
def State.enableQueue (s : State) (hv : HostView) (q : Nat) : State :=
  let x := s.queue q
  if x.st ≠ .disabled ∧ x.st ≠ .withdrawn then s.qtbResult 2
  else if !s.regs.ldgReady then s.qtbResult 4
  else match s.readHost hv (s.qtbAddr q) 64 with
    | none => s.qtbResult 5
    | some b =>
      let e := parseEntry b
      let acc := field b 0x18 8
      let changed := match x.parkedEntry with
        | some (pe, pa) => decide (pe.descBase ≠ e.descBase ∨ pe.cplBase ≠ e.cplBase ∨ pe.log2Size ≠ e.log2Size ∨ pa ≠ acc)
        | none => false
      if entryBroken b || !s.healthy e.homeDie || s.ringsOverlap q e || (x.st = .withdrawn && changed) then s.qtbResult 1
      else if !bit s.regs.groupEnabled e.group then s.qtbResult 2
      else if e.group = 0 && s.safetyNotReady then s.qtbResult 4
      else
        let first := x.st = .disabled && !x.everEnabled
        let s := s.modQueue q (fun y =>
          { y with entry := e, everEnabled := true, parkedEntry := none,
                   accepted := if first then acc else y.accepted, taken := if first then acc else y.taken,
                   post := if first then acc else y.post, low := if first then acc else y.low, reading := [], due := 0 })
        ((((s.qtbResult 0).modRegs (fun r => { r with qtbBusy := some q })).setQState q .enabled).unparkAll q).rereadLine hv q

/-- QUEUE_ENABLE (R418). -/
def execQueueEnable (p q : Nat) (hv : HostView) (s : State) (die : Nat := 0) : Host.Outcome State Fault Refusal :=
  (s.qtbGo p q 0 die (fun t => (t.merge hv).enableQueue hv q)).done

/-- DRAIN (R418). -/
def State.drainQueue (s : State) (q : Nat) : State :=
  if (s.queue q).st = .enabled then (((s.setQState q .draining).dropLine q).settleQueue q).noteStall q else s

/-- QUEUE_DRAIN (R418): `busy` until `qstate` is written. -/
def execQueueDrain (p q : Nat) (s : State) (die : Nat := 0) : Host.Outcome State Fault Refusal :=
  (s.qtbGo p q 1 die (fun t => if (t.queue q).st = .enabled then
    ((t.qtbResult 0).modRegs (fun r => { r with qtbBusy := some q })).drainQueue q else t.qtbResult 2)).done

/-- R418: a job of a queue under WITHDRAW: a running RUN is suspended at its next stage boundary, a job under way of
another kind finishes, the rest are parked. -/
def State.parkJob (s : State) (j : Job) : State :=
  match j.st with
  | .waiting | .flowWait | .ready => (s.leaveReady j.q j.s).modJob j.q j.s (fun x => { x with st := .parked })
  | .running => s.modJob j.q j.s (fun x => { x with parking := true })
  | _ => s

/-- WITHDRAW (R418): WITHDRAWING, then WITHDRAWN when all are parked. -/
def State.withdrawQueue (s : State) (q : Nat) : State :=
  let x := s.queue q
  if x.st = .enabled ∨ x.st = .draining then
    let s := (s.setQState q .withdrawing).dropLine q
    (((s.jobs.filter (fun j => j.q = q)).foldl (fun s j => s.parkJob j) s).settleQueue q).noteStall q
  else s

/-- QUEUE_WITHDRAW (R418): `busy` until the queue is WITHDRAWN (log entry 15). -/
def execQueueWithdraw (p q : Nat) (s : State) (die : Nat := 0) : Host.Outcome State Fault Refusal :=
  (s.qtbGo p q 2 die (fun t =>
    let x := t.queue q
    if x.st = .enabled ∨ x.st = .draining then
      ((t.modRegs (fun r => { r with qtbBusy := some q, qtbResult := 0 })).withdrawQueue q)
    else t.qtbResult 2)).done

/-- R477 step 1: the die stops accepting from a queue, its running jobs are suspended at their next stage boundary, and nothing of
it is dispatched or completed until the move to die `d` has ended. -/
def State.startMove (s : State) (q d : Nat) : State :=
  let s := s.modQueue q (fun y => { y with moving := some (d, 1), reading := [] })
  let s := (s.sortedJobs (fun j => j.q = q && j.st = .ready)).foldl (fun s k => s.leaveReady k.1 k.2) s
  { s with jobs := s.jobs.map (fun j => if j.q = q then { j with moved := true, parking := j.parking || j.st = .running } else j) }

/-- QUEUE_MOVE (R418, R419, R477 step 1). -/
def execQueueMove (p q d : Nat) (s : State) : Host.Outcome State Fault Refusal :=
  (s.qtbGo p q 3 d (fun t =>
    let x := t.queue q
    if (x.st ≠ .enabled ∧ x.st ≠ .withdrawn) ∨ x.moving.isSome then t.qtbResult 2
    else if !t.healthy d then t.qtbResult 3
    else (t.modRegs (fun r => { r with qtbBusy := some q })).startMove q d)).done

/-! ### Group commands (R508 to R510) -/

/-- A `go` of SCH_GROUP_CMD. -/
def State.groupGo (s : State) (p g op : Nat) (f : State → State) : State :=
  if s.takes p && s.regs.groupBusy.isNone && decide (g < 16) then
    f (s.modRegs (fun r => { r with groupCmd := g + at' op 8 }))
  else s

/-- The ENABLED queues of a group. -/
def State.groupQueues (s : State) (g : Nat) : List Nat :=
  (s.queues.map Prod.fst).filter (fun q => (s.queue q).st = .enabled && s.group q = g)

/-- The result of a group command. -/
def State.groupResult (s : State) (r : Nat) : State := s.modRegs (fun x => { x with groupResult := r })

/-- GROUP_ENABLE (R510). -/
def execGroupEnable (p g : Nat) (s : State) : Host.Outcome State Fault Refusal :=
  .next (s.groupGo p g 0 (fun t =>
    if bit t.regs.groupEnabled g then t.groupResult 2
    else ((t.modRegs (fun r => { r with groupEnabled := setBit r.groupEnabled g })).modDies
      (fun x => { x with parts := x.parts.map (fun y => { y with deficit := y.deficit.set g 0 }) })).groupResult 0))

/-- GROUP_DRAIN (R510). -/
def execGroupDrain (p g : Nat) (s : State) : Host.Outcome State Fault Refusal :=
  (s.groupGo p g 1 (fun t =>
    if bit t.regs.groupEnabled g then
      (((t.groupQueues g).foldl (fun t q => t.drainQueue q)
        (t.modRegs (fun r => { r with groupEnabled := clearBit r.groupEnabled g })))).groupResult 0
    else t.groupResult 2)).done

/-- GROUP_WITHDRAW (R510). -/
def execGroupWithdraw (p g : Nat) (s : State) : Host.Outcome State Fault Refusal :=
  (s.groupGo p g 2 (fun t =>
    if bit t.regs.groupEnabled g then
      (((t.groupQueues g).foldl (fun t q => t.withdrawQueue q)
        (t.modRegs (fun r => { r with groupEnabled := clearBit r.groupEnabled g })))).groupResult 0
    else t.groupResult 2)).done

/-! ### Descriptors (R431, R434, R436, R461) -/

/-- A die accepts descriptors of a queue: the queue is enabled and not moving, no recovered job waits for a slot (R472), the jobs that a
recovery kept are complete (R419),
the die accepts jobs (R679) and its segment's header is durable in this life (R475), the Ledger is ready and neither it nor the package
has stopped (R410, R476). -/
def State.accepts (s : State) (q : Nat) : Bool :=
  let x := s.queue q
  let d := x.entry.homeDie
  x.st = .enabled && x.moving.isNone && x.recovered.isEmpty && x.kept.isNone && s.healthy d &&
    (s.part d (partOf q)).differs.isNone && s.regs.ldgReady && !s.pins.fatal && s.mayWrite d && (s.die d).ldg.lease.isSome

/-- The serials that may be read ahead: before `post` and below c + window, at most four (R434). -/
def Queue.readAhead (x : Queue) : List Nat :=
  (tabulate 4 (fun i => serialAdd x.taken i)).takeWhile (fun n =>
    decide (0 < serialAhead x.post n ∧ serialAhead x.post n ≤ x.ring) && decide (serialAhead n x.low < x.entry.window))

/-- DESCRIPTOR_READ (R434): up to four slots are read ahead. -/
def execDescriptorRead (q : Nat) (s : State) : Host.Outcome State Fault Refusal :=
  let x := s.queue q
  if s.accepts q && x.reading.isEmpty && !x.readAhead.isEmpty then
    s.cross [atEgress x.entry.homeDie 1] (fun s => .next (s.modQueue q (fun y => { y with reading := y.readAhead })))
  else s.idle

/-- The fetched descriptors become jobs, as far as the die has slots for them (R434); `n` counts the jobs taken. -/
def takeDescriptors (hv : HostView) (q : Nat) : List Nat → State → Nat → State × Nat
  | [], s, n => (s, n)
  | k :: rest, s, n =>
    if s.jobsHomed (s.queue q).entry.homeDie < 4096 then
      takeDescriptors hv q rest
        ((({ s with jobs := s.jobs ++ [arrivedJob s hv q k] } : State)).modQueue q (fun y => { y with taken := serialAdd k 1 })) (n + 1)
    else (s, n)

/-- R436: the queues of a partition that have descriptors to accept, in ascending order. -/
def State.rivals (s : State) (d k : Nat) : List Nat :=
  sortBy (fun a b => decide (a < b)) ((s.queues.filter (fun e =>
    e.2.entry.homeDie = d && partOf e.1 = k && !e.2.reading.isEmpty && s.accepts e.1)).map Prod.fst)

/-- R436: the queue whose turn it is: the next one after the last that accepted. -/
def State.turnOf (s : State) (d k : Nat) : Option Nat :=
  let l := s.rivals d k
  match l.find? (fun q => decide (((s.die d).parts.getD k Partition.reset).turn < q)) with
  | some q => some q
  | none => l.head?

/-- DESCRIPTOR_ARRIVAL (R431, R436, R461): fetched descriptors are checked, and one ACCEPT record covers the run: one descriptor at the queue's
turn, and the next ones too while no other queue of its partition has any. Without its turn the queue waits. -/
def execDescriptorArrival (q : Nat) (hv : HostView) (s : State) : Host.Outcome State Fault Refusal :=
  let x := s.queue q
  let d := x.entry.homeDie
  if s.accepts q && !x.reading.isEmpty && s.turnOf d (partOf q) = some q then
    let k := if (s.rivals d (partOf q)).length ≤ 1 then x.reading.length else 1
    let (t, n) := takeDescriptors hv q (x.reading.take k) (s.merge hv) 0
    let t := (t.modQueue q (fun y => { y with reading := if n = k then x.reading.drop k else [] })).modPart d (partOf q) (fun y => { y with turn := q })
    ((if n = 0 then t else t.ledgerWrite d (.accept q x.taken n 0)).noteStalls d).done
  else s.idle

/-- BACKLOG (R435): a stall that has lasted QTB_BACKLOG_TIME is logged, once a stall. -/
def execBacklog (q : Nat) (s : State) : Host.Outcome State Fault Refusal :=
  let s := s.noteStall q
  let x := s.queue q
  match x.stallSince with
  | none => .next s
  | some t =>
    if x.backlogged || decide (s.now < t + s.regs.backlogTime * countsPerUs) then s.idle
    else
      let d := x.entry.homeDie
      .next (((s.modQueue q (fun y => { y with backlogged := true })).logErr d 0x0006 (unitCode 12 (partOf q)) q).traceEv d 0x0E q 0 0 0)

/-- FETCH_STALL_UPDATE (R435): the stalled time so far is added to `fetch_stall`. -/
def execFetchStallUpdate (q : Nat) (s : State) : Host.Outcome State Fault Refusal :=
  let s := s.noteStall q
  if (s.queue q).stallSince.isSome then (s.publishAccepted q (s.queue q).accepted).done else .next s

end Sys2Proof.Machine
end

