-- ==== Sys2Proof/Machine/Health.lean ====
section
/-!
DEFINITION. HEALTHY and FAULT_N (R591, R592, R695), the pin owner (R708, R709), supervisor election (R28), the loss of a
die and its fence (R468, R469, R634).
-/
namespace Sys2Proof.Machine

/-! ### HEALTHY -/

/-- The thermal shutdown threshold in units of 0.25 degrees (R693). -/
def State.shutdownAt (s : State) : Int := if s.ident.gradeM then 500 else 460
/-- The throttle threshold. -/
def State.throttleAt (s : State) : Int := if s.ident.gradeM then 420 else 380
/-- Where a throttle ends. -/
def State.throttleEnd (s : State) : Int := if s.ident.gradeM then 412 else 372

/-- A THM_TEMP value as a signed number. -/
def tempOf (v : Nat) : Int := if v % 65536 < 32768 then (v % 65536 : Int) else (v % 65536 : Int) - 65536

/-- R589: the heartbeat is armed and alive. -/
def State.heartbeatOk (s : State) : Bool := s.regs.hbTimeout ≠ 0 && s.regs.hbAlive

/-- The conditions of R591. -/
def State.healthHolds (s : State) : Bool :=
  s.boot.fwReady && s.regs.ldgReady && s.regs.tnkInitDone && s.heartbeatOk && s.anyPort && s.sup.die.isSome &&
    s.dies.all (fun x => decide (tempOf x.power.temp < s.shutdownAt)) && !s.pins.fatal && !s.sec.tamper && !s.sec.glitch

/-- R591, R592: HEALTHY falls when a condition breaks; the wait for its rise starts when every condition holds. -/
def State.settleHealthy (s : State) : State :=
  if s.healthHolds then
    if s.pins.healthy || s.pins.healthyFrom.isSome then s
    else { s with pins := { s.pins with healthyFrom := some s.now } }
  else { s with pins := { s.pins with healthy := false, healthyFrom := none } }

/-- R695: FAULT_N is asserted while no die is healthy. -/
def State.settleFault (s : State) : State :=
  if s.healthyDies.isEmpty && s.boot.pll then { s with pins := { s.pins with faultN := false } } else s

/-- R708: the pin owner. -/
def State.ownerDie (s : State) : Nat := if (s.die 0).lost && !(s.die 1).lost then 1 else 0

/-- R709: when the pin owner changes, no die drives the outputs for at most 2 µs and the trace memory is reset: its contents
become undefined. The I3C target answers at its static address again. -/
def State.settleOwner (s : State) : State :=
  if s.ownerDie = s.pins.owner then s
  else
    let (e, s) := s.fresh
    { s with pins := { s.pins with owner := s.ownerDie, gapEnd := some (s.now + Min.min (2 * countsPerUs) (Config.ownerGap s.now)), rpFrom := s.now, rpTried := false, dynAddr := none },
             traceMem := ⟨[], e, 0, false⟩, regs := { s.regs with rpReady := false } }

/-- R28, R32, R643: the supervisor in office; a new one receives every unacknowledged record again. -/
def State.settleSupervisor (s : State) : State :=
  let e := if s.boot.fwReady then s.electSupervisor else none
  let s : State := { s with sup := { s.sup with die := e } }
  match e with
  | none => s
  | some _ =>
    if e = s.sup.logDie then s
    else ({ s with sup := { s.sup with logDie := e, log := [] } } : State).modDies (fun x => { x with sent := 0 })

/-- R694: ALERT_N is asserted while a die is throttled or inserts idle cycles; its release waits 10 ms from when neither holds. -/
def State.settleAlert (s : State) : State :=
  if s.dies.any (fun x => x.power.throttled || x.power.idleShare) then { s with pins := { s.pins with alertN := false, alertFrom := none } }
  else if s.pins.alertN || s.pins.alertFrom.isSome then s
  else { s with pins := { s.pins with alertFrom := some s.now } }

/-- All of these. -/
def State.settle (s : State) : State := s.settleOwner.settleSupervisor.settleFault.settleHealthy.settleAlert

/-! ### Sync objects, flows and channels of a lost die (R465, R480, R501, R615) -/

/-- A pair of holders that names a die. -/
def holds (h : Nat × Nat) (d : Nat) : Bool := h.1 = d || h.2 = d

/-- Both holders of an object are out: its state is lost. -/
def State.objectLost (s : State) (o : SyncObj) : Bool := !s.healthy o.holders.1 && !s.healthy o.holders.2

/-- The objects and channels that a die held wait for their copy; the flows it was home of wait to be rebuilt. -/
def State.exposeHoldings (s : State) (d : Nat) : State :=
  { s with
    syncs := s.syncs.map (fun e => (e.1, { e.2 with exposed := e.2.exposed || holds e.2.holders d }))
    chans := s.chans.map (fun e => (e.1, { e.2 with exposed := e.2.exposed || holds e.2.holders d })) }

/-- R495: the objects and channels whose holders keep their state are held where the healthy dies as they now stand put them. -/
def State.renewHolders (s : State) : State :=
  let safe (e : Bool) (h : Nat × Nat) : Bool := !e && s.healthy h.1 && s.healthy h.2
  { s with
    syncs := s.syncs.map (fun e => (e.1, { e.2 with holders := if safe e.2.exposed e.2.holders then s.holdersOf e.1 else e.2.holders }))
    chans := s.chans.map (fun e => (e.1, { e.2 with holders := if safe e.2.exposed e.2.holders then s.holdersOf e.1 else e.2.holders })) }

/-- The flows whose home is a die, before it leaves the healthy set, lose it (R501). -/
def State.loseFlows (s : State) (d : Nat) : State :=
  { s with flows := s.flows.map (fun e => (e.1, { e.2 with lostHome := e.2.lostHome || decide (s.holderAt e.1 = d) })) }

/-- R617: a channel both of whose holders are out returns to its reset state, and CV_STATE_LOST is logged. -/
def State.loseChannels (s : State) : State :=
  let out := s.chans.filter (fun e => !s.healthy e.2.holders.1 && !s.healthy e.2.holders.2)
  let s : State := { s with chans := s.chans.filter (fun e => s.healthy e.2.holders.1 || s.healthy e.2.holders.2) }
  out.foldl (fun s e => s.logErr (s.healthyDies.headD 0) 0x0026 0 e.1) s

/-- R480: the jobs that change an object both of whose holders are out complete ABORTED_FAULT, those that a lost die owns or a
record alone holds (R472) when they have a slot again; the object is lost. -/
def State.loseObjects (s : State) : State :=
  let out := (s.syncs.filter (fun e => s.objectLost e.2)).map Prod.fst
  let changes (j : Job) : Bool := j.kind = 6 && out.contains (j.f 0x42 2)
  let orphans := (s.jobs.filter (fun j => changes j && (s.die j.owner).lost)).map (fun j => (j.q, j.s))
  let unslotted := s.queues.flatMap (fun e =>
    (e.2.recovered.map (·.serial)).filterMap (fun n => if changes (arrivedJob s HostView.quiet e.1 n) then some (e.1, n) else none))
  let js := s.jobs.filter (fun j => j.accepted && j.st ≠ .finished && changes j && !(s.die j.owner).lost)
  let s := js.foldl (fun s j => s.complete j.q j.s outAborted) s
  let s : State := { s with openAborts := s.openAborts ++ orphans ++ unslotted }
  { s with syncs := s.syncs.filter (fun e => !out.contains e.1) }

/-- Completions that waited for a store write on a die that is out (R343). -/
def State.settleStore (s : State) : State := s.storeWrites.foldl (fun s w => s.writeCompletions w.q) s

/-! ### What a lost die keeps -/

/-- What a die keeps when it stops: its fuses, repairs, thermal stop and the registers of its window, and RCD_WR_INDEX, which is package-common; HBM, World Store, firmware,
Vault and everything under way are gone. -/
def Die.stop (x : Die) (lost : Bool) : Die :=
  { Die.reset x.fuse with
    lost := lost, keys := x.keys, spares := x.spares, power := { x.power with change := none, owed := false }, gtc := x.gtc, gtcRun := x.gtcRun,
    units := x.units, lanesUmlin := x.lanesUmlin, linksUp := x.linksUp, ldg := { x.ldg with lease := none, unstable := [], reclaim := none, held := [], closing := [] },
    inj := x.inj, injUnlocked := x.injUnlocked, dseq := x.dseq, unacked := x.unacked, sent := x.sent, peers := x.peers,
    trace := { (Die.reset x.fuse).trace with wrIndex := x.trace.wrIndex },
    clusters := x.clusters.map (fun c => { Cluster.reset with failed := c.failed, off := c.off }) }

/-- Step 1 of R469: `state` FAILED written to a die's segment header. -/
def State.writeSegState (s : State) (d v : Nat) : State := s.writeHost (s.regs.segBase.getD d 0 + 5) [BitVec.ofNat 8 v]

/-- The end of the wait of R469 step 4. -/
def State.fenceEnd (s : State) (d : Nat) : Nat :=
  s.now + 150 * countsPerUs + (if d < 2 then s.regs.retrainLimit * countsPerUs else 0)

/-- The supervisor may write host memory, and its egress grants it. -/
def State.supReaches (s : State) : Bool := match s.sup.die with | some k => s.mayReach k | none => false

/-- R469, steps 1 to 4: the fence of a die begins, or waits for the one in progress, or for a supervisor that can write to host memory. -/
def State.startFence (s : State) (d : Nat) (log : Bool) : State :=
  if !s.supReaches || s.sup.fence.isSome || !s.sup.recovering.isEmpty then { s with sup := { s.sup with fenceQueue := s.sup.fenceQueue ++ [(d, log)] } }
  else
    let s := s.writeSegState d 1
    { s with sup := { s.sup with fence := some (d, s.fenceEnd d, log) } }

/-- The next fence that waits begins. -/
def State.nextFence (s : State) : State :=
  match s.sup.fence, s.sup.fenceQueue with
  | none, (d, log) :: rest =>
    if s.supReaches && s.sup.recovering.isEmpty then ({ s with sup := { s.sup with fenceQueue := rest } } : State).startFence d log else s
  | _, _ => s

/-! ### What a job has stored on a die (R467) -/

/-- A job holds contents of its own on a die's stack: checkpoints or its HBM_JOB area. -/
def Job.storedOn (j : Job) (d : Nat) : Bool :=
  match j.run with
  | none => false
  | some r => r.lcs.any (fun l => l.ckpt.die = d && decide (0 < l.ckpt.size)) || (r.work.die = d && decide (0 < r.work.size))

/-- R467: a job that waits, its checkpoint or area lost with a die, is re-dispatched as it stands, suspended or parked: it starts from its first
stage. -/
def State.restartStored (s : State) (d : Nat) : State :=
  let mine := s.jobs.filter (fun j => j.owner ≠ d && j.storedOn d && (j.st = .suspended || j.st = .parked || j.st = .flowWait))
  mine.foldl (fun s j => (s.releaseFlow j.q j.s).modJob j.q j.s (fun x =>
    { x.restart with st := if j.st = .flowWait then .waiting else j.st, moved := x.moved, suspending := false })) s

/-- R467: every job with contents on the stack of a die, which are lost, starts again: the jobs `k` besides. -/
def State.loseStored (s : State) (d : Nat) (k : List (Nat × Nat)) : State :=
  let stored := (s.jobs.filter (fun j => j.owner ≠ d && j.storedOn d && j.st = .ready)).map (fun j => (j.q, j.s))
  (s.redispatchAll (k ++ stored)).restartStored d

/-! ### D3 (R685) -/

/-- A die that is on its way to D3 and is home of no queue any more passes its holdings on, and turns its islands off. -/
def State.enterD3 (s : State) (d : Nat) : State :=
  match (s.die d).power.change with
  | some (3, _, _) =>
    if s.queues.all (fun e => e.2.entry.homeDie ≠ d) && s.jobs.all (fun j => j.owner ≠ d) && (!s.regs.ldgStarted || s.supReaches) then
      let s := ((({ s with ctrl := s.ctrl.filter (fun m => m.src ≠ d && m.dst ≠ d) } : State).loseFlows d).loseStored d []).modDie d (fun x =>
        let y := x.stop false
        { y with power := { y.power with state := 3, change := none, clDisable := x.power.clDisable }, gtcRun := false })
      let s := if s.regs.ldgStarted then s.writeSegState d 2 else s
      (s.exposeHoldings d).renewHolders.settleStore.settle
    else s
  | _ => s

/-- Every die that may enter D3 does. -/
def State.settleD3 (s : State) : State := (List.range s.n).foldl State.enterD3 s

/-! ### Moving a queue, steps 5 and failures (R477, R478) -/

/-- R477 step 5: the queue's home is the target die, which owns its jobs and watches their objects (R496); `busy` clears; moved jobs
resume; the doorbell line is read and delivered. -/
def State.finishMove (s : State) (hv : HostView) (q : Nat) : State :=
  match (s.queue q).moving with
  | none => s
  | some (b, _) =>
    let s := s.modQueue q (fun x => { x with
      moving := none, entry := { x.entry with homeDie := b }, due := setBit x.due 2, recovered := x.recovered.map (fun r => { r with acceptSeq := r.movedSeq }) })
    let rdy := s.sortedJobs (fun j => j.q = q && j.st = .ready)
    let s := rdy.foldl (fun s k => s.unlist k.1 k.2) s
    let s : State := { s with jobs := s.jobs.map (fun j => if j.q = q then
      { j with owner := b, moved := false, acceptSeq := j.movedSeq, binds := j.binds.map (fun b => { b with watched := false }) } else j) }
    let s := rdy.foldl (fun s k => s.enterReady k.1 k.2) s
    let s := if (s.queue q).st = .enabled then (s.unparkAll q).rereadLine hv q else s
    let s := (s.modRegs (fun r => if r.qtbBusy = some q then { r with qtbResult := 0 } else r)).putEntry q
    (s.writeCompletions q).settleD3

/-- R478: the source of a MOVE that has written, or is to write, its MOVE record keeps the queue: a record that waits is not written, and a
written one is followed by records of the jobs that it would take (the spec gives no record for this: DESIGN CHOICE, log entry 60). -/
def State.keepAfterMove (s : State) (q : Nat) : State :=
  let a := (s.queue q).entry.homeDie
  let isMove (it : LedgerItem) : Bool := match it with | .move k _ => k = q | _ => false
  if (s.die a).ldg.held.any isMove then s.modDie a (fun x => { x with ldg := { x.ldg with held := x.ldg.held.filter (fun it => !isMove it) } })
  else
    let own := (s.ownedBy a).filter (fun e => e.1.1 = q)
    let s := (serialRuns (sortKeys (own.map Prod.fst))).foldl (fun s r => s.ledgerWrite a (.accept r.1 r.2.1 r.2.2 4)) s
    (sortKeys ((own.filter (fun e => e.2.2)).map Prod.fst)).foldl (fun s k => s.ledgerWrite a (.suspend k.1 k.2)) s

/-- R478: a MOVE ends with BAD_DIE; the queue stays where it is. -/
def State.failMove (s : State) (q : Nat) : State :=
  let step := ((s.queue q).moving.map Prod.snd).getD 0
  let s := s.modQueue q (fun x => { x with moving := none })
  let s := if step = 3 && s.healthy (s.queue q).entry.homeDie then s.keepAfterMove q else s
  let s : State := { s with jobs := s.jobs.map (fun j => if j.q = q then { j with moved := false, parking := false } else j) }
  let s := (s.sortedJobs (fun j => j.q = q && j.st = .ready)).foldl (fun s k => s.enterReady k.1 k.2) s
  let s := if (s.queue q).st = .enabled then s.unparkAll q else s
  s.modRegs (fun r => if r.qtbBusy = some q then { r with qtbBusy := none, qtbResult := 3 } else r)

/-- R478: what the loss of a die does to the moves in progress; step 3 of R477 is durable from step 3 of `moving`. -/
def State.settleMoves (s : State) (d : Nat) : State :=
  s.queues.foldl (fun s e =>
    match e.2.moving with
    | some (b, k) =>
      if e.2.entry.homeDie = d then (if 3 ≤ k then s.finishMove HostView.quiet e.1 else s.failMove e.1)
      else if b = d then s.failMove e.1
      else s
    | none => s) s

/-! ### The loss of a die -/

/-- R634: a die is lost: its owners' jobs elsewhere are re-dispatched, its own jobs wait for recovery, its holdings are
passed on, and the fence begins. That of a supervisor's die comes before any other but the recovery that it had begun (R32, R473). No error is logged here, but for a die lost before the
Ledger is in use, which has no fence. -/
def State.dropDie (s : State) (d : Nat) (log : Bool) : State :=
  if (s.die d).lost || !decide (d < s.n) then s
  else
    let s := s.settleMoves d
    let others := (s.jobsOnDie d).filter (fun k => match s.job k.1 k.2 with | some j => j.owner ≠ d | none => false)
    let s := (s.loseFlows d).loseStored d others
    let own := s.jobs.filter (fun j => j.owner = d)
    let s : State := { s with jobs := s.jobs.map (fun j =>
      if j.owner = d then { (j.modRun (fun r => { r with placed := false })) with suspending := false, parking := false } else j) }
    let s := own.foldl (fun s j => (s.leaveReady j.q j.s).clearOps j.q j.s) s
    let s := ({ s with ctrl := s.ctrl.filter (fun m => m.src ≠ d && m.dst ≠ d) } : State).modDie d (fun x => x.stop true)
    let was := s.sup.die
    let s := (s.exposeHoldings d).renewHolders.settle
    let again := if was = some d then
        (match s.sup.fence with | some (x, _, l) => [(x, l)] | none => []) ++ s.sup.recovering.map (fun e => (e.1, e.2.1))
      else []
    let s : State := if was = some d then
        { s with sup := { s.sup with fence := none, recovering := [], owes := if s.regs.ldgStarted then some d else s.sup.owes } }
      else s
    let s := if s.regs.ldgStarted then
        ({ s with sup := { s.sup with
          fenceQueue := if was = some d then again ++ (d, log) :: s.sup.fenceQueue else s.sup.fenceQueue ++ [(d, log)] } } : State).nextFence
      else if log then s.logErr (s.sup.die.getD d) 0x0031 (unitCode 15 d) 0 else s
    s.loseObjects.loseChannels.settleStore.settle

/-- A die lost with its DIE_LOST record (R646, R647), logged by the die itself. -/
def State.loseDie (s : State) (d cause : Nat) (injected : Bool := false) : State :=
  if (s.die d).lost || !decide (d < s.n) then s
  else (s.logErr d 0x0031 (unitCode 15 d) cause none injected).dropDie d false

/-- R687, R735: a reset that reaches a die abandons a power-state change; the die leaves the reset in D0, with `cl_disable` as last
written where a change was in progress (`keep`). -/
def DiePower.afterReset (p : DiePower) (share keep : Nat) : DiePower :=
  { DiePower.reset with
    ctl := keep * 8, clDisable := keep, share := share, histSum := share * 10000, hist := [(share, 10000)], temp := p.temp }

/-- `cl_disable` of PWR_DIE_CTL while a power-state change is in progress, else 0. -/
def DiePower.keptDisable (p : DiePower) : Nat := if p.change.isSome then p.ctl / 8 % 32 else 0

/-! ### A die's return to service begins -/

/-- The share of a die before the first division, in 0.125 W (R690, R692). -/
def State.evenShare (s : State) : Nat := s.regs.pwrCap * 8 / Max.max s.n 1

/-- A test unit at the start of an initial pass; failures and quarantines stay (R633). -/
def TestUnit.anew (t : TestUnit) : TestUnit := { TestUnit.fresh with failed := t.failed, quarantined := t.quarantined }

/-- The key fuses of a die (R657): the root hash, the slot hashes, the revocation bits. -/
def Fuses.keyFuses (f : Fuses) : List Byte × List (Option (List Byte)) × Nat := (f.rootHash, f.slotHash, f.revoked)

/-- R654: whether a die requires a countersignature in a lifecycle state. -/
def Fuses.cosigned (f : Fuses) (lc : Nat) : Bool :=
  (lc = 2 || lc = 3) && (List.range 4).any (fun c => (f.slotHash.getD c none).isSome && !bit f.revoked c)

/-- R702: the checks of R662 that the running image could fail on a die with the package's key fuses: its countersignature, if one is required,
its security version, and no firmware boots in SCRAPPED. -/
def Fuses.runs (f : Fuses) (lc : Nat) (w : Firmware) : Bool :=
  !(f.cosigned lc && (bit f.revoked w.slot || f.slotHash.getD w.slot none ≠ some w.keyHash || !w.signed)) && decide (f.rollback ≤ w.svn) && decide (lc ≠ 5)

/-- R21, R633, R634: more GQUs of the die have failed than its spare replaces, so it cannot serve every slice before a power-on reset. -/
def Die.unservable (x : Die) : Bool := decide (2 ≤ (x.units.filter (fun e => e.1 / 4096 = 6 && (e.2.failed || e.2.quarantined))).length)

/-- What bars a die from returning to service, as the cause of DIE_LOST (R634, R657, R662, R702). -/
def State.returnBar (s : State) (d : Nat) : Option Nat :=
  let x := s.die d
  if x.fuse.keyFuses ≠ s.fuse.keyFuses then some 0x0103
  else if x.unservable then some 0x0027
  else match (s.healthyDies.filter (· ≠ d)).head?.bind (fun e => (s.die e).fw) with
    | some w => if x.fuse.runs s.lifecycle w then none else some 0x0104
    | none => none

/-- A die begins its return to service: its window is at reset, its stack is zero, its initial pass starts (R702, R735). -/
def State.beginReturn (s : State) (d keep : Nat) : State :=
  let fw := (s.healthyDies.filter (· ≠ d)).head?.bind (fun e => (s.die e).fw)
  let share := s.evenShare
  s.modDie d (fun x =>
    let y := x.stop false
    { y with
      returning := true, fw := fw, gtcRun := false, inj := List.replicate 8 InjSlot.reset, injUnlocked := false, injRefused := false, arbs := [],
      parts := List.replicate 4 Partition.reset, units := x.units.map (fun e => (e.1, e.2.anew)),
      power := { x.power.afterReset share keep with change := x.power.change },
      clusters := y.clusters.zipIdx.map (fun e => { e.1 with off := e.1.failed || bit keep e.2 }) })

/-- R702: a die begins its return to service, or is lost (again) with what bars it. -/
def State.startReturn (s : State) (d keep : Nat) : State :=
  match s.returnBar d with
  | none => s.beginReturn d keep
  | some c => if (s.die d).lost then s.logErr d 0x0031 (unitCode 15 d) c else s.loseDie d c

end Sys2Proof.Machine
end

