-- ==== Sys2Proof/Machine/Ledger.lean ====
section
/-!
DEFINITION. The Ledger (R449 to R480): durability, what becomes possible with it, the records of a segment as recovery
reads them, moving a queue.
-/
namespace Sys2Proof.Machine

/-! ### Waits of a job (R485 to R491) -/

/-- A mask read under a mode (R57, R487): 0 ALL, 1 ANY; an empty mask holds. -/
def maskHolds (mask mode flags : Nat) : Bool :=
  if mask = 0 then true else if mode = 0 then mask &&& flags = mask else mask &&& flags ≠ 0

/-- A job's wait condition holds. -/
def Job.waitHolds (j : Job) : Bool := maskHolds (j.f 0x10 8) (j.f 0x29 1) j.flags

/-- An event flag set (R486); the flag that completes the wait condition is noted. -/
def Job.raise (j : Job) (f : Nat) : Job :=
  { j with flags := setBit j.flags f, lastFlag := if j.waitHolds then j.lastFlag else f }

/-- R491: the flag of a binding to a sync object holds. -/
def State.syncHolds (s : State) (b : Bind) : Bool :=
  match s.syncs.get b.object with
  | none => false
  | some o =>
    if o.typ = 0 then decide (b.value ≤ o.value)
    else if o.typ = 1 then o.fired
    else (s.world o.world).st = .ready && decide (b.value ≤ (s.world o.world).visible)

/-- The job with the flags of its SYNC bindings that hold now (R486, R491). -/
def State.evalBinds (s : State) (j : Job) : Job :=
  j.binds.foldl (fun j b => if b.source = 0 && s.syncHolds b then j.raise b.flag else j) j

/-! ### Durability (R450, R451, R461, R462) -/

/-- A job accepted (R449, R481): it waits, or its outcome is already decided, or its queue is being withdrawn, or it was
recovered in the suspended state (R467). -/
def State.becomeAccepted (s : State) (q n : Nat) : State :=
  match s.job q n with
  | none => s
  | some j =>
    if j.st ≠ .accepting then s
    else
      let g := s.gtc j.owner
      let s := s.modJob q n (fun j => s.evalBinds { j with st := .waiting, acceptedAt := g })
      match j.outcome with
      | some o => s.complete q n o
      | none =>
        if j.suspending then s.modJob q n (fun j => { j with st := .suspended, suspending := false })
        else if (s.queue q).st = .withdrawing ∨ (s.queue q).st = .withdrawn then
          (s.modJob q n (fun j => { j with st := .parked })).settleQueue q
        else s

/-- The serials of a run. -/
def runSerials (n c : Nat) : List Nat := tabulate c (fun i => serialAdd n i)

/-- R465: the key entries of a run of closed jobs are dropped. -/
def State.dropKeys (s : State) (q n c : Nat) : State :=
  { s with syncs := s.syncs.map (fun e => (e.1,
      { e.2 with keys := e.2.keys.filter (fun k => !(k.q = q && decide (serialAhead k.s n < c))) })) }

/-- R452, R465: a CLOSE of a die is durable: it owns the jobs of the run no more, and their key entries are dropped. -/
def State.closeDurable (s : State) (d q n c : Nat) : State :=
  (s.dropKeys q n c).modDie d (fun x => { x with ldg := { x.ldg with
    closing := x.ldg.closing.filter (fun e => !(e.1 = q && decide (serialAhead e.2.1 n < c))) } })

/-- Control jobs that waited for a record complete. -/
def State.completeControls (s : State) (l : List (Nat × Nat)) : State := l.foldl (fun s k => s.complete k.1 k.2 outDone) s

/-- A job's SUSPEND record is durable: the SUSPEND that waited for it completes (R466, R520). -/
def State.suspendDurable (s : State) (q n : Nat) : State := s.completeControls (s.controlsOf 7 2 q n)

/-- A job's RESUME record is durable: the RESUME completes (R466). -/
def State.resumeDurable (s : State) (q n : Nat) : State := s.completeControls (s.controlsOf 8 1 q n)

/-- What the durability of one item enables. -/
def State.itemDurable (s : State) (hv : HostView) (d : Nat) (it : LedgerItem) : State :=
  match it with
  | .accept q n c fl =>
    if bit fl 2 then s
    else if bit fl 1 then s
    else
      let s := (runSerials n c).foldl (fun s k => s.becomeAccepted q k) (s.publishAccepted q (serialAdd n c))
      let s := s.traceEv d 0x01 q n 0 c
      if bit fl 0 then ((s.modQueue q (fun x => { x with due := setBit x.due 2 })).putEntry q).rereadLine hv q else s
  | .completion _ _ => s
  | .close q n c => s.closeDurable d q n c
  | .move q _ => s.finishMove hv q
  | .suspend q n => s.suspendDurable q n
  | .resume q n => s.resumeDurable q n
  | .header => s
  | .error e k => s.ackError e k

/-- The completions among durable items, as runs to close (R461 step 7). -/
def closeRuns (l : List (LedgerItem × Nat × List Byte)) : List (Nat × Nat × Nat) :=
  serialRuns (l.filterMap (fun e => match e.1 with | .completion q n => some (q, n) | _ => none))

/-- The liveness word in a die's segment header (R456). -/
def State.livenessWord (s : State) (a : Nat) : Nat := s.host.readLE (s.regs.segBase.getD a 0 + 8) 8

/-- R458, steps 5 and 6: once the records are durable the header is written; once that is durable the record writes go on. -/
def State.stepReclaim (s : State) (d : Nat) : State :=
  match (s.die d).ldg.reclaim with
  | none => s
  | some 1 =>
    (s.modDie d (fun x => { x with ldg := { x.ldg with reclaim := some 2, base := x.ldg.base + 8192 } })).writeHeader d 0 (s.livenessWord d)
  | some _ => s.modDie d (fun x => { x with ldg := { x.ldg with reclaim := none } })

/-- R477, step 4: when the target's records of a move are durable, the source writes its MOVE record. -/
def State.stepMoves (s : State) (d : Nat) : State :=
  s.queues.foldl (fun s e =>
    match e.2.moving with
    | some (b, 2) =>
      if b = d && !s.recordsPending e.1 then
        (s.modQueue e.1 (fun x => { x with moving := some (b, 3) })).ledgerWrite e.2.entry.homeDie (.move e.1 b)
      else s
    | _ => s) s

/-- A recovered job as it takes a slot: suspended as its records say, with its pins (R464), aborted where it changed a lost object
(R480). -/
def State.recoveredAs (s : State) (j : Job) (r : Recovered) : Job :=
  { j with
    suspending := r.held, pinPlan := r.pinPlan, pinBodies := r.pinBodies, pinWorld := r.pinWorld
    outcome := if s.openAborts.contains (j.q, j.s) && j.outcome.isNone then some outAborted else j.outcome }

/-- R472: recovered jobs without a slot are placed in slots in ascending serial order, once their records are durable (R452) and while their
queue is not moving (R477). -/
def State.placeRecovered (s : State) (hv : HostView) (q : Nat) : State :=
  let x := s.queue q
  match x.recovered with
  | [] => s
  | r :: rest =>
    if s.acceptedOn x.entry.homeDie < 4096 && x.moving.isNone && !s.recordsPending q then
      let j := { s.recoveredAs (arrivedJob s hv q r.serial) r with acceptSeq := r.acceptSeq }
      (({ s with jobs := s.jobs ++ [j], openAborts := s.openAborts.filter (· ≠ (q, r.serial)) } : State).modQueue q
        (fun y => { y with recovered := rest })).becomeAccepted q r.serial
    else s

/-- Recovered jobs of every queue, as far as slots are free. -/
def State.placeAllRecovered (s : State) (hv : HostView) : State := s.queues.foldl (fun s e => s.placeRecovered hv e.1) s

/-- Everything a die wrote before an ordering read is durable (R450): the actions that waited on it follow, a reclaim's next step (R458) and
then the CLOSE records of the durable completions (R461). -/
def State.allDurable (s : State) (hv : HostView) (d : Nat) : State :=
  let l := (s.die d).ldg.unstable
  let s := (s.modDie d (fun x => { x with ldg := { x.ldg with unstable := [] } })).stepReclaim d
  let s := l.foldl (fun s e => s.itemDurable hv d e.1) s
  let s := (closeRuns l).foldl (fun s r => s.ledgerWrite d (.close r.1 r.2.1 r.2.2)) s
  ((s.stepMoves d).placeAllRecovered hv).flushDie d

/-- R457: a die that learns it is fenced, or that holds no lease, resets itself as a die reset and takes no further part
in the package until it returns to service. -/
def State.selfReset (s : State) (d : Nat) : State :=
  (({ s with sec := { s.sec with challenge := none } } : State).dropDie d true).startReturn d (s.die d).power.keptDisable

/-- R476: an ordering read of a segment has failed at a time: the retries of three start, unless they have. -/
def Ledger.retry (l : Ledger) (now : Nat) : Ledger := if l.retries.isSome then l else { l with retries := some 3, retryAt := now }

/-- R476: the same for a read of a segment to reconcile or recover. -/
def Ledger.retrySeg (l : Ledger) (now : Nat) : Ledger := if l.segRetries.isSome then l else { l with segRetries := some 3, retryAt := now }

/-- R450, R457, R461, R476: the ordering read of a die returns its segment header. An error starts the retries; a `state` other than LIVE
makes the die reset itself; LIVE renews its lease and makes what it wrote before durable. -/
def State.orderingRead (s : State) (hv : HostView) (d : Nat) : State :=
  match s.readHost hv (s.regs.segBase.getD d 0) 64 with
  | none => if s.pins.fatal then s else s.modDie d (fun x => { x with ldg := x.ldg.retry s.now })
  | some h =>
    if field h 5 1 ≠ 0 then s.selfReset d
    else (s.modDie d (fun x => { x with
      stays := false, ldg := { x.ldg with lease := some (s.now + 150 * countsPerUs), retries := none } })).allDurable hv d

/-- LIVENESS_ADVANCE (R29, R456): the liveness word in the die's own segment header advances. -/
def execLivenessAdvance (d : Nat) (s : State) : Host.Outcome State Fault Refusal :=
  if s.healthy d && (s.die d).ldg.inUse && s.mayWrite d then
    s.cross [atEgress d 0] (fun s => ((s.writeHeader d 0 (s.gtc d)).modDie d (fun x => { x with ldg := { x.ldg with liveFrom := s.now } })).done)
  else s.idle

/-- LEASE_EXPIRY (R457): a die whose lease has run out issues no host write until an ordering read gives it a new one. -/
def execLeaseExpiry (d : Nat) (s : State) : Host.Outcome State Fault Refusal :=
  match (s.die d).ldg.lease with
  | some t =>
    if s.healthy d && (s.die d).ldg.inUse && decide (t ≤ s.now) then .next (s.modDie d (fun x => { x with ldg := { x.ldg with lease := none } }))
    else s.idle
  | none => s.idle

/-! ### Moving a queue, steps 2 and 3 (R477) -/

/-- The contents of a job's checkpoints and of its HBM_JOB area travel with it; their areas are released. -/
def State.carryRegions (s : State) (j : Job) : Job :=
  let sp := ((s.planOf j).map (·.spadPerLc)).getD 0
  j.modRun (fun r => { r with
    placed := false
    carried := if r.work.size = 0 then r.carried else some ((s.die r.work.die).loadRegion r.work.base r.work.size)
    work := ⟨r.work.die, 0, 0⟩
    lcs := r.lcs.map (fun l =>
      if l.ckpt.size = 0 then l
      else
        let (a, b) := unpackRegion sp ((s.die l.die).loadRegion l.ckpt.base l.ckpt.size)
        { l with resident := true, ckpt := ⟨l.die, 0, 0⟩, spad := a, acc := b }) })

/-- The open jobs of a queue in order, those without a slot too, each with whether it is suspended (R472, R477). -/
def State.openKeys (s : State) (q : Nat) : List ((Nat × Nat) × Bool) :=
  let held (k : Nat × Nat) : Bool := s.jobs.any (fun j => (j.q, j.s) = k && j.st = .suspended) || (s.queue q).recovered.any (fun r => (q, r.serial) = k && r.held)
  (sortKeys ((s.jobs.filter (fun j => j.q = q)).map (fun j => (j.q, j.s)) ++ (s.queue q).recovered.map (fun r => (q, r.serial)))).map (fun k => (k, held k))

/-- MOVE_TRANSFER (R477): no job of the queue runs any more; the target die receives the jobs and writes ACCEPT records
with MOVED set for the open serials, and SUSPEND records for the suspended ones. -/
def execMoveTransfer (q : Nat) (s : State) : Host.Outcome State Fault Refusal :=
  match (s.queue q).moving with
  | some (b, 1) =>
    if s.healthy b && s.jobs.all (fun j => j.q ≠ q || (j.st ≠ .running && j.st ≠ .accepting)) then
      s.cross (s.overUmlin (s.queue q).entry.homeDie b 1 0) fun s =>
      let s := s.modQueue q (fun x => { x with moving := some (b, 2) })
      let s : State := { s with jobs := s.jobs.map (fun j => if j.q = q && (j.st = .parked || j.st = .suspended) then s.carryRegions j else j) }
      let all := s.openKeys q
      let s := (serialRuns (all.map Prod.fst)).foldl (fun s r => s.ledgerWrite b (.accept r.1 r.2.1 r.2.2 2)) s
      (((all.filter Prod.snd).map Prod.fst).foldl (fun s k => s.ledgerWrite b (.suspend k.1 k.2)) s).done
    else s.idle
  | _ => s.idle

/-! ### Segments as recovery reads them (R460, R470) -/

/-- A record of a segment. -/
structure LedgerRec where
  type : Nat
  queue : Nat
  count : Nat
  serial : Nat
  seq : Nat
  deriving DecidableEq, Repr

/-- R460: the record in slot `i` of a segment when it is valid. -/
def validRecord (base slots i : Nat) (b : List Byte) : Option LedgerRec :=
  let ty := field b 0 1
  let fl := field b 1 1
  let seq := field b 0x10 8
  let cnt := field b 4 2
  let okCount := if ty ≤ 2 then decide (1 ≤ cnt ∧ cnt ≤ 256) else if ty = 3 then cnt = 0 else cnt = 1
  if field b 0x1C 4 = crc32c (b.take 28) ∧ base ≤ seq ∧ seq < base + slots ∧ seq % slots = i ∧ 1 ≤ ty ∧ ty ≤ 5 ∧
      fl < (if ty = 1 then 8 else 1) ∧ field b 2 2 < 16384 ∧ okCount = true ∧ (ty = 3 ∨ field b 6 1 = 0) ∧ field b 7 1 = 0 ∧
      field b 8 8 < serials then
    some { type := ty, queue := field b 2 2, count := cnt, serial := field b 8 8, seq := seq }
  else none

/-- The valid records of a die's segment in ascending sequence. -/
def State.segRecords (s : State) (d base : Nat) : List LedgerRec :=
  let a := s.regs.segBase.getD d 0 + 4096
  let slots := s.regs.segSlots
  sortBy (fun x y => decide (x.seq < y.seq))
    ((List.range slots).filterMap (fun i => validRecord base slots i (s.host.read (a + 32 * i) 32)))

/-- What the records leave open, and which of the open jobs are suspended (R470). -/
def openJobs : List LedgerRec → List (Nat × Nat) × List (Nat × Nat) → List (Nat × Nat) × List (Nat × Nat)
  | [], acc => acc
  | r :: rest, (op, held) =>
    let rng := (runSerials r.serial r.count).map (fun n => (r.queue, n))
    openJobs rest
      (match r.type with
       | 1 => (op ++ rng.filter (fun k => !op.contains k), held)
       | 2 => (op.filter (fun k => !rng.contains k), held)
       | 3 => (op.filter (fun k => k.1 ≠ r.queue), held.filter (fun k => k.1 ≠ r.queue))
       | 4 => (op, held ++ [(r.queue, r.serial)])
       | _ => (op, held.filter (fun k => k ≠ (r.queue, r.serial))))

/-- The entry of a queue as recovery knows it: the device's own, or the Queue Table's. -/
def State.entryOf (s : State) (q : Nat) : QEntry :=
  if (s.queue q).everEnabled then (s.queue q).entry else parseEntry (s.host.read (s.qtbAddr q) 64)

/-- R470: the completion slot of a job already holds its completion, or a later one. -/
def State.slotComplete (s : State) (q n : Nat) : Bool :=
  let e := s.entryOf q
  let x : Queue := { Queue.reset with entry := e }
  let v := s.host.readLE (x.cplAddr n) 8
  decide (v < serials) && serialAtOrAfter v n

/-- A die's segment is in use (R456). -/
def State.segUsed (s : State) (d : Nat) : Bool := s.host.readLE (s.regs.segBase.getD d 0) 4 = 0x4744454C

/-- The jobs that a segment's valid records leave open, and the suspended ones (R470). -/
def State.recordsOpen (s : State) (d : Nat) : List (Nat × Nat) × List (Nat × Nat) :=
  if s.segUsed d then openJobs (s.segRecords d (s.host.readLE (s.regs.segBase.getD d 0 + 0x10) 8)) ([], []) else ([], [])

/-- R465: the key entries of the jobs that recovery of a die finds complete are dropped. -/
def State.dropComplete (s : State) (d : Nat) : State :=
  ((s.recordsOpen d).1.filter (fun k => s.slotComplete k.1 k.2)).foldl (fun s k => s.dropKeys k.1 k.2 1) s

/-- The open jobs of a segment that are not complete and that no healthy die owns, and the suspended ones among them. -/
def State.openOf (s : State) (d : Nat) : List (Nat × Nat) × List (Nat × Nat) :=
  let (op, held) := s.recordsOpen d
  let op := op.filter (fun k => !s.slotComplete k.1 k.2 &&
    !(match s.job k.1 k.2 with | some j => s.healthy j.owner && j.owner ≠ d && j.accepted | none => false))
  (op, held.filter op.contains)

end Sys2Proof.Machine
end

