-- ==== Sys2Proof/Machine/Waits.lean ====
section
/-!
DEFINITION. Waits, sync objects, atomic flows, signals, deadlines (R485 to R501, R518), and the abort of test slices by an
unannounced safety-class job (R571, R572, R601).
-/
namespace Sys2Proof.Machine

/-! ### Job windows and test slices (R569 to R572, R594, R601) -/

/-- The engine kinds and dies of a job's window before dispatch (R571). -/
def State.jobWindow (s : State) (j : Job) : Nat × List Nat :=
  match j.kind with
  | 1 =>
    match (s.planSlot (j.f 0x40 1)).plan with
    | some p => (p.engineMask, if p.scope = 0 then [j.owner] else s.healthyDies)
    | none => (0, [])
  | 4 => (0x20, s.healthyDies)
  | 5 => (0x20, s.healthyDies)
  | _ => (0, [])

/-- R571: the engine kinds and dies of the window of a job as it stands: from dispatch, the dies that host it. -/
def State.jobWindowNow (s : State) (j : Job) : Nat × List Nat :=
  let (m, ds) := s.jobWindow j
  if j.dispatched && j.kind = 1 then (m, (j.regions.map (·.die)).eraseDups) else (m, ds)

/-- A declared window covers engine kinds on dies (R569). -/
def Window.covers (w : Window) (mask : Nat) (dies : List Nat) : Bool :=
  bitsOf w.units 7 0 &&& mask = mask && dies.all (fun d => bit w.units (16 + d))

/-- R572: the job is announced. -/
def State.announced (s : State) (j : Job) : Bool :=
  let (m, ds) := s.jobWindow j
  s.regs.rsv.any (fun w => w.openAt (s.gtc j.owner) && w.covers m ds)

/-- R571: the window of a job over engine kinds covers a unit: a scratchpad bank, which any engine kind uses, where it is a RUN's. -/
def Job.windowOn (j : Job) (m u : Nat) : Bool := if u / 4096 = 5 then j.kind = 1 && m ≠ 0 else unitEngines u &&& m ≠ 0

/-- R601: an unannounced safety-class job that enters READY aborts the slices on the units of its window. -/
def State.abortSlices (s : State) (j : Job) : State :=
  if s.group j.q ≠ 0 || s.announced j then s
  else
    let (m, ds) := s.jobWindow j
    ds.foldl (fun s d => s.modDie d (fun x =>
      { x with units := x.units.map (fun e =>
          if j.windowOn m e.1 then (e.1, { e.2 with running := none }) else e) })) s

/-- A job enters READY from its waits (R503, R601). -/
def State.becomeReady (s : State) (j : Job) : State := (s.enterReady j.q j.s).abortSlices j

/-! ### Waits -/

/-- WAIT_MET (R490): the wait condition holds: the job enters FLOW_WAIT or READY. -/
def execWaitMet (q n : Nat) (s : State) : Host.Outcome State Fault Refusal :=
  match s.job q n with
  | none => s.idle
  | some j =>
    if j.accepted && !j.met && !j.dispatched && j.st ≠ .finished && j.waitHolds then
      let s := s.modJob q n (fun j => { j with met := true })
      let s := s.traceEv j.owner 0x02 q n (if j.f 0x10 8 = 0 then 0xFF else j.lastFlag) 0
      if j.st ≠ .waiting then .next s
      else if j.flow = 0 then .next (s.becomeReady j)
      else .next (s.modJob q n (fun j => { j with st := .flowWait }))
    else s.idle

/-- R489: the flags of the GTC bindings that are due at a count are set. -/
def Job.dueBy (j : Job) (g : Nat) : Job := j.binds.foldl (fun j b => if b.source = 1 && decide (b.value ≤ g) then j.raise b.flag else j) j

/-- A deadline has passed (R518). -/
def State.expired (s : State) (j : Job) : Bool := j.f 0x18 8 ≠ 0 && decide (j.f 0x18 8 < s.gtc j.owner)

/-- WAIT_TIMEOUT (R482, R488): the wait condition has not held by the last count of the timeout, GTC bindings that are due in it
included; a deadline that has passed by that count decides instead. -/
def execWaitTimeout (q n : Nat) (s : State) : Host.Outcome State Fault Refusal :=
  match s.job q n with
  | none => s.idle
  | some j =>
    let t := j.acceptedAt + j.f 4 4
    if j.accepted && !j.met && !j.dispatched && j.st ≠ .finished && !(j.dueBy t).waitHolds && decide (t ≤ s.gtc j.owner) then
      (s.complete q n (if s.expired j && decide (j.f 0x18 8 < t) then outExpired else outTimeout 0xFF)).done
    else s.idle

/-- DEADLINE_EXPIRY (R518): a job that has not been dispatched completes EXPIRED. -/
def execDeadlineExpiry (q n : Nat) (s : State) : Host.Outcome State Fault Refusal :=
  match s.job q n with
  | none => s.idle
  | some j =>
    if j.accepted && !j.dispatched && j.st ≠ .finished && s.expired j then (s.complete q n outExpired).done else s.idle

/-! ### Sync objects (R491 to R497) -/

/-- R496: the primary holder of an object sends its notice to a die, unless one is under way. -/
def State.notify (s : State) (o d : Nat) : State :=
  let h := (s.holdersOf o).1
  if s.ctrl.any (fun m => m.src = h && m.dst = d && m.body = .notify o) then s else s.sendCtrl h d (.notify o)

/-- SYNC_WATCH (R496): the owner registers a watch for the job's SYNC bindings with the primary holders of their objects, over Umlin in class
CTRL; one that holds already is notified. -/
def execSyncWatch (q n : Nat) (s : State) : Host.Outcome State Fault Refusal :=
  match s.job q n with
  | none => s.idle
  | some j =>
    let objects := ((j.binds.filter (fun b => b.source = 0)).map (·.object)).eraseDups
    if j.accepted && j.st ≠ .finished then
      s.cross (objects.flatMap (fun o => s.overUmlin j.owner (s.holdersOf o).1 0 o)) fun s =>
      let hit (b : Bind) : Bool := b.notice || s.syncHolds b
      let t := s.modJob q n (fun j =>
        { j with binds := j.binds.map (fun b => if b.source = 0 then { b with watched := true, notice := hit b } else b) })
      .next ((objects.filter (fun o => j.binds.any (fun b => b.source = 0 && b.object = o && hit b))).foldl (fun s o => s.notify o j.owner) t)
    else s.idle

/-- The bindings of accepted jobs to an object that hold now are to be notified: at once on the dies that watch it, on the others when their
watch is registered (R486, R496). -/
def State.noticeObject (s : State) (o : Nat) : State :=
  let due (j : Job) (b : Bind) : Bool := j.accepted && j.st ≠ .finished && b.source = 0 && b.object = o && s.syncHolds b
  let ds := ((s.jobs.filter (fun j => j.binds.any (fun b => due j b && b.watched))).map (·.owner)).eraseDups
  ds.foldl (fun s d => s.notify o d) { s with jobs := s.jobs.map (fun j =>
      { j with binds := j.binds.map (fun b => if due j b then { b with notice := true } else b) }) }

/-- The watched bindings to the fences of a world that hold now are to be notified (R497). -/
def State.noticeWorld (s : State) (w : Nat) : State :=
  (s.syncs.filter (fun e => e.2.typ = 2 && e.2.world = w)).foldl (fun s e => s.noticeObject e.1) s

/-- A channel is exposed and a holder survives. -/
def State.channelWaits (s : State) (c : Nat) : Option Chan :=
  match s.chans.get c with
  | some y => if y.exposed && (s.healthy y.holders.1 || s.healthy y.holders.2) then some y else none
  | none => none

/-- SYNC_HOLDER_COPY (R465, R615): the surviving holder copies the state of sync object `o` to another healthy die, or,
when that object waits for no copy, the state of envelope channel `o`. -/
def execSyncHolderCopy (o : Nat) (s : State) : Host.Outcome State Fault Refusal :=
  let object := match s.syncs.get o with
    | some x => if x.exposed && !s.objectLost x then some x else none
    | none => none
  match object, s.channelWaits o with
  | some x, _ => .next { s with syncs := s.syncs.insert o { x with exposed := false, holders := s.holdersOf o } }
  | none, some y => .next { s with chans := s.chans.insert o { y with exposed := false, holders := s.holdersOf o } }
  | none, none => s.idle

/-- The signal job under way, of the given `op` (R430). -/
def State.signalJob (s : State) (q n op : Nat) : Option Job :=
  match s.job q n with
  | some j => if j.st = .running && j.kind = 6 && j.f 0x40 1 = op then some j else none
  | none => none

/-- R465: a change of a sync object under its key: applied once, to both copies, before it is reported; it waits while
a copy is being made. `f` gives the object after the change and the job's result. -/
def State.changeObject (s : State) (j : Job) (f : Option SyncObj → SyncObj × Nat) : State :=
  let o := j.f 0x42 2
  let old := s.syncs.get o
  match old with
  | some x =>
    if x.exposed then s
    else match x.keys.find? (fun k => k.q = j.q && k.s = j.s) with
      | some k => s.complete j.q j.s (outDone k.result)
      | none =>
        let (y, r) := f old
        let s : State := { s with syncs := s.syncs.insert o { y with keys := x.keys ++ [⟨j.q, j.s, r⟩] } }
        (s.noticeObject o).complete j.q j.s (outDone r)
  | none =>
    let (y, r) := f none
    let s : State := { s with syncs := s.syncs.insert o { y with keys := [⟨j.q, j.s, r⟩] } }
    (s.noticeObject o).complete j.q j.s (outDone r)

/-- An object of no type, held where R495 puts it. -/
def State.blankObject (s : State) (o : Nat) : SyncObj :=
  { typ := 0, value := 0, fired := false, world := 0, keys := [], holders := s.holdersOf o, exposed := false }

/-- SIGNAL_POST (R491, R494): the value is added, saturating; the result is the value after. -/
def execSignalPost (q n : Nat) (s : State) : Host.Outcome State Fault Refusal :=
  match s.signalJob q n 0 with
  | none => s.idle
  | some j =>
    (s.changeObject j (fun x =>
      let x := x.getD (s.blankObject (j.f 0x42 2))
      let v := Min.min (x.value + j.f 0x48 8) (2 ^ 64 - 1)
      ({ x with value := v }, v))).done

/-- SIGNAL_FIRE (R491, R494). -/
def execSignalFire (q n : Nat) (s : State) : Host.Outcome State Fault Refusal :=
  match s.signalJob q n 1 with
  | none => s.idle
  | some j => (s.changeObject j (fun x => ({ x.getD (s.blankObject (j.f 0x42 2)) with fired := true }, 0))).done

/-- SIGNAL_INIT (R492): the type from `aux`, then the state. -/
def execSignalInit (q n : Nat) (s : State) : Host.Outcome State Fault Refusal :=
  match s.signalJob q n 2 with
  | none => s.idle
  | some j =>
    let aux := j.f 0x50 8
    (s.changeObject j (fun x =>
      ({ x.getD (s.blankObject (j.f 0x42 2)) with
         typ := aux % 4, value := if aux % 4 = 0 then j.f 0x48 8 else 0, fired := false, world := aux / 256 % 64 }, 0))).done

/-- NOP (R424): completes DONE once its wait is met. -/
def execNop (q n : Nat) (s : State) : Host.Outcome State Fault Refusal :=
  match s.job q n with
  | some j => if j.st = .running && j.kind = 0 then (s.complete q n outDone).done else s.idle
  | none => s.idle

/-! ### Atomic flows (R498 to R501) -/

/-- A flow's state. -/
def State.flowState (s : State) (f : Nat) : Flow := s.flows.getD f ⟨none, [], false⟩

/-- FLOW_REQ (R498): a job in FLOW_WAIT requests its flow; the request goes to the flow home. -/
def execFlowReq (q n : Nat) (s : State) : Host.Outcome State Fault Refusal :=
  match s.job q n with
  | none => s.idle
  | some j =>
    let f := s.flowState j.flow
    if j.accepted && j.met && !j.dispatched && j.st ≠ .finished && j.flow ≠ 0 && f.holder ≠ some (q, n) &&
        f.waiting.all (fun w => (w.1, w.2.1) ≠ (q, n)) then
      s.cross (s.overUmlin j.owner (s.holderAt j.flow) 0 j.flow) fun s =>
      .next (({ s with flows := s.flows.insert j.flow { f with waiting := f.waiting ++ [(q, n, s.gtc j.owner)] } } : State).traceEv
        j.owner 0x03 q n 0 j.flow)
    else s.idle

/-- R498: the order of requests: by time, then queue, then serial. -/
def flowBefore (a b : Nat × Nat × Nat) : Bool :=
  decide (a.2.2 < b.2.2) || (a.2.2 = b.2.2 && (decide (a.1 < b.1) || (a.1 = b.1 && decide (a.2.1 < b.2.1))))

/-- FLOW_GRANT (R498, R499): the flow home grants the flow to the request first in order. -/
def execFlowGrant (f : Nat) (s : State) : Host.Outcome State Fault Refusal :=
  let x := s.flowState f
  if x.holder.isSome || x.lostHome then s.idle
  else match (sortBy flowBefore x.waiting).head? with
    | none => s.idle
    | some w =>
      let way := ((s.job w.1 w.2.1).map (fun j => s.overUmlin (s.holderAt f) j.owner 0 f)).getD []
      s.cross way fun s =>
      let s : State := { s with flows := s.flows.insert f { x with holder := some (w.1, w.2.1), waiting := x.waiting.filter (· ≠ w) } }
      match s.job w.1 w.2.1 with
      | none => .next s
      | some j =>
        let s := s.traceEv j.owner 0x04 j.q j.s 0 f
        if j.st = .flowWait then .next (s.becomeReady j) else .next s

/-- FLOW_HOME_REBUILD (R501): the new flow home has the holder and the requests in order of their original GTC. -/
def execFlowHomeRebuild (f : Nat) (s : State) : Host.Outcome State Fault Refusal :=
  let x := s.flowState f
  if x.lostHome then .next { s with flows := s.flows.insert f { x with lostHome := false, waiting := sortBy flowBefore x.waiting } }
  else s.idle

end Sys2Proof.Machine
end

