-- ==== Sys2Proof/Machine/Units.lean ====
section
/-!
DEFINITION. Units, spares and quarantine (R21, R22, R156, R566, R574, R575, R624 to R637), Tinker's test units and slices
(R594 to R608), and the unit events of the die manager (R577, R753).
-/
namespace Sys2Proof.Machine

/-! ### Units (R594, R645) -/

/-- The cluster of a unit of a cluster. -/
def unitCluster (u : Nat) : Nat := if u / 4096 = 2 then u % 4096 / 529 else u % 8

/-- The unit of a whole tensor array, of the divider lanes, of a Selection Unit, of a bank, of a GQU. -/
def arrayUnit (c : Nat) : Nat := unitCode 2 (529 * c + 528)
/-- The divider lanes of a cluster. -/
def lanesUnit (c : Nat) : Nat := unitCode 4 c
/-- The selection network of a cluster. -/
def selectUnit (c : Nat) : Nat := unitCode 13 c
/-- A scratchpad bank. -/
def bankUnit (c b : Nat) : Nat := unitCode 5 (c + 8 * b)
/-- A GQU. -/
def gquUnit (g : Nat) : Nat := unitCode 6 g
/-- A cluster as a unit. -/
def clusterUnit (c : Nat) : Nat := unitCode 1 c

/-- The test unit that a unit belongs to (R594). -/
def testUnitOf (u : Nat) : Option Nat :=
  match u / 4096 with
  | 2 => some (arrayUnit (unitCluster u))
  | 3 => some (lanesUnit (unitCluster u))
  | 4 => some (lanesUnit (unitCluster u))
  | 5 => some u
  | 6 => some u
  | 13 => some u
  | _ => none

/-- The test units of a cluster. -/
def clusterUnits (c : Nat) : List Nat := [arrayUnit c, lanesUnit c, selectUnit c] ++ tabulate 66 (bankUnit c)

/-- The test units of a die. -/
def dieUnits : List Nat := (List.range 5).flatMap clusterUnits ++ tabulate 33 gquUnit

/-- The slices of a unit's test (R594). -/
def slicesOf (u : Nat) : Nat :=
  match u / 4096 with
  | 2 => 4
  | 5 => 8
  | _ => 1

/-- The worst-case length of a slice in GTC counts (R594). -/
def sliceLength (u : Nat) : Nat :=
  countsPerUs * (match u / 4096 with
    | 2 => 18
    | 4 => 6
    | 13 => 4
    | 5 => 16
    | _ => 12)

/-- The test kind of a unit (R609). -/
def testKind (u : Nat) : Nat :=
  match u / 4096 with
  | 2 => 0
  | 4 => 1
  | 13 => 2
  | 5 => 3
  | _ => 4

/-- A test unit of a die changed. -/
def State.modUnit (s : State) (d u : Nat) (f : TestUnit → TestUnit) : State :=
  s.modDie d (fun x => { x with units := x.units.insert u (f (x.unit u)) })

/-- A cluster of a die changed. -/
def State.modCluster (s : State) (d c : Nat) (f : Cluster → Cluster) : State :=
  s.modDie d (fun x => { x with clusters := x.clusters.modify c f })

/-- The spare mapping of a die changed. -/
def State.modSpares (s : State) (d : Nat) (f : Spares → Spares) : State := s.modDie d (fun x => { x with spares := f x.spares })

/-- Cluster `c` of a die. -/
def Die.cluster (x : Die) (c : Nat) : Cluster := x.clusters.getD c Cluster.reset

/-- R627: the last test of a unit passed, within its interval. -/
def TestUnit.proven (t : TestUnit) : Bool := t.tested && !t.overdue && !t.failed && !t.quarantined && t.suspect.isNone

/-- A die has completed its part of the initial pass (R606): every test unit has been tested or has failed. -/
def Die.passDone (x : Die) : Bool := dieUnits.all (fun u => (x.unit u).since.isSome || (x.unit u).failed)

/-! ### Which units serve (R21, R35, R566, R624, R635) -/

/-- R21: the GQU that serves a slice when `f` is the failed position (63 none). -/
def gquOf (f k : Nat) : Nat := if k < f then k else k + 1

/-- R356, R624, R682: the clusters in a position: C0 to C3 but a replaced, failed or disabled one, and C4 while it is mapped
in. -/
def Die.serving (x : Die) : List Nat :=
  (List.range 5).filter (fun c => !(x.cluster c).failed && !((x.cluster c).off && bit x.power.clDisable c) && (if c < 4 then x.spares.clMap ≠ c else x.spares.clMap ≠ 7))

/-- R312: the pipeline that serves a lane of a cluster's Solver Unit: the spare, while the lane's own has failed. -/
def Die.pipelineOf (x : Die) (c lane : Nat) : Nat := if (x.spares.divs.getD c []).contains lane then 16 else lane

/-- A test unit is in the safety-eligible set (R566). -/
def TestUnit.eligible (t : TestUnit) : Bool := !t.failed && !t.quarantined && !t.removed && t.suspect.isNone

/-- A cluster's units are in the safety-eligible set. -/
def Die.clusterEligible (x : Die) (c : Nat) : Bool :=
  (x.unit (arrayUnit c)).eligible && (x.unit (lanesUnit c)).eligible && (x.unit (selectUnit c)).eligible &&
    (x.spares.mappedBanks c).all (fun b => (x.unit (bankUnit c b)).eligible)

/-- A die is in the safety-eligible set: every GQU that serves a slice is in it, and some cluster serves (R566, R635). -/
def Die.safetyEligible (x : Die) : Bool :=
  !x.serving.isEmpty && (List.range 32).all (fun k => (x.unit (gquUnit (gquOf x.spares.gquFail k))).eligible)

/-- R625: a bank remap of a cluster waits for its spare's test (R627). -/
def Die.bankAwaited (x : Die) (c : Nat) : Bool :=
  x.units.any (fun e => decide (e.1 / 4096 = 5) && decide (unitCluster e.1 = c) && (match e.2.suspect with | some k => decide (k ≠ 0) | none => false))

/-- A cluster can be placed on for a set of engine kinds (R574, R605, R625, R682): it serves, its island is on and not
being emptied, no bank of it waits for its replacement, and none of the units wanted is suspect, failed or quarantined. -/
def Die.placeable (x : Die) (c mask : Nat) : Bool :=
  x.serving.contains c && !(x.cluster c).off && !(x.cluster c).draining && !x.bankAwaited c &&
    [arrayUnit c, lanesUnit c, selectUnit c].all (fun u =>
      (x.unit u).suspectEngines u &&& mask = 0 && (unitEngines u &&& mask = 0 || (!(x.unit u).failed && !(x.unit u).quarantined)))

/-! ### Mapping spares in (R156, R624 to R632) -/

/-- The unit words of the spares. -/
def spareCluster : Nat := clusterUnit 4
/-- The spare GQU. -/
def spareGqu : Nat := gquUnit 32

/-- The record of a spare mapped in (R630). -/
def State.spareUsed (s : State) (d failed spare : Nat) (inj : Bool) : State := s.logErr d 0x0020 failed spare none inj
/-- The record of a spare that failed unmapped (R630). -/
def State.spareFailed (s : State) (d spare : Nat) (inj : Bool) : State := s.logErr d 0x0029 spare spare none inj

/-- R627: a spare waits for its own test before it replaces a unit, whose failure the record `code` reported. -/
def State.awaitSpare (s : State) (d spare failed code : Nat) (inj : Bool) : State :=
  (s.modUnit d spare (fun t => { t with suspect := some (failed + 1), named := [], running := none, passed := [] })).modSpares d
    (fun p => { p with remap := some (failed, code, inj), waiting := (match p.remap with | some (u, k, i) => [(u, k, true, i)] | none => []) ++ p.waiting })

/-- C4 takes the position of a failed cluster (R626 steps 2 to 4). -/
def State.mapCluster (s : State) (d c : Nat) (inj : Bool) : State :=
  (((s.modSpares d (fun p => { p with clMap := c })).modCluster d 4 (fun k => { k with off := false, idleSince := s.now })).modCluster d c
    (fun k => { k with off := true, banks := List.replicate 66 2 })).spareUsed d (clusterUnit c) spareCluster inj

/-- A failed cluster is replaced by C4, or lost (R626, R627, R634). `code` is the code of the record that reported it (R753). -/
def State.replaceCluster (s : State) (d c code : Nat) (inj : Bool) : State :=
  let x := s.die d
  if c = 4 && x.spares.clMap = 7 then (s.modSpares d (fun p => { p with failedSpares := spareCluster :: p.failedSpares })).spareFailed d spareCluster inj
  else if c < 4 && x.spares.clMap = 7 && !(x.cluster 4).failed then
    if (clusterUnits 4).all (fun u => (x.unit u).proven) then s.mapCluster d c inj
    else s.awaitSpare d (arrayUnit 4) (clusterUnit c) code inj
  else s.logErr d 0x0030 (clusterUnit c) code none inj

/-- A cluster fails (R626): its jobs are ended and re-dispatched first. -/
def State.failCluster (s : State) (d c code : Nat) (inj : Bool) : State :=
  if ((s.die d).cluster c).failed || 5 ≤ c then s
  else ((s.redispatchAll (s.jobsOnCluster d c)).modCluster d c (fun k => { k with failed := true, draining := false })).replaceCluster d c code inj

/-- A number added to an ascending list. -/
def addTo (l : List Nat) (a : Nat) : List Nat := insertBy Nat.blt a l

/-- The physical column of logical column 519 (R156). -/
def lastColumn (l : List Nat) : Nat := (((List.range 528).filter (fun k => !l.contains k)).getD 519 528)

/-- A column of an array fails (R157, R624, R630). -/
def State.failColumn (s : State) (d c col code : Nat) (inj : Bool) : State :=
  let l := (s.die d).spares.columns.getD c []
  if l.contains col then s
  else if 8 ≤ l.length then s.failCluster d c code inj
  else
    let u := unitCode 2 (529 * c + col)
    let s := s.modSpares d (fun p => { p with columns := p.columns.set c (addTo l col) })
    let s := s.modUnit d (arrayUnit c) (fun t => { t with removed := true, tested := false, passed := [], suspect := none, named := [] })
    if lastColumn l < col then s.spareFailed d u inj
    else s.spareUsed d u (unitCode 2 (529 * c + lastColumn (addTo l col))) inj

/-- A spare bank comes into use (R624, R625): the bank list changes while the cluster is empty. -/
def State.mapBank (s : State) (d c b : Nat) (inj : Bool) : State :=
  let l := (s.die d).spares.banks.getD c []
  let l' := addTo l b
  let nb := ((List.range 66).filter (fun k => !l'.contains k)).getD 63 65
  ((s.modSpares d (fun p => { p with banks := p.banks.set c l' })).modCluster d c (fun k =>
    { k with banks := (k.banks.set nb 0).set b 2 })).spareUsed d (bankUnit c b) (bankUnit c nb) inj

/-- A scratchpad bank fails (R624, R625, R627, R630). -/
def State.failBank (s : State) (d c b code : Nat) (inj : Bool) : State :=
  let x := s.die d
  let l := x.spares.banks.getD c []
  if l.contains b then s
  else if 2 ≤ l.length then s.failCluster d c code inj
  else
    let last := ((List.range 66).filter (fun k => !l.contains k)).getD 63 66
    let nb := ((List.range 66).filter (fun k => !(addTo l b).contains k)).getD 63 66
    if last < b then
      (s.modSpares d (fun p => { p with banks := p.banks.set c (addTo l b) })).spareFailed d (bankUnit c b) inj
    else
      let s := s.redispatchAll (s.jobsOnCluster d c)
      if (x.unit (bankUnit c nb)).proven then s.mapBank d c b inj
      else s.awaitSpare d (bankUnit c nb) (bankUnit c b) code inj

/-- A divide and square-root pipeline fails (R312, R624). -/
def State.failPipeline (s : State) (d c k code : Nat) (inj : Bool) : State :=
  let l := (s.die d).spares.divs.getD c []
  if l.contains k then s
  else if !l.isEmpty then s.failCluster d c code inj
  else
    let u := unitCode 4 (c + 16 * k)
    let s := s.modSpares d (fun p => { p with divs := p.divs.set c [k] })
    let s := s.modUnit d (lanesUnit c) (fun t => { t with removed := true, tested := false, running := none, passed := [], suspect := none, named := [] })
    if k = 16 then s.spareFailed d u inj else s.spareUsed d u (unitCode 4 (c + 16 * 16)) inj

/-- A stage in progress of a job uses a world on a die (R22). -/
def State.worldStageOn (s : State) (j : Job) (d : Nat) : Bool :=
  match j.run, s.planOf j with
  | some r, some p =>
    j.st = .running && r.stages.zipIdx.any (fun (sr, st) => sr.st = .launched && sr.insts.any (fun i => i.die = d) &&
      ((p.stages[st]?).map (fun c => c.ops.any (fun o => engineOf o.opcode = 5))).getD false)
  | _, _ => false

/-- G32 takes over the service of a failed GQU (R21). -/
def State.mapGqu (s : State) (d g : Nat) (inj : Bool) : State :=
  (s.modSpares d (fun p => { p with gquFail := g })).spareUsed d (gquUnit g) spareGqu inj

/-- A GQU fails (R22, R624, R634); one that still answers lets the stages in progress finish. -/
def State.failGqu (s : State) (d g code : Nat) (answers inj : Bool) : State :=
  let x := s.die d
  if x.spares.gquFail = g then s
  else if x.spares.gquFail ≠ 63 then s.loseDie d code inj
  else
    let users := if answers || g = 32 then [] else (s.jobs.filter (fun j => s.worldStageOn j d)).map (fun j => (j.q, j.s))
    let s := (s.orphanOf d g).redispatchAll users
    if g = 32 then (s.modSpares d (fun p => { p with gquFail := 32 })).spareFailed d spareGqu inj
    else if (x.unit spareGqu).proven then s.mapGqu d g inj
    else s.awaitSpare d spareGqu (gquUnit g) code inj

/-- R628: a bank of the queue context store fails. -/
def State.failContext (s : State) (d code : Nat) (inj : Bool) : State :=
  if (s.die d).spares.qctx then s.loseDie d code inj
  else (s.modSpares d (fun p => { p with qctx := true })).spareUsed d (unitCode 12 4) (unitCode 12 4) inj

/-- What the die manager does about a failed unit (R624 to R634). -/
def State.actOnFailure (s : State) (d u code : Nat) (answers inj : Bool) : State :=
  if !s.healthy d && !(s.die d).returning then s
  else
    let i := u % 4096
    let c := unitCluster u
    match u / 4096 with
    | 1 => if ((s.die d).cluster (i % 8)).failed && (s.die d).spares.clMap ≠ i % 8 then s.replaceCluster d (i % 8) code inj else s.failCluster d (i % 8) code inj
    | 2 => if i % 529 = 528 then s.failCluster d c code inj else s.failColumn d c (i % 529) code inj
    | 3 => s.failCluster d c code inj
    | 4 => s.failPipeline d c (i / 16) code inj
    | 5 => s.failBank d c (i / 8) code inj
    | 6 => s.failGqu d i code answers inj
    | 7 => s.loseDie d code inj
    | 8 => s.loseDie d code inj
    | 9 => s.loseDie d code inj
    | 12 => if i = 4 then s.failContext d code inj else s.loseDie d code inj
    | 13 => s.failCluster d c code inj
    | 14 => s.failCluster d c code inj
    | 15 => s.loseDie d 0x0105 inj
    | _ => s

/-- R627, R631: a remap is in progress on a die: a spare is being tested before it is mapped in. -/
def Die.remapping (x : Die) : Bool := x.units.any (fun e => match e.2.suspect with | some k => decide (k ≠ 0) | none => false)

/-- R624 to R636: a unit fails, for good. Links and ports have mechanisms of their own (R44, R406). Of the divider lanes a test unit is
no pipeline: it serves on with the spare (R312), and is tested anew (R605). While a remap is in progress on the die the failure waits until that
has taken effect (R631), but for one of the control block, which is the die manager's own. -/
def State.failUnit (s : State) (d u code : Nat) (answers : Bool := false) (inj : Bool := false) : State :=
  if !s.healthy d && !(s.die d).returning then s
  else
    let s := match testUnitOf u with
      | some t => if t = u && u / 4096 ≠ 4 then s.modUnit d t (fun x => { x with failed := true, running := none, suspect := none, named := [] }) else s
      | none => s
    if (s.die d).remapping && u / 4096 ≠ 15 then s.modSpares d (fun p => { p with waiting := p.waiting ++ [(u, code, answers, inj)] })
    else s.actOnFailure d u code answers inj

/-- The failures that wait on a die are acted on in order, up to the next remap (R631). -/
def State.nextFailsAux : Nat → Nat → State → State
  | 0, _, s => s
  | k + 1, d, s =>
    if (s.die d).remapping then s
    else match (s.die d).spares.waiting with
      | [] => s
      | (u, code, answers, inj) :: rest =>
        State.nextFailsAux k d ((s.modSpares d (fun p => { p with waiting := rest })).actOnFailure d u code answers inj)

/-- The failures that wait on a die are acted on (R631). -/
def State.nextFails (s : State) (d : Nat) : State := State.nextFailsAux (s.die d).spares.waiting.length d s

/-- R633: after an initial pass the remap that a reset has met, and the failures that wait, are acted on. -/
def State.resumeFails (s : State) (d : Nat) : State :=
  match (s.die d).spares.remap with
  | some (u, code, inj) => ((s.modSpares d (fun p => { p with remap := none })).actOnFailure d u code true inj).nextFails d
  | none => s.nextFails d

/-- A unit is quarantined (R636): logged with its rule, then treated as failed. -/
def State.quarantine (s : State) (d u rule : Nat) (inj : Bool := false) : State :=
  let s := s.logErr d 0x0027 u rule none inj
  let s := match testUnitOf u with
    | some t => s.modUnit d t (fun x => { x with quarantined := x.quarantined || (decide (t = u) && u / 4096 ≠ 4) })
    | none => s
  s.failUnit d u 0x0027 true inj

/-- R574, R575: a unit that reported a mismatch is suspect and out of placement; a second mismatch of that unit within
SCH_SUSPECT_WINDOW of its first, after it had returned, quarantines it. A vector engine and a solver lane share one test unit (R594), whose
full test is run for the one of them that is suspect. -/
def State.markSuspect (s : State) (d u : Nat) (inj : Bool := false) : State :=
  match testUnitOf u with
  | none => s
  | some t =>
    let x := (s.die d).unit t
    let g := s.gtc d
    let one := u / 4096 = 3 || u / 4096 = 4
    if (if one then x.named.contains u else x.suspect.isSome) || x.failed || x.quarantined then s
    else if (match x.mismatchAt.find? (fun e => e.1 = u) with | some e => decide (g - e.2 ≤ s.regs.suspectWindow) | none => false) then
      s.quarantine d u 1 inj
    else s.modUnit d t (fun y => { y with
      suspect := some (y.suspect.getD 0), running := none, passed := [],
      named := if one && (y.suspect.isNone || !y.named.isEmpty) then u :: y.named else y.named,
      mismatchAt := (u, g) :: y.mismatchAt.filter (fun e => e.1 ≠ u) })

/-- R356, R601, R602: the slices that run on the banks that a placement on a cluster needs are aborted. -/
def State.abortBanks (s : State) (d c : Nat) : State :=
  s.modDie d (fun x => { x with units := x.units.map (fun e =>
    if e.1 / 4096 = 5 && unitCluster e.1 = c && (x.spares.mappedBanks c).contains (e.1 % 4096 / 8) then (e.1, { e.2 with running := none }) else e) })

/-! ### Slices (R594 to R606) -/

/-- The test domain of a unit holds a stage (R37). -/
def State.domainBusy (s : State) (d u : Nat) : Bool :=
  if u / 4096 = 6 then s.jobs.any (fun j => s.worldStageOn j d)
  else s.jobs.any (fun j => match j.run with
    | some r => j.st = .running && r.stages.any (fun sr => sr.st = .launched && sr.insts.any (fun i => i.die = d && i.cl = unitCluster u))
    | none => false)

/-- R599: a window's engine kinds cover a slice. -/
def windowCovers (w : Window) (d u : Nat) : Bool :=
  bit w.units (16 + d) && (if u / 4096 = 5 then bitsOf w.units 7 0 ≠ 0 else bitsOf w.units 7 0 &&& unitEngines u ≠ 0)

/-- The first opening of a window at or after a count. -/
def Window.nextOpen (w : Window) (g : Nat) : Option Nat :=
  if w.len = 0 then none
  else if g ≤ w.start then some w.start
  else if w.period = 0 then none
  else some (w.start + ceilDiv (g - w.start) w.period * w.period)

/-- R599: no declared window stands in the way of a slice that would start now. -/
def State.windowsClear (s : State) (d u : Nat) : Bool :=
  let g := s.gtc d
  s.regs.rsv.all (fun w => !windowCovers w d u ||
    (!w.openAt g && (match w.nextOpen g with | some t => decide (g + sliceLength u + 2 * countsPerUs ≤ t) | none => true)))

/-- R571, R599: the window of a safety-class job covers a unit: it is open from its first READY until its completion is written,
also while it is parked, suspended or dispatched again. -/
def State.jobWindowCovers (s : State) (d u : Nat) : Bool :=
  s.jobs.any (fun j => s.group j.q = 0 && j.readyAt.isSome &&
    (let (m, ds) := s.jobWindowNow j
     ds.contains d && j.windowOn m u))

/-- A bank is free for Tinker (R356, R596): it is Off or a spare, and no region is allocated on its cluster. -/
def State.bankFree (s : State) (d u : Nat) : Bool :=
  let c := unitCluster u
  let b := u % 4096 / 8
  let x := s.die d
  !(x.spares.mappedBanks c).contains b ||
    ((x.cluster c).banks.getD b 2 = 2 && s.jobs.all (fun j => j.regions.all (fun l => !(l.die = d && l.cl = c))))

/-- The state of a bank (R353, R354): On while Tinker tests it, else as its cluster has it. -/
def Die.bankState (x : Die) (c b : Nat) : Nat :=
  if (x.unit (bankUnit c b)).running.isSome then 0 else (x.cluster c).banks.getD b 2

/-- R21, R595: the World Store slice whose test lattice a GQU is tested against: the one that it serves. The spare, while it serves
none, is tested against that of slice 31, which it would serve first to last (log entry 76). -/
def Die.latticeOf (x : Die) (g : Nat) : Nat := if g < x.spares.gquFail then Min.min g 31 else g - 1

/-- R595: a GQU slice of the initial pass builds the test lattice of its World Store slice through port B, where no other sequence
has locked it and it is not frozen (R374, R375). -/
def Die.buildLattice (x : Die) (g : Nat) : Die :=
  let k := x.latticeOf g
  if x.lattices.contains k then x else { x with lattices := x.lattices ++ [k] }

/-- The slices running in a die, and the bank slices in a cluster. -/
def Die.runningUnits (x : Die) : List Nat := (x.units.filter (fun e => e.2.running.isSome)).map Prod.fst

/-- TINKER_SLICE_START (R594 to R596, R599, R603, R606, R609): under R599; in the initial pass one slice a die at a time, a GQU's
after its test lattice has been built. Slices of a test run in ascending order. -/
def execTinkerSliceStart (d unit slice : Nat) (s : State) : Host.Outcome State Fault Refusal :=
  let x := s.die d
  let t := x.unit unit
  let live := (s.healthy d || x.returning) && s.boot.fwReady
  let fits := dieUnits.contains unit && t.running.isNone && !t.failed && t.suspect.isNone && decide (slice < slicesOf unit) && !t.passed.contains slice
  let g := unit % 4096
  let gqu := unit / 4096 = 6
  let first := !x.passDone && t.since.isNone && x.runningUnits.isEmpty && (!gqu || s.arbOpen [atPortB d (x.latticeOf g) 2])
  let serves := x.passDone && s.regs.tnkInitDone && s.regs.tnkEnable && (!gqu || x.lattices.contains (x.latticeOf g))
  let bank := unit / 4096 ≠ 5 || (s.bankFree d unit &&
    decide ((x.runningUnits.filter (fun u => u / 4096 = 5 && unitCluster u = unitCluster unit)).length < 8))
  let on := gqu || !(x.cluster (unitCluster unit)).off
  let clear := !s.domainBusy d unit && s.windowsClear d unit && !s.jobWindowCovers d unit
  if live && fits && bank && on && clear && (first || serves) then
    let build := gqu && !x.lattices.contains (x.latticeOf g)
    let s := if build then (s.granted [atPortB d (x.latticeOf g) 2]).modDie d (fun x => x.buildLattice g) else s
    .next (s.modUnit d unit (fun y => { y with running := some (slice, s.gtc d) }))
  else s.idle

/-- A test unit whose slices have all passed (R604, R605): its interval starts anew and it rejoins the eligible set. -/
def TestUnit.complete (t : TestUnit) (g : Nat) : TestUnit :=
  { t with passed := [], since := some g, tested := true, overdue := false, removed := false }

/-- A slice has passed. -/
def TestUnit.pass (t : TestUnit) (n g slice : Nat) : TestUnit :=
  let p := addTo t.passed slice
  let t := { t with running := none, passed := p }
  if n ≤ p.length then t.complete g else t

/-- R605: a slice of a unit fails: TEST_FAIL, quarantine under rule 4, repair or replacement. -/
def State.sliceFails (s : State) (d u slice diff : Nat) : State :=
  let s := s.logErr d 0x0018 u (slice % 256 + 256 * (diff % 2 ^ 56))
  let s := match testUnitOf u with
    | some t => s.modUnit d t (fun x => { x with running := none, passed := [], since := some (x.since.getD (s.gtc d)), tested := false })
    | none => s
  (s.logErr d 0x0027 u 4).failUnit d u 0x0018 true

/-- R596: after a slice every word of a bank is zero with valid check bits: no inverted bit is left. -/
def State.zeroBank (s : State) (d u : Nat) : State :=
  if u / 4096 = 5 then s.modDie d (fun x => { x with flips := x.flips.filter (fun f => !(f.mem = 0 && f.cl = unitCluster u && f.bank = u % 4096 / 8)) })
  else s

/-- R606: the initial pass has ended on every die that can be in it, and no replacement waits for its test (R607). -/
def State.passEnded (s : State) : Bool :=
  s.boot.fwReady && !s.healthyDies.isEmpty && s.healthyDies.all (fun d =>
    (s.die d).passDone && (s.die d).units.all (fun e => e.2.suspect.isNone))

/-- INIT_DONE is set when the pass ends, and each unit's first interval starts (R606). -/
def State.settlePass (s : State) : State :=
  if !s.regs.tnkInitDone && s.passEnded then
    let s := (s.modRegs (fun r => { r with tnkInitDone := true })).modDies (fun x =>
      { x with units := x.units.map (fun e => (e.1, { e.2 with since := some x.gtc })) })
    (s.healthyDies.foldl State.resumeFails s).settle
  else s

/-- SUSPECT_TEST (R575, R608, R627): the whole content of a suspect unit has run. `unit` names the unit at fault when it
fails. A spare that passes takes over what it was to replace; one that fails counts as a second failure. -/
def execSuspectTest (d unit : Nat) (ok : Bool) (s : State) : Host.Outcome State Fault Refusal :=
  match testUnitOf unit with
  | none => s.idle
  | some t =>
    match ((s.die d).unit t).suspect with
    | none => s.idle
    | some k =>
      let clear := (s.zeroBank d t).modUnit d t (fun x => { x with suspect := none, named := [] })
      if ok then
        let s := clear.modUnit d t (fun x => x.complete (s.gtc d))
        let s :=
          if k = 0 then s
          else
            let f := k - 1
            let inj := match (s.die d).spares.remap with | some (_, _, i) => i | none => false
            let s := s.modSpares d (fun p => { p with remap := none })
            (if f / 4096 = 1 then s.mapCluster d (f % 8) inj
             else if f / 4096 = 5 then s.mapBank d (unitCluster f) (f % 4096 / 8) inj
             else s.mapGqu d (f % 64) inj).nextFails d
        (s.settlePass.settleClusters.issueAll).done
      else
        let s := clear.sliceFails d unit 0 0
        let s :=
          if k = 0 then s
          else ((s.modSpares d (fun p => { p with remap := none })).actOnFailure d (k - 1) 0x0018 true false).nextFails d
        (s.settlePass.settleClusters.issueAll).done

/-- TEST_OVERDUE (R604): a unit's interval has lapsed without a completed test. A bank that holds a region is exempt
(R596), and so is a unit whose island is off (R684). -/
def execTestOverdue (d unit : Nat) (s : State) : Host.Outcome State Fault Refusal :=
  let x := s.die d
  let t := x.unit unit
  let g := s.gtc d
  match t.since with
  | none => s.idle
  | some b =>
    if s.healthy d && s.regs.tnkInitDone && dieUnits.contains unit && !t.failed && decide (b + s.regs.tnkInterval.getD (testKind unit) 0 ≤ g) &&
        (unit / 4096 ≠ 5 || s.bankFree d unit) && !(unit / 4096 ≠ 6 && (x.cluster (unitCluster unit)).off) then
      let s := (s.logErr d 0x0025 unit (testKind unit)).modUnit d unit (fun y => { y with since := some g, overdue := true })
      if s.regs.tnkOverdue then .next ((s.modUnit d unit (fun y => { y with removed := true })).logErr d 0x0027 unit 3)
      else .next s
    else s.idle

/-- UNIT_FAULT (R753): a unit signals a fault of its own; it is spared, or lost, and its jobs are re-dispatched. Links and
ports report through mechanisms of their own. -/
def execUnitFault (d unit kind : Nat) (s : State) : Host.Outcome State Fault Refusal :=
  if s.healthy d && unit / 4096 ≠ 0 && unit / 4096 ≠ 10 && unit / 4096 ≠ 11 && decide (1 ≤ kind ∧ kind ≤ 4) then
    ((s.logErr d 0x0019 unit kind).failUnit d unit 0x0019).issueAll.done
  else s.idle

/-- PARTITION_MISMATCH (R576, R577): the copies of a partition's state differ, in the bits `bits` of a word. When exactly one copy fails
parity it is restored and the partition goes on; else the die withdraws itself. The die manager may read the copies in a later command
(`later`): meanwhile the partition neither dispatches nor accepts. -/
def execPartitionMismatch (d p : Nat) (one : Bool) (word : Nat) (s : State) (bits : Nat := 1) (later : Bool := false) :
    Host.Outcome State Fault Refusal :=
  if s.healthy d && decide (p < 4) then
    if later then .next (s.modPart d p (fun x => { x with differs := some (word, bits) }))
    else if one then .next ((s.modPart d p (fun x => { x with differs := none })).logErr d 0x000B (unitCode 12 p) word)
    else (s.loseDie d 0x0102).issueAll.done
  else s.idle

end Sys2Proof.Machine
end

