-- ==== Sys2Proof/Machine/Exec.lean ====
section
/-!
DEFINITION. Running one operation of a stage instance: the context it runs in, where its tensors lie (R59, R68 to R73,
R752), what it reads and writes, and the mismatches that end it (R155, R573, R574).
-/
namespace Sys2Proof.Machine

/-! ### Context -/

/-- What an operation works in: its job, run data, plan, stage, instance and record. -/
structure OpCtx where
  j : Job
  rd : RunData
  p : Plan
  sr : StageRun
  st : StageRec
  ins : Inst
  op : OpRec
  r : OpRef
  deriving DecidableEq, Repr

/-- The stage runs one instance per logical cluster (R53). -/
def OpCtx.all (c : OpCtx) : Bool := c.st.placement = 0
/-- The stage is DIVERSE. -/
def OpCtx.diverse (c : OpCtx) : Bool := c.st.placement = 2
/-- A tensor as the operation sees it. -/
def OpCtx.desc (c : OpCtx) (x : Nat) : TensorDesc := c.p.desc c.all x
/-- Input `i` as the operation sees it. -/
def OpCtx.inDesc (c : OpCtx) (i : Nat) : TensorDesc := c.desc (c.op.inp i)
/-- Output `i` as the operation sees it. -/
def OpCtx.outDesc (c : OpCtx) (i : Nat) : TensorDesc := c.desc (c.op.out i)
/-- The selector of a parameter field: a job parameter word or the field's own constant. -/
def OpCtx.sel (c : OpCtx) (src const : Nat) : Nat := c.rd.sel src const

/-- A tensor's place in the usable space of a die's HBM: the die, the first byte, the bytes. -/
def State.hbmPlace (s : State) (c : OpCtx) (t : TensorEnt) : Option (Nat × Nat × Nat) :=
  let n := canonBytes t.fmt t.scaled (elemCount t.shape)
  match t.sp with
  | .hbmPlan => some (c.ins.die, (c.j.pinPlan.bind (fun i => (s.planSlot i).base)).getD 0 + t.offset, n)
  | .hbmJob => some (c.rd.work.die, c.rd.work.base + t.offset, n)
  | _ => none

/-- The number of problems of a solver operation. -/
def OpCtx.batch (c : OpCtx) : Nat := (c.inDesc 0).shape.headD 0

/-- The first store slot that a Refine names (R334). -/
def OpCtx.warmFirst (c : OpCtx) : Nat := c.rd.word (c.op.par 0x14 1) % 2 ^ 32

/-- R358: the bytes of a slot of the warm-start store in the usable space. -/
def Regs.warmRange (r : Regs) (i : Nat) : Nat × Nat := (r.warmBase + i * r.warmSlotBytes, r.warmSlotBytes)

/-- The ranges of HBM that an operation reads, as (die, first byte, bytes): its inputs there, and the store slots of a Refine with source
CACHE (R339). -/
def State.hbmReads (s : State) (c : OpCtx) : List (Nat × Nat × Nat) :=
  c.op.inputs.filterMap (fun x => (c.p.tensors[x]?).bind (s.hbmPlace c)) ++
    (if c.op.opcode = 0x0603 ∧ c.op.par 6 1 = 1 then
      (tabulate c.batch (fun b => c.warmFirst + b)).filterMap (fun i =>
        if ((s.die c.ins.die).warm.get i).isSome then some (c.ins.die, s.regs.warmRange i) else none)
     else [])

/-- The ranges of HBM that an operation writes: its outputs there. -/
def State.hbmWrites (s : State) (c : OpCtx) : List (Nat × Nat × Nat) :=
  c.op.outputs.filterMap (fun x => (c.p.tensors[x]?).bind (s.hbmPlace c))

/-- The ranges of HBM that an operation's writes cover in part of a line, which is read before it is written, and the checkpoint area
in which a DIVERSE stage marks a record of logical cluster 0. -/
def State.hbmMerges (s : State) (c : OpCtx) : List (Nat × Nat × Nat) :=
  (s.hbmWrites c).flatMap (fun (d, a, n) => (partLines a n).map (fun b => (d, b, 1))) ++
    (match c.rd.lcs[0]? with
     | some l => if c.diverse && !l.resident then [(l.ckpt.die, l.ckpt.base, l.ckpt.size)] else []
     | none => [])

/-- A line that the operation reads, or writes in part, has errors that its read has not met yet: the operation waits for
HBM_READ_OUTCOME (R366). -/
def State.readPending (s : State) (c : OpCtx) : Bool :=
  s.dies.any (fun x => !x.injected.isEmpty || !x.repairs.isEmpty || x.inj.any (fun i => i.arm && i.target = 4)) &&
    (s.hbmReads c ++ s.hbmMerges c).any (fun e => (s.die e.1).unread e.2.1 e.2.2)

/-- The operation reads a poisoned line of HBM (R367). -/
def State.readsPoison (s : State) (c : OpCtx) : Bool :=
  s.dies.any (fun x => !x.poison.isEmpty) && (s.hbmReads c).any (fun e => (s.die e.1).poisoned e.2.1 e.2.2)

/-- The context of an operation that its engine holds and whose effect is not yet in: its job runs, its stage is launched
in that iteration, its instance runs, and it is the current operation of its engine. -/
def State.heldCtx (s : State) (r : OpRef) : Option OpCtx :=
  match s.job r.q r.s with
  | none => none
  | some j =>
    match j.run, s.planOf j with
    | some rd, some p =>
      match rd.stages[r.stage]?, p.stages[r.stage]? with
      | some sr, some st =>
        match sr.insts.find? (fun i => i.lc = r.lc), st.ops[r.idx]? with
        | some ins, some op =>
          let e := engineOf op.opcode
          let held := (engineSlots e ins.cl).any (fun k => ((s.die ins.die).slot k.1 k.2).cur = some r)
          let c : OpCtx := { j := j, rd := rd, p := p, sr := sr, st := st, ins := ins, op := op, r := r }
          if j.st = .running && rd.placed && sr.st = .launched && sr.iter = r.iter && held && !ins.ran.contains r.idx then some c
          else none
        | _, _ => none
      | _, _ => none
    | _, _ => none

/-- The context of an operation that may take effect: no line that it reads or writes in part is still to be read. -/
def State.opCtx (s : State) (r : OpRef) : Option OpCtx := (s.heldCtx r).filter (fun c => !s.readPending c)

/-! ### Arbiters on the way of an operation (R33, R349, R371) -/

/-- R622: a RANGE scan reads host bytes that no tensor names. -/
def OpCtx.scansHost (c : OpCtx) : Bool := c.op.opcode = 0x0703 && c.op.par 1 1 = 1

/-- An operand of the operation lies in host memory. -/
def OpCtx.usesHost (c : OpCtx) : Bool :=
  (c.op.inputs ++ c.op.outputs).any (fun x => ((c.p.tensors[x]?).map (·.sp)) = some Space.host) || c.scansHost

/-- The requests of an operation: its engine's at the banks of its cluster, those of its accesses to HBM, at the die's own stack or
through Umlin at another's, and those of host DMA. -/
def State.opReqs (s : State) (c : OpCtx) : List ArbReq :=
  let d := c.ins.die
  let e := engineOf c.op.opcode
  (if e < 7 then [atBanks d c.ins.cl e] else []) ++
  (s.hbmReads c ++ s.hbmWrites c).flatMap (fun (k, a, n) => s.overUmlin d k 1 a ++ atHbm k a n (if k = d then 1 else 3)) ++
  (if c.usesHost then [atEgress d 2, atBanks d c.ins.cl 7] else [])

/-- An output of the operation lies in host memory. -/
def OpCtx.writesHost (c : OpCtx) : Bool := c.op.outputs.any (fun x => ((c.p.tensors[x]?).map (·.sp)) = some Space.host)

/-- An operation of code `code` runs where its engine holds it, a host port is in service for its operands in host memory (R410), its die
may write those outputs that lie there (R457), and every arbiter on its way grants it. -/
def State.withOp (s : State) (r : OpRef) (code : Nat) (f : OpCtx → Host.Outcome State Fault Refusal) : Host.Outcome State Fault Refusal :=
  match s.opCtx r with
  | none => s.idle
  | some c =>
    if c.op.opcode ≠ code || (c.usesHost && (s.portOf c.ins.die).isNone) || (c.writesHost && !s.mayWrite c.ins.die) then s.idle
    else if s.arbOpen (s.opReqs c) then f c else .next (s.queued (s.opReqs c))

/-! ### Where tensors lie -/

/-- The region an instance works in: its logical cluster's, or the copy of logical cluster 0's for a DIVERSE stage. -/
def OpCtx.region (c : OpCtx) : Option LogCluster := if c.diverse then c.rd.diverse.get c.r.stage else c.rd.lcs[c.ins.lc]?

/-- The region of a logical cluster of the job, in place or as its checkpoint area holds it (R92). -/
def State.regionOf (s : State) (c : OpCtx) (lc : Nat) : Option (Memory × Memory) :=
  (c.rd.lcs[lc]?).map (fun l =>
    if l.resident then (l.spad, l.acc)
    else unpackRegion c.p.spadPerLc ((s.die l.ckpt.die).loadRegion l.ckpt.base l.ckpt.size))

/-- Bytes of the space that holds a tensor, from an offset within the tensor; none where a read returns an error. -/
def State.spaceRead (s : State) (hv : HostView) (c : OpCtx) (t : TensorEnt) (o n : Nat) : Option (List Byte) :=
  match t.sp with
  | .scratchpad => some (Memory.read ((c.region.map (·.spad)).getD []) (t.offset + o) n)
  | .accumulator => some (Memory.read ((c.region.map (·.acc)).getD []) (t.offset + o) n)
  | .hbmPlan =>
    let d := s.die c.ins.die
    let a := (((c.j.pinPlan.bind (fun i => (s.planSlot i).base)).getD 0)) + t.offset + o
    if d.poisoned a n then none else some (d.readHbm a n)
  | .hbmJob =>
    let d := s.die c.rd.work.die
    let a := c.rd.work.base + t.offset + o
    if d.poisoned a n then none else some (d.readHbm a n)
  | .host => s.readHost hv ((c.rd.hostRange t).1 + o) n

/-- The region of an instance changed. -/
def State.modRegion (s : State) (c : OpCtx) (f : LogCluster → LogCluster) : State :=
  s.modJob c.r.q c.r.s (fun j => j.modRun (fun r =>
    if c.diverse then { r with diverse := r.diverse.update c.r.stage f } else { r with lcs := r.lcs.modify c.ins.lc f }))

/-! ### SRAM words with inverted bits (R347, R351, R651) -/

/-- The byte range of a cluster's scratchpad or accumulator memory that holds a word: logical bank by R346 and R624, or the row's
bank by R351. -/
def Flip.place (f : Flip) (sp : Spares) : Option Nat :=
  if f.mem = 0 then
    ((sp.mappedBanks f.cl).findIdx? (· = f.bank)).map (fun b => (f.word / 8) * 4096 + b * 64 + (f.word % 8) * 8)
  else if f.mem = 1 then some (((f.word / 256) * 8 + f.bank) * 2048 + (f.word % 256) * 8)
  else none

/-- The first byte of a tensor in a memory of the operation's cluster: 0 scratchpad, 1 accumulator. -/
def OpCtx.placeIn (c : OpCtx) (mem : Nat) (t : TensorEnt) : Option Nat :=
  match t.sp with
  | .scratchpad => if mem = 0 then some (Config.regionBase c.r.q c.r.s c.r.lc + t.offset) else none
  | .accumulator => if mem = 1 then some (Config.regionRow c.r.q c.r.s c.r.lc * 2048 + t.offset) else none
  | _ => none

/-- The inverted words of the operation's cluster of which a condition holds: on the first byte of a tensor in the word's memory and
the first byte of the word. -/
def State.flipsIn (s : State) (c : OpCtx) (xs : List Nat) (f : OpCtx → Nat → Nat → Nat → Bool) : List Flip :=
  let x := s.die c.ins.die
  x.flips.filter (fun w => w.cl = c.ins.cl && xs.any (fun i =>
    match (c.p.tensors[i]?).bind (c.placeIn w.mem), w.place x.spares with
    | some b, some a => f c i b a
    | _, _ => false))

/-- The first byte of a tensor, its bytes and a word: the word lies in it. -/
def wordIn (b n a : Nat) : Bool := decide (b < a + 8 ∧ a < b + n)

/-- The tensor covers the whole word. -/
def wordWhole (b n a : Nat) : Bool := decide (b ≤ a ∧ a + 8 ≤ b + n)

/-- The inverted words that an operation's reads meet: in its inputs, in the output that an accumulation goes on from (R351), and in
words that an output covers in part (R347). -/
def State.sramHits (s : State) (c : OpCtx) : List Flip :=
  s.flipsIn c c.op.inputs (fun c i b a => wordIn b (c.desc i).footprint a) ++
  s.flipsIn c c.op.outputs (fun c i b a =>
    wordIn b (c.desc i).footprint a && (!wordWhole b (c.desc i).footprint a || (c.op.isMatrix && decide (c.op.par 0 1 = 1))))

/-- R347, R351: the words that an operation's outputs cover whole are written anew. -/
def State.renewWords (s : State) (c : OpCtx) : State :=
  let fs := s.flipsIn c c.op.outputs (fun c i b a => wordWhole b (c.desc i).footprint a)
  if fs.isEmpty then s else s.modDie c.ins.die (fun x => { x with flips := x.flips.filter (fun f => !fs.contains f) })

/-- Bytes written into the space that holds a tensor. -/
def State.spaceWrite (s : State) (c : OpCtx) (t : TensorEnt) (o : Nat) (bs : List Byte) : State :=
  match t.sp with
  | .scratchpad => s.modRegion c (fun l => { l with spad := l.spad.write (t.offset + o) bs })
  | .accumulator => s.modRegion c (fun l => { l with acc := l.acc.write (t.offset + o) bs })
  | .hbmPlan => s
  | .hbmJob => s.modDie c.rd.work.die (fun d => d.writeHbm (c.rd.work.base + t.offset + o) bs)
  | .host => s.writeHost ((c.rd.hostRange t).1 + o) bs

/-- Elements [e, e + n) of a whole canonical tensor, which an instance of an ALL stage sees as its slice (R72). -/
structure Part where
  fmt : Fmt
  scaled : Bool
  total : Nat
  first : Nat
  count : Nat
  deriving DecidableEq, Repr

/-- The slice that an instance sees of a tensor that is stored whole; none where it sees all that is stored. -/
def OpCtx.part (c : OpCtx) (t : TensorEnt) : Option Part :=
  if t.sliced && c.all && (t.sp = .hbmJob || t.sp = .host) then
    let n := elemCount t.shape
    some { fmt := t.fmt, scaled := t.scaled, total := n, first := c.ins.lc * (n / c.p.lcs), count := n / c.p.lcs }
  else none

/-- The bytes that hold the part's elements, as (offset, length). -/
def Part.data (p : Part) : Nat × Nat :=
  let a := p.first * p.fmt.bits / 8
  (a, ceilDiv ((p.first + p.count) * p.fmt.bits) 8 - a)

/-- The scale bytes of the part, as (offset, length). -/
def Part.scales (p : Part) : Nat × Nat :=
  if p.scaled then (alignUp (dataBytes p.fmt p.total) 64 + p.first / 32, p.count / 32) else (0, 0)

/-- The part laid out as a tensor of its own, from the bytes that hold its elements and its scales. -/
def Part.cut (p : Part) (d sc : List Byte) : List Byte :=
  let d' := if p.fmt.bits = 4 then
      let a := d.toArray
      tabulate (ceilDiv p.count 2) (fun i =>
        BitVec.ofNat 8 (patternAt p.fmt a (2 * i + p.first % 2) +
          16 * (if 2 * i + 1 < p.count then patternAt p.fmt a (2 * i + 1 + p.first % 2) else 0)))
    else d
  if p.scaled then d' ++ zeros (alignUp d'.length 64 - d'.length) ++ sc else d'

/-- The bytes that hold the part's elements after its own bytes have changed to `b`. -/
def Part.joinData (p : Part) (d b : List Byte) : List Byte :=
  if p.fmt.bits = 4 then
    ((List.range p.count).foldl (fun a i => putPattern p.fmt a (i + p.first % 2) (patternAt p.fmt b.toArray i)) d.toArray).toList
  else b.take p.data.2

/-- The part's scale bytes of its own bytes. -/
def Part.ownScales (p : Part) (b : List Byte) : List Byte := (b.drop (alignUp (dataBytes p.fmt p.count) 64)).take p.scales.2

/-- The bytes of a tensor as the operation sees it. -/
def State.tensorBytes (s : State) (hv : HostView) (c : OpCtx) (x : Nat) : Option (List Byte) :=
  match c.p.tensors[x]? with
  | none => some []
  | some t =>
    match c.part t with
    | none => s.spaceRead hv c t 0 (c.desc x).footprint
    | some p =>
      match s.spaceRead hv c t p.data.1 p.data.2, (if p.scaled then s.spaceRead hv c t p.scales.1 p.scales.2 else some []) with
      | some d, some sc => some (p.cut d sc)
      | _, _ => none

/-- A tensor as the operation sees it, written. -/
def State.putTensor (s : State) (hv : HostView) (c : OpCtx) (x : Nat) (bs : List Byte) : State :=
  match c.p.tensors[x]? with
  | none => s
  | some t =>
    match c.part t with
    | none => s.spaceWrite c t 0 bs
    | some p =>
      let old := (s.spaceRead hv c t p.data.1 p.data.2).getD (zeros p.data.2)
      let s := s.spaceWrite c t p.data.1 (p.joinData old bs)
      if p.scaled then s.spaceWrite c t p.scales.1 (p.ownScales bs) else s

/-! ### What an operation reads and writes -/

/-- The bytes of an operation's inputs, and those its outputs start from. -/
structure OpData where
  ins : List ByteArr
  outs : List ByteArr
  deriving Repr

/-- Input `i`. -/
def OpData.inp (d : OpData) (i : Nat) : ByteArr := d.ins.getD i #[]
/-- What output `i` starts from. -/
def OpData.out (d : OpData) (i : Nat) : ByteArr := d.outs.getD i #[]

/-- A list of optional byte strings, when all are there. -/
def allBytes : List (Option (List Byte)) → Option (List ByteArr)
  | [] => some []
  | none :: _ => none
  | some b :: rest => (allBytes rest).map (fun l => b.toArray :: l)

/-- What an output starts from: its bytes as they stand, and zeros for a tile layout, whose padding holds zero (R129). -/
def State.outStart (s : State) (hv : HostView) (c : OpCtx) (x : Nat) : List Byte :=
  let d := c.desc x
  if d.layout = .canon then (s.tensorBytes hv c x).getD (zeros d.footprint) else zeros d.footprint

/-- The operands of an operation; none where a read of one returns an error (R367, R445) or SECDED finds a word beyond
correction. -/
def State.opData (s : State) (hv : HostView) (c : OpCtx) : Option OpData :=
  if (s.sramHits c).any (fun f => !f.single) || s.readsPoison c then none else (allBytes (c.op.ins.map (fun x => if x = 0xFFFF then some [] else s.tensorBytes hv c x))).map (fun l =>
    { ins := l, outs := c.op.outs.map (fun x => if x = 0xFFFF then #[] else (s.outStart hv c x).toArray) })

/-- R552: the HOST tensors an audited job reads are kept as first read, whole. -/
def State.captureInputs (s : State) (c : OpCtx) : State :=
  if !c.j.audit then s
  else
    let xs := c.op.inputs.filter (fun x => (c.p.tensors[x]?.map (·.sp)) = some Space.host && (c.rd.inputs.get x).isNone)
    xs.foldl (fun s x =>
      match c.p.tensors[x]? with
      | some t => let (a, n) := c.rd.hostRange t
                  s.modJob c.r.q c.r.s (fun j => j.modRun (fun r => { r with inputs := r.inputs.insert x (s.host.read a n) }))
      | none => s) s

/-- The staging rows of an operation, as (first, count) in its accumulator region (R746). -/
def OpCtx.staging (c : OpCtx) : Nat × Nat :=
  if c.op.opcode = 0x0102 then (c.op.par 8 4, c.op.par 0xC 2)
  else if c.op.isMatrix && (c.outDesc 0).acc.isNone then (c.op.par 4 4, c.op.par 2 2)
  else (0, 0)

/-- R746: the staging rows hold undefined values. -/
def State.undefStaging (s : State) (c : OpCtx) : State :=
  let (a, n) := c.staging
  if n = 0 then s
  else s.modRegion c (fun l => { l with acc := l.acc.write (a * 2048) (tabulate (n * 2048) (fun i => Config.undefinedByte s.free i)) })

/-- The inverted words that an operation reads are decoded. -/
def State.readWords (s : State) (c : OpCtx) : State :=
  (s.sramHits c).foldl (fun s f => s.readFlip c.ins.die (some (c.r.q, c.r.s)) f) s

/-- R159: what element `i` of register `r` of a cluster's vector engine holds: 64 registers of 512 elements of 32 bits. No rule says which
registers an operation leaves with what: after one, each word is a free value (log entry 81). -/
def Cluster.vectorReg (k : Cluster) (r i : Nat) : BitVec 32 :=
  if 64 ≤ r ∨ 512 ≤ i then 0
  else match k.vregs with
    | none => 0
    | some n => Config.vectorReg n r i

/-- R159: the vector engine of a cluster has run an operation through its register file. -/
def State.useVectorRegs (s : State) (c : OpCtx) : State :=
  if engineOf c.op.opcode = 1 then s.modCluster c.ins.die c.ins.cl (fun k => { k with vregs := some s.free }) else s

/-- An operation's effect is in: its grants count, the words it has read are decoded, those it has written are renewed, the next number
for free values is drawn. -/
def State.opRan (s : State) (c : OpCtx) (fl : NumFlags) : State :=
  let s := (((s.granted (s.opReqs c)).readWords c).renewWords c).useVectorRegs c
  let blocked := ((s.die c.ins.die).cluster c.ins.cl).dmaBlock
  let s := ({ s with free := s.free + 1 } : State).modJob c.r.q c.r.s (fun j =>
    { (j.modRun (fun r => { r with stages := r.stages.modify c.r.stage (fun sr =>
        { sr with insts := sr.insts.map (fun i => if i.lc = c.r.lc then { i with ran := i.ran ++ [c.r.idx] } else i) }) })) with
      numFlags := j.numFlags.merge fl })
  if blocked then s.issueAll else s.noteDma

/-- The HOST tensors it read kept, the outputs of an operation written, its flags set, its effect in. -/
def State.opFinish (s : State) (hv : HostView) (c : OpCtx) (outs : List ByteArr) (fl : NumFlags) : State :=
  ((c.op.outs.zip outs).foldl (fun s e => if e.1 = 0xFFFF then s else s.putTensor hv c e.1 e.2.toList) ((s.captureInputs c).undefStaging c)).opRan c fl

/-- R367, R445: an operation that reads an error or poison ends its job. One that reads an SRAM word beyond correction is
contained: its job is dispatched again (R468, R638). -/
def State.opFail (s : State) (c : OpCtx) : State :=
  let fs := s.sramHits c
  if fs.any (fun f => !f.single) then
    ((s.readWords c).redispatch c.r.q c.r.s).issueAll
  else if c.j.cancelBy.isSome then s.opRan c NumFlags.none
  else s.complete c.r.q c.r.s outMemory

/-- One operation of code `code`, run: `body` gives its outputs and flags from its operands. -/
def State.runOp (s : State) (r : OpRef) (hv : HostView) (code : Nat) (body : State → OpCtx → OpData → List ByteArr × NumFlags) :
    Host.Outcome State Fault Refusal :=
  let s := s.merge hv
  s.withOp r code fun c =>
    match s.opData hv c with
    | none => (s.opFail c).done
    | some d =>
      let (outs, fl) := body s c d
      (s.opFinish hv c outs fl).done

/-! ### Mismatches (R155, R573, R574, R651) -/

/-- An armed injection slot of a die that has fired or may fire for an event. -/
def Die.liveInjection (x : Die) (target : Nat) (f : InjSlot → Bool) : Option Nat :=
  (List.range 8).find? (fun i => match x.inj[i]? with
    | some y => y.arm && y.live && y.target = target && f y
    | none => false)

/-- One injection of a slot spent; the slot disarms after the last (R650). -/
def State.spendInjection (s : State) (d i : Nat) : State :=
  s.modDie d (fun x => { x with inj := x.inj.modify i (fun y =>
    { y with left := y.left - 1, arm := y.arm && decide (1 < y.left), live := y.live && decide (1 < y.left) }) })

/-- R574: a mismatch in an operation: reported, the job ended and dispatched again, the unit marked suspect. -/
def State.mismatch (s : State) (c : OpCtx) (code unit detail : Nat) (injected charge : Bool) : State :=
  let s := (s.logErr c.ins.die code unit detail (some (c.r.q, c.r.s)) injected).redispatch c.r.q c.r.s
  ((if injected && !charge then s else s.markSuspect c.ins.die unit injected)).issueAll

/-- R348: a write of the operation meets another at one word of a memory of its cluster and is discarded: BANK_COLLISION is logged with
the word's index, and the job is ended and replayed. -/
def State.bankCollision (s : State) (d c : Nat) (job : Nat × Nat) (h : BankHit) : State :=
  ((s.logErr d 0x0012 (if h.acc then clusterUnit c else bankUnit c h.bank) h.word (some job)).redispatch job.1 job.2).issueAll

/-- An operation one of whose writes may be discarded (R348). -/
def State.runWrites (s : State) (r : OpRef) (code : Nat) (hit : Option BankHit) (run : State → Host.Outcome State Fault Refusal) :
    Host.Outcome State Fault Refusal :=
  match hit with
  | none => run s
  | some h => s.withOp r code fun c => (s.bankCollision c.ins.die c.ins.cl (r.q, r.s) h).done

/-- An operation that may report a mismatch: with one, it ends under R574; without, it runs. -/
def State.runChecked (s : State) (r : OpRef) (hv : HostView) (code errCode : Nat) (unit : OpCtx → Nat → Nat) (detail : OpCtx → Nat → Nat)
    (bad : Option Nat) (body : State → OpCtx → OpData → List ByteArr × NumFlags) : Host.Outcome State Fault Refusal :=
  match bad with
  | some b => s.withOp r code fun c => (s.mismatch c errCode (unit c b) (detail c b) false false).done
  | none => s.runOp r hv code body

/-- R651: a CHECKSUM injection armed for the operation's cluster. -/
def State.checksumInjection (s : State) (c : OpCtx) : Option Nat :=
  (s.die c.ins.die).liveInjection 6 (fun y => y.where_ % 8 = c.ins.cl)

/-- The fault that a CHECKSUM injection makes (R651): the bits of its mask in the checksum column's sum of the next row written. -/
def InjSlot.arrFault (y : InjSlot) : ArrFault := { tile := 0, row := 0, col := 512 + y.where_ / 8 % 8, mask := y.mask % 2 ^ 32 }

/-- The array operation that an engine holds, run with the faults of its array: with a mismatch it ends under R574, naming the array
and the pass, row and group (R155); else its outputs are written as the array gives them. -/
def State.finishArray (s : State) (hv : HostView) (c : OpCtx) (injected charge : Bool) (r : ArrOut) : State :=
  match r.bad with
  | some (p, m, j) => s.mismatch c 0x0010 (arrayUnit c.ins.cl) (p % 65536 + at' (m % 65536) 16 + at' j 32) injected charge
  | none => s.opFinish hv c r.outs r.flags

/-- A tensor array operation with the faults of its array; an armed CHECKSUM injection adds its own. -/
def State.runArray (s : State) (r : OpRef) (hv : HostView) (code : Nat) (faults : List ArrFault)
    (body : State → OpCtx → OpData → List ArrFault → ArrOut) : Host.Outcome State Fault Refusal :=
  let s := s.merge hv
  s.withOp r code fun c =>
    match s.opData hv c with
    | none => (s.opFail c).done
    | some d =>
      match s.checksumInjection c with
      | none => (s.finishArray hv c false false (body s c d faults)).done
      | some i =>
        let y := (s.die c.ins.die).inj.getD i InjSlot.reset
        ((s.spendInjection c.ins.die i).finishArray hv c true y.charge (body s c d (faults ++ [y.arrFault]))).done

/-- A vector-engine operation: a residue mismatch names the engine and the operation code (R573). -/
def State.runVector (s : State) (r : OpRef) (hv : HostView) (code : Nat) (bad : Option Nat)
    (body : State → OpCtx → OpData → List ByteArr × NumFlags) : Host.Outcome State Fault Refusal :=
  s.runChecked r hv code 0x0011 (fun c _ => unitCode 3 c.ins.cl) (fun _ _ => code) bad body

/-- The outputs that a computation of elements gives. -/
def putOut (t : TensorDesc) (bs : ByteArr) (es : List OutElem) : NumM ByteArr := t.put es bs

/-- A computation run for its outputs and flags. -/
def outcomeOf (x : NumM (List ByteArr)) : List ByteArr × NumFlags := x.runFlags

end Sys2Proof.Machine
end

