-- ==== Sys2Proof/Machine/VectorEngine.lean ====
section
/-!
DEFINITION. The vector engine (R159 to R169): elementwise functions, normalisation, activation, reduction, gather and
scatter on elements.
-/
namespace Sys2Proof.Machine

/-- An exact result of point operands: NV for a NaN of operands that hold none (R117). An infinity that is exact, the pole of a
quotient, a logarithm or a reciprocal root, sets neither OF nor another flag: R117 does not say (DESIGN CHOICE, log entry 28). -/
def exactOf (ins : List Val) (v : Val) : NumM OutElem := do
  if v.isNan && !ins.any Val.isNan then raiseNV
  pure (OutElem.rne v)

/-- R103: the comparison tests, in the order the rule names them; which code of R162 selects which is left open. -/
def cmpTest (k : Nat) (a b : Val) : Bool :=
  match k % 4 with
  | 0 => Val.eq a b
  | 1 => Val.lt a b
  | 2 => Val.lt b a
  | _ => !Val.eq a b

/-- R165: IV_MAKE. -/
def ivMake (a b : Val) : NumM OutElem :=
  if (Iv.mk a b).valid then do pure (.iv (← Iv.outward f16 (decide (Iv.mk a b = Iv.whole)) a b))
  else do raiseIVW; pure (.iv Iv.whole)

/-- R165: IV_MID. A zero is +0, also of [−0, −0]: R101 gives the sign of sums of opposite sign alone (DESIGN CHOICE, log entry 28). -/
def ivMid (i : Iv) : NumM OutElem :=
  if i.lo.isInf || i.hi.isInf then do raiseNV; pure (OutElem.rne .nan)
  else pure (OutElem.rne (Val.ofRat ((i.lo.toRat + i.hi.toRat) / 2)))

/-- R165: IV_RAD. A zero is +0, also of [+0, −0] (DESIGN CHOICE, log entry 28). -/
def ivRad (i : Iv) : OutElem :=
  if i.lo.isInf || i.hi.isInf then .val (.inf false) .rup false
  else .val (Val.ofRat ((i.hi.toRat - i.lo.toRat) / 2)) .rup false

/-- An operand of an interval function: a point is the interval of R751. -/
def Elem.toIv (f : Fmt) : Elem → NumM Iv
  | .iv i => pure i
  | .pt v => Iv.ofPoint ((f.float.getD f32).largest) v

/-- The parameters of an elementwise operation (R162). -/
structure EwParam where
  fn : Nat
  rmode : RMode
  sat : Bool
  c : Val
  cBits : Nat
  deriving DecidableEq, Repr

/-- One element of an elementwise operation on point operands: `a`, `b` and the third operand. -/
def ewPoint (p : EwParam) (a b t : Val) : NumM OutElem :=
  match p.fn with
  | 0x00 => exactOf [a, b] (Val.add .rne a b)
  | 0x01 => exactOf [a, b] (Val.add .rne a b.neg)
  | 0x02 => exactOf [a, b] (Val.mul a b)
  | 0x03 => exactOf [a, b, t] (Val.add .rne (Val.mul a b) t)
  | 0x04 => pure (OutElem.rne (Val.min a b))
  | 0x05 => pure (OutElem.rne (Val.max a b))
  | 0x06 => pure (OutElem.rne a.abs)
  | 0x07 => pure (OutElem.rne a.neg)
  | 0x08 => pure (.val a p.rmode p.sat)
  | 0x09 => pure (OutElem.rne (if Val.eq t (.zero false) then b else a))
  | 0x0A => pure (OutElem.rne (Val.min (Val.max a b) p.c))
  | 0x0B => pure (OutElem.rne
      (if cmpTest (Config.unstated 0x0B (p.cBits % 4)) a b then .fin 1 else .zero false))
  | 0x0C => exactOf [a, b] (Val.div a b)
  | 0x0D => do pure (OutElem.rne (← a.sqrt))
  | 0x0E => do pure (OutElem.rne (← a.rsqrt))
  | 0x10 => do pure (OutElem.rne (← a.exp))
  | 0x11 => do pure (OutElem.rne (← a.exp2))
  | 0x12 => do pure (OutElem.rne (← a.log))
  | 0x13 => do pure (OutElem.rne (← a.log2))
  | 0x14 => do pure (OutElem.rne (← a.sin))
  | 0x15 => do pure (OutElem.rne (← a.cos))
  | 0x16 => do pure (OutElem.rne (← a.tanh))
  | 0x17 => do pure (OutElem.rne (← a.sigmoid))
  | 0x18 => do pure (OutElem.rne (← a.erf))
  | 0x20 => ivMake a b
  | _ => pure (OutElem.rne .nan)

/-- One element of an elementwise operation with an interval operand (R163, R165). -/
def ewInterval (p : EwParam) (a b : Iv) : NumM OutElem :=
  match p.fn with
  | 0x00 => do pure (.iv (← Iv.add f16 a b))
  | 0x01 => do pure (.iv (← Iv.sub f16 a b))
  | 0x02 => do pure (.iv (← Iv.mul f16 a b))
  | 0x04 => pure (.iv (Iv.min a b))
  | 0x05 => pure (.iv (Iv.max a b))
  | 0x07 => pure (.iv a.neg)
  | 0x21 => pure (OutElem.rne a.lo)
  | 0x22 => pure (OutElem.rne a.hi)
  | 0x23 => ivMid a
  | 0x24 => pure (ivRad a)
  | _ => pure (.iv a)

/-- Endpoints of an interval brought to binary16, outward (a point operand's finite value may need it). -/
def Iv.toHalf (i : Iv) : NumM Iv := Iv.outward f16 (decide (i = Iv.whole)) i.lo i.hi

/-- The functions of R162 that take one operand; `b` plays no part in them. -/
def ewUnary (fn : Nat) : Bool :=
  decide (fn = 0x06 ∨ fn = 0x07 ∨ fn = 0x08 ∨ (0x0D ≤ fn ∧ fn ≤ 0x18) ∨ (0x21 ≤ fn ∧ fn ≤ 0x24))

/-- One element of an elementwise operation. -/
def ewElem (p : EwParam) (fa fb : Fmt) (a b : Elem) (t : Val) : NumM OutElem :=
  match a, b, ewUnary p.fn with
  | .pt x, .pt y, _ => ewPoint p x y t
  | .pt x, .iv _, true => ewPoint p x (.zero false) t
  | .iv i, _, true => ewInterval p i i
  | a, b, _ => do
    let i ← a.toIv fa
    let j ← b.toIv fb
    if p.fn = 0x04 || p.fn = 0x05 then ewInterval p (← i.toHalf) (← j.toHalf)
    else ewInterval p i j

/-- R162: all elements; `b` and `t` give the second and third operand of element `i`. -/
def elementwise (p : EwParam) (fa fb : Fmt) (as : List Elem) (b : Nat → Elem) (t : Nat → Val) :
    NumM (List OutElem) :=
  as.zipIdx.mapM (fun (a, i) => ewElem p fa fb a (b i) (t i))

/-! ### Normalisation (R166) -/

/-- A value divided by a count, one rounding. -/
def divCount (v : Val) (n : Nat) : NumM Val := f32.div v (Val.ofInt n)

/-- One row of LAYER. -/
def layerNorm (eps : Val) (g b : List Val) (x : List Val) : NumM (List OutElem) := do
  let n := x.length
  let mean ← divCount (← treeSum x) n
  let d ← x.mapM (fun v => f32.sub v mean)
  let sq ← d.mapM (fun v => f32.mul v v)
  let var ← divCount (← treeSum sq) n
  let r ← rsqrtF32 (← f32.add var eps)
  (d.zip (g.zip b)).mapM (fun (v, gv, bv) => do
    let y ← f32.mul v r
    exactOf [y, gv, bv] (Val.add .rne (Val.mul y gv) bv))

/-- One row of RMS. -/
def rmsNorm (eps : Val) (g : List Val) (x : List Val) : NumM (List OutElem) := do
  let sq ← x.mapM (fun v => f32.mul v v)
  let r ← rsqrtF32 (← f32.add (← divCount (← treeSum sq) x.length) eps)
  (x.zip g).mapM (fun (v, gv) => do
    let y ← f32.mul v r
    exactOf [y, gv] (Val.mul y gv))

/-- One row of SOFTMAX. -/
def softmaxRow (x : List Val) : NumM (List OutElem) := do
  let mx := x.foldl Val.max (.inf true)
  let e ← x.mapM (fun v => do expF32 (← f32.sub v mx))
  let s ← treeSum e
  e.mapM (fun v => exactOf [v, s] (Val.div v s))

/-- R166: all rows of length `d`. -/
def normalise (kind : Nat) (eps : Val) (d : Nat) (g b xs : List Val) : NumM (List OutElem) := do
  let rows ← (chunks d xs).mapM (fun x =>
    match kind with
    | 0 => layerNorm eps g b x
    | 1 => rmsNorm eps g x
    | _ => softmaxRow x)
  pure rows.flatten

/-! ### Activation (R167) -/

/-- One element of an activation on a point operand. GELU and SILU of −∞ have the form ∞ × 0, for which no value is
stated: it is an open value, rounded as any other. -/
def activate (kind : Nat) (alpha v : Val) : NumM OutElem :=
  match kind with
  | 0 => pure (OutElem.rne (Val.max v (.zero false)))
  | 1 => if v.isNan || Val.le (.zero false) v then pure (OutElem.rne v) else exactOf [alpha, v] (Val.mul alpha v)
  | 2 => (match v with
    | .fin q => pure (OutElem.rne (.fin (geluApprox q)))
    | .inf true => exactOf [v] (f32.decode (Config.unstated 2 0))
    | v => pure (OutElem.rne v))
  | 3 => (match v with
    | .fin q => pure (OutElem.rne (.fin (siluApprox q)))
    | .inf true => exactOf [v] (f32.decode (Config.unstated 3 0))
    | v => pure (OutElem.rne v))
  | _ => pure (match v with
    | .fin q => OutElem.rne (.fin (softplusApprox q))
    | .zero _ => OutElem.rne (.fin (softplusApprox 0))
    | .inf true => OutElem.rne (.zero false)
    | v => OutElem.rne v)

/-- R167: one element; an interval takes RELU only. -/
def activateElem (kind : Nat) (alpha : Val) : Elem → NumM OutElem
  | .pt v => activate kind alpha v
  | .iv i => pure (.iv i.relu)

/-! ### Reduction (R168) -/

/-- ARGMAX (or ARGMIN): the index of the first extreme element that is no NaN. -/
def argExtreme (less : Val → Val → Bool) (x : List Val) : Nat :=
  match x.zipIdx.foldl (fun (best : Option (Val × Nat)) (v, i) =>
      if v.isNan then best
      else match best with
        | none => some (v, i)
        | some (w, _) => if less w v then some (v, i) else best) none with
  | some (_, i) => i
  | none => 0xFFFFFFFF

/-- One row of a reduction. -/
def reduceRow (kind : Nat) (x : List Val) : NumM OutElem :=
  match kind with
  | 0 => do pure (OutElem.rne (← treeSum x))
  | 1 => do
    let sq ← x.mapM (fun v => f32.mul v v)
    pure (OutElem.rne (← treeSum sq))
  | 2 => pure (OutElem.rne ((x.drop 1).foldl Val.max (x.headD .nan)))
  | 3 => pure (OutElem.rne ((x.drop 1).foldl Val.min (x.headD .nan)))
  | 4 => pure (.raw (argExtreme Val.lt x))
  | _ => pure (.raw (argExtreme (fun a b => Val.lt b a) x))

/-- R168: all rows of length `d`. -/
def reduction (kind d : Nat) (xs : List Val) : NumM (List OutElem) := (chunks d xs).mapM (reduceRow kind)

/-! ### Gather and scatter (R169) -/

/-- R169: the row an index outside the table gives. The spec does not say whether its canonical NaN raises NV: the model raises none
where it is written as a NaN, and the NV of R117's conversion where the output is of an integer format (DESIGN CHOICE, log
entry 31). -/
def oobElem (oob : Nat) : OutElem := OutElem.rne (if oob = 0 then .zero false else .nan)

/-- R751: the format whose M an infinite result takes on its way into IV32: the narrowest of the formats of its infinite operands, else FP32,
the engine's own (R159; log entry 29). -/
def infFormat (l : List (Fmt × Elem)) : Fmt :=
  (l.filter (fun e => e.2.val.isInf)).foldl (fun f e =>
    if decide (((e.1.float.getD f32).largest) < ((f.float.getD f32).largest)) then e.1 else f) .fp32

/-- R169: gather: row `idx[p]` of the table at position `p`. -/
def gather (oob d : Nat) (table : Array OutElem) (rows : Nat) (idx : List Nat) : List OutElem :=
  idx.flatMap (fun r =>
    if r < rows then tabulate d (fun j => table.getD (r * d + j) (oobElem 0))
    else List.replicate d (oobElem oob))

/-- R159, R169: a sum of points rounded once to the format of a tensor: of an integer format to an integer of it, saturated (R116); to FP32
where the tensor has a block scale or lies in accumulator memory (log entry 31). -/
def TensorDesc.addOnce (o : TensorDesc) (u v : Val) : NumM Val :=
  if o.scaled || o.acc.isSome then f32.add u v
  else match o.fmt.float with
    | some f => f.add u v
    | none => do
      let s := Val.add .rne u v
      if s.isNan then do raiseNV; pure (.zero false)
      else pure (Val.ofInt (← convertInt o.fmt.intRange.1 o.fmt.intRange.2 .rne s))

/-- R120, R169: one element of a scatter of intervals that adds (`mode` 1) or takes the maximum; a point of format `f` or `g` is read under R751. -/
def scatterIv (mode : Nat) (f g : Fmt) (old x : Elem) : NumM Elem := do
  let i ← old.toIv f
  let j ← x.toIv g
  if mode = 1 then pure (.iv (← Iv.add f16 i j))
  else pure (.iv (Iv.max (← i.toHalf) (← j.toHalf)))

/-- R169: one element of a scatter into tensor `o`, whose table has format `f` and whose source rows format `g`: the source's in mode
REPLACE, of whatever form; else the sum, rounded once, or the maximum. -/
def scatterElem (mode : Nat) (o : TensorDesc) (f g : Fmt) (old x : Elem) : NumM Elem :=
  match mode with
  | 0 => (match x with
    | .pt v => if o.acc = some .itv then do pure (.iv (← Iv.ofResult ((g.float.getD f32).largest) v)) else pure x
    | .iv _ => pure x)
  | _ => (match old, x with
    | .pt u, .pt v =>
      if o.fmt = .iv16 then scatterIv mode f g old x
      else if mode = 1 then do pure (.pt (← o.addOnce u v))
      else pure (.pt (Val.max u v))
    | _, _ => scatterIv mode f g old x)

/-- R169: scatter of the source rows into the table, element by element in ascending position. -/
def scatter (mode d : Nat) (table : Array Elem) (rows : Nat) (src : Array Elem) (idx : List Nat) (o : TensorDesc) (f g : Fmt) :
    NumM (Array Elem) :=
  idx.zipIdx.foldlM (fun tb (r, p) =>
    if r < rows then
      (List.range d).foldlM (fun tb j => do
        let v ← scatterElem mode o f g (tb.getD (r * d + j) (.pt (.zero false))) (src.getD (p * d + j) (.pt (.zero false)))
        pure (tb.setIfInBounds (r * d + j) v)) tb
    else pure tb) table

/-- An element read from a table, to be moved without change of value. -/
def Elem.toOut : Elem → OutElem
  | .pt v => OutElem.rne v
  | .iv i => .iv i

end Sys2Proof.Machine
end

