-- ==== Sys2Proof/Machine/ArrayOps.lean ====
section
/-!
DEFINITION. The tensor array and vector engine operations as commands (R127 to R149, R162 to R169).
-/
namespace Sys2Proof.Machine

/-! ### Tensor array -/

/-- R145, R538: whether the K range may be divided: fast mode, ORDER_SENSITIVE, `reduce` = 1, and more than one physical cluster;
the free number names the division. -/
def OpCtx.split (c : OpCtx) (free : Nat) : KSplit :=
  if !c.j.replay && c.op.reduce = 1 && c.p.orderSensitive && decide (1 < ((c.rd.lcs.map (fun l => (l.die, l.cl))).eraseDups).length) then .free free 0 0 else .fixed

/-- R135: the starting values of the entries of an output of `count` entries with `nn` columns. -/
def OpCtx.starts (c : OpCtx) (d : OpData) (k : AccKind) (count nn : Nat) : NumM (Array AccVal) :=
  match c.op.par 0 1 with
  | 1 => pure ((c.outDesc 0).accVals k (d.out 0)).toArray
  | 2 => do
    let b ← (c.inDesc 2).elems (d.inp 2)
    let v ← b.mapM (fun e => biasStart k e.val)
    let va := v.toArray
    pure (tabulate count (fun i => va.getD (i % nn) k.zero)).toArray
  | _ => pure (tabulate count (fun _ => k.zero)).toArray

/-- The entries of an array operation written to its output: into accumulator memory, or drained (R108, R133, R134). -/
def OpCtx.putEntries (c : OpCtx) (d : OpData) (vs : List AccVal) : NumM (List ByteArr) :=
  match (c.outDesc 0).acc with
  | some k => pure [(c.outDesc 0).putAcc k vs (d.out 0)]
  | none => do
    let es ← vs.mapM AccVal.drain
    pure [← (c.outDesc 0).put (es.map Elem.toOut) (d.out 0)]

/-- R137: the height T_M of an output tile. -/
def OpCtx.tileHeight (c : OpCtx) (k : AccKind) (rows : Nat) : Nat :=
  if (c.outDesc 0).acc.isSome then rows else c.op.par 2 2 / (if k = .itv then 4 else 2)

/-- The outcome of an array operation laid out as a grid: the mismatch its check finds, else its sums written out. The row that a
mismatch names is m within its batch item (R155 does not say; DESIGN CHOICE, log entry 75). -/
def OpCtx.gridOut (c : OpCtx) (d : OpData) (g : ArrGrid) (kTiles : Nat) (fs : List ArrFault) : NumM ArrOut := do
  let outs ← c.putEntries d (g.faulted fs)
  pure { outs := outs, flags := NumFlags.none,
         bad := (g.mismatch fs).map (fun (t, m, j) => (g.pass (c.tileHeight g.kind (g.items * g.rows)) kTiles t m, m, j)) }

/-- An array operation run for its outcome and flags. -/
def arrOutcome (x : NumM ArrOut) : ArrOut := let r := x.runFlags; { r.1 with flags := r.2 }

/-- R127: a matrix multiply, batched or not. -/
def matrixBody (s : State) (c : OpCtx) (d : OpData) (fs : List ArrFault) : ArrOut :=
  arrOutcome (do
    let k := c.op.accKind c.p.tensors
    let a ← ArrOperand.read (c.inDesc 0) (d.inp 0)
    let w ← ArrOperand.read (c.inDesc 1) (d.inp 1)
    let (nb, nm, nk) := mat (c.inDesc 0).shape
    let (_, nn, _) := mat (c.inDesc 1).shape
    let st ← c.starts d k (nb * nm * nn) nn
    let kt := pairDepth a.fmt w.fmt
    let terms := matTerms nm nn nk (c.op.opcode = 0x0100 || c.op.par 1 1 = 1)
    let vs ← allEntries (c.split s.free) kt k a w nb nm nn terms st
    c.gridOut d { kind := k, a := a, w := w, items := nb, rows := nm, cols := nn, terms := terms, starts := st, sums := vs.toArray }
      (ceilDiv nk kt) fs)

/-- MATRIX_MULTIPLY (R127). -/
def execMatrixMultiply (r : OpRef) (hv : HostView) (faults : List ArrFault) (s : State) (hit : Option BankHit := none) :
    Host.Outcome State Fault Refusal :=
  s.runWrites r 0x0100 hit (fun s => s.runArray r hv 0x0100 faults matrixBody)

/-- BATCHED_MATRIX_MULTIPLY (R127). -/
def execBatchedMatrixMultiply (r : OpRef) (hv : HostView) (faults : List ArrFault) (s : State) (hit : Option BankHit := none) :
    Host.Outcome State Fault Refusal :=
  s.runWrites r 0x0101 hit fun s =>
  s.runArray r hv 0x0101 faults matrixBody

/-- R149: a temporal convolution. -/
def convolutionBody (s : State) (c : OpCtx) (d : OpData) (fs : List ArrFault) : ArrOut :=
  arrOutcome (do
    let k := c.op.accKind c.p.tensors
    let x ← ArrOperand.read (c.inDesc 0) (d.inp 0)
    let w ← ArrOperand.read (c.inDesc 1) (d.inp 1)
    let (_, tIn, cIn) := mat (c.inDesc 0).shape
    let (_, cOut, _) := mat (c.inDesc 1).shape
    let taps := c.op.par 8 1
    let dil := c.op.par 0xA 2
    let pad := c.op.par 0xC 2
    let tOut := tIn + pad - (taps - 1) * dil
    let st ← c.starts d k (tOut * cOut) cOut
    let kt := pairDepth x.fmt w.fmt
    let terms (_ : Nat) := convTerms tIn cIn taps dil pad
    let vs ← allEntries (c.split s.free) kt k x w 1 tOut cOut terms st
    c.gridOut d { kind := k, a := x, w := w, items := 1, rows := tOut, cols := cOut, terms := terms, starts := st, sums := vs.toArray }
      (ceilDiv (taps * cIn) kt) fs)

/-- TEMPORAL_CONVOLUTION (R149). -/
def execTemporalConvolution (r : OpRef) (hv : HostView) (faults : List ArrFault) (s : State) (hit : Option BankHit := none) :
    Host.Outcome State Fault Refusal :=
  s.runWrites r 0x0103 hit fun s =>
  s.runArray r hv 0x0103 faults convolutionBody

/-- R147: fused attention. The passes that a mismatch names are counted query tile by query tile (R148), two to a key block. -/
def attentionBody (s : State) (c : OpCtx) (d : OpData) (fs : List ArrFault) : ArrOut :=
  arrOutcome (do
    let q ← ArrOperand.read (c.inDesc 0) (d.inp 0)
    let kt ← ArrOperand.read (c.inDesc 1) (d.inp 1)
    let v ← ArrOperand.read (c.inDesc 2) (d.inp 2)
    let (_, rows, dim) := mat (c.inDesc 0).shape
    let n := c.op.par 4 4
    let (o, bad) ← attention { q := q, kt := kt, v := v, scale := c.op.parF32 0, rows := rows, d := dim, split := c.split s.free, faults := fs } n
    let outs ← (c.outDesc 0).put (o.map OutElem.rne) (d.out 0)
    let h := Max.max 1 (Min.min 512 (c.op.par 0xC 2 / 2))
    pure { outs := [outs], flags := NumFlags.none,
           bad := bad.map (fun (m, t, j) => (m / h * (2 * ceilDiv n 512) + t, m, j)) })

/-- FUSED_ATTENTION (R146, R147): its softmax steps run on the vector engine, which reports a residue mismatch of its own (R573). -/
def execFusedAttention (r : OpRef) (hv : HostView) (faults : List ArrFault) (s : State) (bad : Option Nat := none) (hit : Option BankHit := none) :
    Host.Outcome State Fault Refusal :=
  s.runWrites r 0x0102 hit fun s =>
  match bad with
  | some _ => s.withOp r 0x0102 fun c => (s.mismatch c 0x0011 (unitCode 3 c.ins.cl) 0x0102 false false).done
  | none => s.runArray r hv 0x0102 faults attentionBody

/-! ### Vector engine -/

/-- The values of a list of elements. -/
def pointsOf (es : List Elem) : List Val := es.map Elem.val

/-- R162: an elementwise operation. -/
def elementwiseBody (_ : State) (c : OpCtx) (d : OpData) : List ByteArr × NumFlags :=
  outcomeOf (do
    let ta := c.inDesc 0
    let as ← ta.elems (d.inp 0)
    let row := ta.shape.getLastD 1
    let bsrc := c.op.par 3 1
    let hasB := c.op.inp 1 ≠ 0xFFFF && bsrc ≠ 2
    let bs ← if hasB then (c.inDesc 1).elems (d.inp 1) else pure []
    let ba := bs.toArray
    let scalar : Elem := .pt (c.op.parF32 4)
    let b (i : Nat) : Elem := if hasB then ba.getD (if bsrc = 1 then i % row else i) scalar else scalar
    let hasT := c.op.inp 2 ≠ 0xFFFF
    let ts ← if hasT then (c.inDesc 2).elems (d.inp 2) else pure []
    let tar := ts.toArray
    let t (i : Nat) : Val := if hasT then (tar.getD i (.pt .nan)).val else c.op.parF32 8
    let p : EwParam := { fn := c.op.par 0 1, rmode := RMode.ofCode (c.op.par 1 1), sat := c.op.par 2 1 = 1, c := c.op.parF32 8, cBits := c.op.par 8 4 }
    let fb : Fmt := if hasB then (c.inDesc 1).fmt else .fp32
    let es ← elementwise p ta.fmt fb as b t
    let from_ (a : Elem) (i : Nat) : Fmt := infFormat ([(ta.fmt, a)] ++ (if ewUnary p.fn then [] else [(fb, b i)]) ++
      (if p.fn = 3 && hasT then [((c.inDesc 2).fmt, .pt (t i))] else []))
    let es ← (es.zip as).zipIdx.mapM (fun ((e, a), i) => e.intoAcc (c.outDesc 0).acc (from_ a i))
    pure [← (c.outDesc 0).put es (d.out 0)])

/-- ELEMENTWISE (R162). -/
def execElementwise (r : OpRef) (hv : HostView) (bad : Option Nat) (s : State) (hit : Option BankHit := none) :
    Host.Outcome State Fault Refusal :=
  s.runWrites r 0x0200 hit (fun s => s.runVector r hv 0x0200 bad elementwiseBody)

/-- A γ or β vector of R166, or its default. -/
def OpCtx.vectorOr (c : OpCtx) (d : OpData) (i n : Nat) (dflt : Val) : NumM (List Val) :=
  if c.op.inp i = 0xFFFF then pure (List.replicate n dflt) else do pure (pointsOf (← (c.inDesc i).elems (d.inp i)))

/-- R166: a normalisation. -/
def normalisationBody (_ : State) (c : OpCtx) (d : OpData) : List ByteArr × NumFlags :=
  outcomeOf (do
    let n := (c.inDesc 0).shape.getLastD 1
    let xs ← (c.inDesc 0).elems (d.inp 0)
    let g ← c.vectorOr d 1 n (.fin 1)
    let b ← c.vectorOr d 2 n (.zero false)
    let es ← normalise (c.op.par 0 1) (c.op.parF32 4) n g b (pointsOf xs)
    pure [← (c.outDesc 0).put es (d.out 0)])

/-- NORMALISATION (R166). -/
def execNormalisation (r : OpRef) (hv : HostView) (bad : Option Nat) (s : State) (hit : Option BankHit := none) :
    Host.Outcome State Fault Refusal :=
  s.runWrites r 0x0201 hit fun s =>
  s.runVector r hv 0x0201 bad normalisationBody

/-- R167: an activation. -/
def activationBody (_ : State) (c : OpCtx) (d : OpData) : List ByteArr × NumFlags :=
  outcomeOf (do
    let xs ← (c.inDesc 0).elems (d.inp 0)
    let es ← xs.mapM (activateElem (c.op.par 0 1) (c.op.parF32 4))
    let es ← es.mapM (fun e => e.intoAcc (c.outDesc 0).acc (c.inDesc 0).fmt)
    pure [← (c.outDesc 0).put es (d.out 0)])

/-- ACTIVATION (R167). -/
def execActivation (r : OpRef) (hv : HostView) (bad : Option Nat) (s : State) (hit : Option BankHit := none) :
    Host.Outcome State Fault Refusal :=
  s.runWrites r 0x0202 hit fun s =>
  s.runVector r hv 0x0202 bad activationBody

/-- R168: a reduction. -/
def reductionBody (_ : State) (c : OpCtx) (d : OpData) : List ByteArr × NumFlags :=
  outcomeOf (do
    let xs ← (c.inDesc 0).elems (d.inp 0)
    let es ← reduction (c.op.par 0 1) ((c.inDesc 0).shape.getLastD 1) (pointsOf xs)
    let es ← es.mapM (fun e => e.intoAcc (c.outDesc 0).acc (c.inDesc 0).fmt)
    pure [← (c.outDesc 0).put es (d.out 0)])

/-- REDUCTION (R168). -/
def execReduction (r : OpRef) (hv : HostView) (bad : Option Nat) (s : State) (hit : Option BankHit := none) :
    Host.Outcome State Fault Refusal :=
  s.runWrites r 0x0203 hit fun s =>
  s.runVector r hv 0x0203 bad reductionBody

/-- The columns of a table: the elements of a row. -/
def rowWidth (shape : List Nat) : Nat := elemCount (shape.drop 1)

/-- R169: gather. Rows are moved as values: a NaN is written in its canonical form (R99), an invalid interval as the whole line
(R118, R119). A row outside the table is +0 or canonical NaN in the output's format. Every element of the table is read, also in a
row that no index names, so an invalid interval there sets IVW (R118 does not say which are inputs; DESIGN CHOICE, log entry 31). -/
def gatherBody (_ : State) (c : OpCtx) (d : OpData) : List ByteArr × NumFlags :=
  outcomeOf (do
    let t := c.inDesc 0
    let o := c.outDesc 0
    let es := (← t.elems (d.inp 0)).map Elem.toOut
    let idx := (c.inDesc 1).rawWords (d.inp 1)
    let out := gather (c.op.par 0 1) (rowWidth t.shape) es.toArray (t.shape.headD 1) idx
    pure [← o.put (← out.mapM (fun e => e.intoAcc o.acc t.fmt)) (d.out 0)])

/-- GATHER (R169). -/
def execGather (r : OpRef) (hv : HostView) (s : State) (hit : Option BankHit := none) :
    Host.Outcome State Fault Refusal :=
  s.runWrites r 0x0204 hit fun s =>
  s.runOp r hv 0x0204 gatherBody

/-- R169: scatter: the table `in[0]` with the rows of `in[2]` put in at the indices of `in[1]`; every element of both is read, as in gatherBody. A sum is rounded to the output
format, and to FP32 where that has a block scale, which is formed when the rows are written (log entry 31). -/
def scatterBody (_ : State) (c : OpCtx) (d : OpData) : List ByteArr × NumFlags :=
  outcomeOf (do
    let t := c.inDesc 0
    let o := c.outDesc 0
    let table ← t.elems (d.inp 0)
    let src ← (c.inDesc 2).elems (d.inp 2)
    let idx := (c.inDesc 1).rawWords (d.inp 1)
    let out ← scatter (c.op.par 0 1) (rowWidth t.shape) table.toArray (t.shape.headD 1) src.toArray idx o t.fmt (c.inDesc 2).fmt
    pure [← o.put (← out.toList.mapM (fun e => e.toOut.intoAcc o.acc t.fmt)) (d.out 0)])

/-- SCATTER (R169). -/
def execScatter (r : OpRef) (hv : HostView) (s : State) (bad : Option Nat := none) (hit : Option BankHit := none) :
    Host.Outcome State Fault Refusal :=
  s.runWrites r 0x0205 hit fun s =>
  s.runVector r hv 0x0205 bad scatterBody

/-- R742: copy and convert; a `src_lc` names the region of another logical cluster. Equal formats copy bits, and a read of an FP32
accumulator is FP32 unchanged (R108). Where one format code is block-scaled on one side only, the elements are converted by
value (DESIGN CHOICE, log entry 28: R742's equal formats may be read as the codes alone), and so they are where the block scales of
one side run along another dimension than those of the other, as in V's layout: no scale byte of the one belongs to a block of the
other (DESIGN CHOICE, log entry 29). A bit copy reads no value: an invalid IV16 word is carried over and sets no IVW (DESIGN CHOICE,
log entry 28: R118 may be read otherwise). A write into accumulator memory follows
R744: `sat` has no part in it, and a point into IV32 is the interval of R751 in its own format. -/
def copyBody (_ : State) (c : OpCtx) (d : OpData) : List ByteArr × NumFlags :=
  outcomeOf (do
    let t := c.inDesc 0
    let o := c.outDesc 0
    let m := RMode.ofCode (c.op.par 0 1)
    let sat := c.op.par 1 1 = 1
    let same := t.fmt = o.fmt && t.scaled = o.scaled && t.acc.isNone && o.acc.isNone && (!t.scaled || t.blocks.head? = o.blocks.head?)
    if (t.acc = some .flt || (t.acc.isNone && t.fmt = .fp32)) && !t.scaled && (o.acc = some .flt || (o.acc.isNone && o.fmt = .fp32)) && !o.scaled then
      pure [← o.put ((t.rawWords (d.inp 0)).map OutElem.raw) (d.out 0)]
    else if same then
      let ws := t.patterns (d.inp 0)
      let bs := ws.zipIdx.foldl (fun a (w, i) => putPattern o.fmt a (o.layout.pos o.shape i) w) (d.out 0)
      let bs := if t.scaled then
          o.blocks.foldl (fun a b => a.setIfInBounds (o.scaleAt (b.headD 0)) ((d.inp 0).getD (t.scaleAt (b.headD 0)) 0)) bs
        else bs
      pure [bs]
    else do
      let es ← t.elems (d.inp 0)
      let out ← es.mapM (fun e => match e with
        | .pt v => (OutElem.val v m (sat && o.acc.isNone)).intoAcc o.acc t.fmt
        | .iv i => pure (.iv i))
      pure [← o.put out (d.out 0)])

/-- COPY (R74, R742). -/
def execCopy (r : OpRef) (hv : HostView) (s : State) (hit : Option BankHit := none) : Host.Outcome State Fault Refusal :=
  s.runWrites r 0x0700 hit fun s =>
  let s := s.merge hv
  s.withOp r 0x0700 fun c =>
      let src := c.op.par 2 1
      let other : Option (List Byte) :=
        if src = 0xFF then none
        else match c.p.tensors[c.op.inp 0]? with
          | some t => some (Memory.read (((s.regionOf c src).map Prod.fst).getD []) t.offset (c.inDesc 0).footprint)
          | none => none
      match s.opData hv c with
      | none => (s.opFail c).done
      | some d =>
        let d : OpData := match other with
          | some b => { d with ins := d.ins.set 0 b.toArray }
          | none => d
        let (outs, fl) := copyBody s c d
        (s.opFinish hv c outs fl).done

end Sys2Proof.Machine
end

