-- ==== Sys2Proof/Machine/FletcherOps.lean ====
section
/-!
DEFINITION. Random generation and the Fletcher operations as commands (R184 to R205).
-/
namespace Sys2Proof.Machine

/-- R72, R203: how far the part an instance sees lies into the whole tensor, in elements. -/
def OpCtx.sliceStart (c : OpCtx) (x : Nat) : Nat :=
  match c.p.tensors[x]? with
  | some t => if t.sliced && c.all then c.ins.lc * elemCount (c.desc x).shape else 0
  | none => 0

/-- R63, R203: the iteration index of an operation: 0 outside a loop. -/
def OpCtx.iter (c : OpCtx) : Nat := c.sr.iter

/-- R203 to R205: random generation. -/
def randomBody (_ : State) (c : OpCtx) (d : OpData) : List ByteArr × NumFlags :=
  outcomeOf (do
    let o := c.outDesc 0
    let stream := (c.sel (c.op.par 1 1) (c.op.par 4 4)) % 2 ^ 32
    let e0 := c.sliceStart (c.op.out 0)
    let es := tabulate (elemCount o.shape) (fun i =>
      randomElem (c.op.par 0 1) (c.op.parF32 8) (c.op.parF32 0xC) (c.j.f 0x50 8) c.iter stream (e0 + i))
    pure [← o.put es (d.out 0)])

/-- RANDOM_GENERATION (R204, R205). -/
def execRandomGeneration (r : OpRef) (hv : HostView) (s : State) (bad : Option Nat := none) (hit : Option BankHit := none) :
    Host.Outcome State Fault Refusal :=
  s.runWrites r 0x0206 hit fun s =>
  s.runVector r hv 0x0206 bad randomBody

/-- The body model a Fletcher operation uses: the version the job pinned (R176, R197). -/
def OpCtx.body (c : OpCtx) : Body :=
  let b := c.op.bodySlot c.rd.params
  parseBody (((c.j.pinBodies.find? (fun x => x.slot = b)).map (·.record)).getD (zeros bodyBytes))

/-- The rows of a trajectory tensor (R178): J + 1 values each, with C and W. -/
def OpCtx.ways (c : OpCtx) (d : OpData) : NumM (Nat × Nat × List (List Val)) := do
  let t := c.inDesc 0
  let xs ← t.elems (d.inp 0)
  pure (t.shape.headD 1, t.shape.getD 1 1, chunks (t.shape.getLastD 1) (pointsOf xs))

/-- Raw words laid into an FP32-format output. -/
def OpCtx.putWords (c : OpCtx) (i : Nat) (ws : List Nat) (d : OpData) : NumM ByteArr :=
  (c.outDesc i).put (ws.map OutElem.raw) (d.out i)

/-- R184, R186: point forward kinematics. -/
def pointFkBody (_ : State) (c : OpCtx) (d : OpData) : List ByteArr × NumFlags :=
  outcomeOf (do
    let (_, _, ways) ← c.ways d
    let jac := c.op.par 2 1 % 2 = 1
    let (rs, js) ← pointKinematics c.body jac ways
    let o ← c.putWords 0 rs d
    if jac then pure [o, ← c.putWords 1 js d] else pure [o])

/-- POINT_FORWARD_KINEMATICS (R184). -/
def execPointForwardKinematics (r : OpRef) (hv : HostView) (s : State) (hit : Option BankHit := none) :
    Host.Outcome State Fault Refusal :=
  s.runWrites r 0x0300 hit fun s =>
  s.runOp r hv 0x0300 pointFkBody

/-- R190, R194: interval forward kinematics, over all segments or over a sub-range list. -/
def intervalFkBody (_ : State) (c : OpCtx) (d : OpData) : List ByteArr × NumFlags :=
  outcomeOf (do
    let (nc, nw, ways) ← c.ways d
    let pad := (c.op.parF32 4).toRat
    let ws ←
      if c.op.inp 1 = 0xFFFF then sweptBoxes c.body pad nc nw ways.toArray
      else
        let raw := (c.inDesc 1).rawWords (d.inp 1)
        subRangeBoxes c.body pad nc nw ways.toArray ((chunks 2 raw).map (fun e => (e.headD 0, e.getD 1 0)))
    pure [← c.putWords 0 ws d])

/-- INTERVAL_FORWARD_KINEMATICS (R190). -/
def execIntervalForwardKinematics (r : OpRef) (hv : HostView) (s : State) (hit : Option BankHit := none) :
    Host.Outcome State Fault Refusal :=
  s.runWrites r 0x0301 hit fun s =>
  s.runOp r hv 0x0301 intervalFkBody

end Sys2Proof.Machine
end

