-- ==== Sys2Proof/Machine/Geometry.lean ====
section
/-!
DEFINITION. Geometry queries (R250 to R275): the static walk, the verdict, moving obstacles, test, summary, distance
and gradient records, and subdivision.
-/
namespace Sys2Proof.Machine

/-- A box by its corners, x, y, z. -/
structure Box3 where
  lo : List Val
  hi : List Val
  deriving DecidableEq, Repr

/-- Coordinate `a` of a corner. -/
def coord (c : List Val) (a : Nat) : Val := c.getD a .nan

/-- The exact real of a finite coordinate. -/
def coordQ (c : List Val) (a : Nat) : Rat := (coord c a).toRat

/-- The world a job has pinned: the copy, the slot and the version (R226, R251). -/
structure WorldView where
  lat : Lattice
  slot : Nat
  version : Nat
  deriving DecidableEq, Repr

/-- R255: the lattice coordinate of a coordinate in metres. -/
def WorldView.u (w : WorldView) (a : Nat) (x : Rat) : Rat :=
  (x - (w.lat.origin a).toRat) * 1000 / ((2 ^ w.lat.s : Nat) : Rat)

/-- R256: whether a box with finite corners is contained. -/
def WorldView.containedQ (w : WorldView) (lo hi : Nat → Rat) : Bool :=
  (List.range 3).all (fun a =>
    let o := (w.lat.origin a).toRat
    decide (o ≤ lo a) && decide (hi a ≤ o + (w.lat.extent a : Rat) * w.lat.voxel))

/-- R256: whether a box is contained; an infinite corner is not. -/
def WorldView.contained (w : WorldView) (b : Box3) : Bool :=
  (List.range 3).all (fun a => (coord b.lo a).isFinite && (coord b.hi a).isFinite) &&
    w.containedQ (coordQ b.lo) (coordQ b.hi)

/-- R256: whether the enlargement of a box by ρ is contained. -/
def WorldView.enlargedContained (w : WorldView) (b : Box3) (rho : Rat) : Bool :=
  w.containedQ (fun a => coordQ b.lo a - rho) (fun a => coordQ b.hi a + rho)

/-- An index clipped to 0 .. n − 1. -/
def clipIndex (n : Nat) (i : Int) : Nat := (Max.max 0 (Min.min i ((n : Int) - 1))).toNat

/-- R255: the covered voxel indices on an axis. -/
def WorldView.covered (w : WorldView) (b : Box3) (a : Nat) : Nat × Nat :=
  let n := w.lat.extent a
  (clipIndex n ((w.u a (coordQ b.lo a)).ceil - 1), clipIndex n (w.u a (coordQ b.hi a)).floor)

/-- The integers of an inclusive range. -/
def span (lo hi : Nat) : List Nat := tabulate (hi + 1 - lo) (fun i => lo + i)

/-- The triples of three inclusive ranges in ascending z, then y, then x. -/
def spanZYX (x y z : Nat × Nat) : List (Nat × Nat × Nat) :=
  (span z.1 z.2).flatMap (fun k => (span y.1 y.2).flatMap (fun j => (span x.1 x.2).map (fun i => (i, j, k))))

/-- A range of voxels as a range of cells of 2^sh voxels. -/
def shrink (sh : Nat) (r : Nat × Nat) : Nat × Nat := (r.1 / 2 ^ sh, r.2 / 2 ^ sh)

/-- A range of voxels cut to those of one cell of 2^sh voxels. -/
def within (sh c : Nat) (r : Nat × Nat) : Nat × Nat := (Max.max r.1 (c * 2 ^ sh), Min.min r.2 (c * 2 ^ sh + 2 ^ sh - 1))

/-! ### The static walk (R260) -/

/-- What the static walk computes; `b` none is +∞. -/
structure Walk where
  b : Option Nat
  occAll : Bool
  occAny : Bool
  wide : Bool
  n0 : Nat
  nb : Nat
  deriving DecidableEq, Repr

/-- The walk before its first cell. -/
def Walk.start : Walk := ⟨none, true, false, false, 0, 0⟩

/-- A free cell or voxel with a bound. -/
def Walk.free (w : Walk) (d : Nat) : Walk :=
  { w with b := some (match w.b with
      | none => d
      | some x => Min.min x d), occAll := false }

/-- An occupied cell or voxel. -/
def Walk.occupied (w : Walk) : Walk := { w with b := some 0, occAny := true }

/-- A brick's covered voxels. -/
def walkVoxels (brick : List Byte) (vs : List (Nat × Nat × Nat)) (w : Walk) : Walk :=
  vs.foldl (fun w (i, j, k) =>
    let t := brickWord brick (i % 8 + 8 * (j % 8) + 64 * (k % 8))
    if 0x8000 ≤ t then w.occupied else w.free t) w

/-- One covered brick. -/
def walkBrick (v : WorldView) (rr : Rat) (d0 : Nat) (x y z : Nat × Nat) (w : Walk) (k : Nat × Nat × Nat) : Walk :=
  if w.wide then w
  else if w.nb = 64 then { w with wide := true }
  else
    let w := { w with nb := w.nb + 1 }
    let key := brickKey k.1 k.2.1 k.2.2
    match v.lat.l1At key v.version with
    | none => w.free (32 * d0)
    | some (_, e) =>
      if e.state = 1 then w.free e.bound
      else if e.state = 2 then w.occupied
      else if rr < (e.bound : Rat) then w.free e.bound
      else walkVoxels (v.lat.pool.getD (v.lat.poolPlace v.slot key e.brick) [])
        (spanZYX (within 3 k.1 x) (within 3 k.2.1 y) (within 3 k.2.2 z)) w

/-- One covered L0 cell. -/
def walkCell (v : WorldView) (rr : Rat) (x y z : Nat × Nat) (w : Walk) (c : Nat × Nat × Nat) : Walk :=
  if w.wide then w
  else if w.n0 = 64 then { w with wide := true }
  else
    let w := { w with n0 := w.n0 + 1 }
    let e := v.lat.l0At (v.lat.cellIndex c.1 c.2.1 c.2.2) v.version
    if e.kind = 1 then w.occupied
    else if e.kind = 0 || rr < ((32 * e.d0 : Nat) : Rat) then w.free (32 * e.d0)
    else (spanZYX (shrink 3 (within 6 c.1 x)) (shrink 3 (within 6 c.2.1 y)) (shrink 3 (within 6 c.2.2 z))).foldl
      (walkBrick v rr e.d0 x y z) w

/-- R260: the static walk of a contained box; `rr` is the reach in lattice units. -/
def staticWalk (v : WorldView) (b : Box3) (rr : Rat) : Walk :=
  let x := v.covered b 0
  let y := v.covered b 1
  let z := v.covered b 2
  (spanZYX (shrink 6 x) (shrink 6 y) (shrink 6 z)).foldl (walkCell v rr x y z) Walk.start

/-! ### Moving obstacles (R263, R264) -/

/-- A closed interval of world time. -/
structure TimeIv where
  lo : Rat
  hi : Rat
  deriving DecidableEq, Repr

/-- The common part of two closed intervals, if they meet. -/
def TimeIv.meet (a b : TimeIv) : Option TimeIv :=
  let lo := Max.max a.lo b.lo
  let hi := Min.min a.hi b.hi
  if lo ≤ hi then some ⟨lo, hi⟩ else none

/-- The active interval of an obstacle. -/
def Obstacle.active (o : Obstacle) : TimeIv := ⟨o.tStart.toRat, o.tEnd.toRat⟩

/-- R264: the box A of an obstacle over [t0, t1], on axis `a`. -/
def Obstacle.boxAxis (o : Obstacle) (t : TimeIv) (a : Nat) : Rat × Rat :=
  let ts := o.tStart.toRat
  let at_ (p : List Val) (tt : Rat) : Rat := coordQ p a + (tt - ts) * coordQ o.vel a
  let ps := [at_ o.a0 t.lo, at_ o.a0 t.hi] ++ (if o.kind = 1 then [at_ o.b0 t.lo, at_ o.b0 t.hi] else [])
  (ps.foldl Min.min (ps.headD 0), ps.foldl Max.max (ps.headD 0))

/-- R264: ρ_o over an interval that ends at t1. -/
def Obstacle.rho (o : Obstacle) (t1 : Rat) : Rat := o.radius.toRat + o.grow.toRat * (t1 - o.tStart.toRat)

/-- The parameters of a test operation (R252) with the words it names resolved. -/
structure GeoParam where
  margin : Rat
  summary : Bool
  accumulate : Bool
  maxDepth : Nat
  moving : Bool
  agent : Nat
  tau : Rat
  tFix : Val
  roiLo : List Val
  roiHi : List Val
  winLo : Val
  winHi : Val
  deriving DecidableEq, Repr

/-- What stands for an infinite bound of a span of time: beyond every FP32 value. -/
def beyondTime : Rat := pow2 200

/-- R258: a time rounded to FP32; one beyond the largest value rounds to it or to infinity, as the direction has it. -/
def roundTime (mode : RMode) (q : Rat) : Rat :=
  let r := if q = 0 then 0 else f32.roundUnbounded mode q
  if ratAbs r ≤ f32.largest then r
  else
    let v := f32.overflow mode (decide (q < 0))
    if v.isInf then (if q < 0 then -beyondTime else beyondTime) else v.toRat

/-- R258: the time window in world time. -/
def GeoParam.window (p : GeoParam) : TimeIv :=
  ⟨roundTime .rdn (p.winLo.toRat + p.tau), roundTime .rup (p.winHi.toRat + p.tau)⟩

/-- R263: whether an entry qualifies for the screen. -/
def GeoParam.screens (p : GeoParam) (o : Obstacle) : Bool :=
  decide (o.kind ≠ 0xFF ∧ (o.agent ≠ p.agent ∨ p.agent = 0xFFFF)) &&
    match o.active.meet p.window with
    | none => false
    | some t => (List.range 3).all (fun a =>
        let (lo, hi) := o.boxAxis t a
        let rho := o.rho t.hi
        decide (lo - rho ≤ coordQ p.roiHi a) && decide (coordQ p.roiLo a ≤ hi + rho))

/-- R263: the screen: its entries in ascending slot order, none when it is overflowed. -/
def GeoParam.screen (p : GeoParam) (table : List Obstacle) : Option (List Obstacle) :=
  let es := table.filter p.screens
  if 64 < es.length then none else some es

/-- R264: g_x² + g_y² + g_z² and ρ_o of an obstacle against a box over a world-time interval; none when the intervals
do not meet. -/
def Obstacle.gap (o : Obstacle) (b : Box3) (t : TimeIv) : Option (Rat × Rat) :=
  match o.active.meet t with
  | none => none
  | some c =>
    let g2 := (List.range 3).foldl (fun s a =>
      let (lo, hi) := o.boxAxis c a
      let g := Max.max 0 (Max.max (lo - coordQ b.hi a) (coordQ b.lo a - hi))
      s + g * g) (0 : Rat)
    some (g2, o.rho c.hi)

/-! ### The verdict (R259, R261) -/

/-- A test as the emitter reads it from a record. -/
structure GTest where
  box : Box3
  radius : Val
  tlo : Val
  thi : Val
  invalid : Bool
  limit : Bool
  pad : Bool
  cand : Nat
  seg : Nat
  prim : Nat
  sub : Nat
  deriving DecidableEq, Repr

/-- R259: whether a test record is INVALID. -/
def GTest.bad (t : GTest) : Bool :=
  t.invalid || (t.box.lo ++ t.box.hi ++ [t.radius, t.tlo, t.thi]).any Val.isNan || t.radius.isInf ||
    Val.lt t.radius (.zero false) || t.tlo.isInf || t.thi.isInf ||
    (List.range 3).any (fun a => Val.lt (coord t.box.hi a) (coord t.box.lo a)) || Val.lt t.thi t.tlo

/-- A decided test: reason, walk (none when it did not run), clear, mclear, the nearest agent, and whether mclear overflows (R117). -/
structure Decision where
  reason : Nat
  walk : Option Walk
  clear : Val
  mclear : Val
  agent : Nat
  overflow : Bool
  deriving DecidableEq, Repr

/-- An exact difference rounded toward −∞ to FP32 (an exact zero difference is −0, R101). -/
def roundDown (q : Rat) : Val := (f32.round .rdn false q (zneg := true)).runFlags.1

/-- The smallest clearance contribution of a screen to a test and the agent it belongs to, lowest slot on ties
(R264, R266). -/
def nearest (screen : List Obstacle) (b : Box3) (t : TimeIv) (r : Rat) : Option (Rat × Nat) :=
  screen.foldl (fun best o =>
    match o.gap b t with
    | none => best
    | some (g2, rho) =>
      let c := (if g2 = 0 then 0 else sqrtRat g2) - rho - r
      match best with
      | none => some (c, o.agent)
      | some (x, _) => if c < x then some (c, o.agent) else best) none

/-- The world-time interval of a test (R258). -/
def GeoParam.testTime (p : GeoParam) (t : GTest) : TimeIv :=
  ⟨roundTime .rdn (t.tlo.toRat + p.tau), roundTime .rup (t.thi.toRat + p.tau)⟩

/-- R261 after the walk: the reason. -/
def decideReason (v : WorldView) (p : GeoParam) (screen : Option (List Obstacle)) (t : GTest) (w : Walk) : Nat :=
  let rr := t.radius.toRat + p.margin
  let rru := rr * 256000 / ((2 ^ v.lat.s : Nat) : Rat)
  let tt := p.testTime t
  let point := (List.range 3).all (fun a => Val.eq (coord t.box.lo a) (coord t.box.hi a))
  let win := p.window
  if !w.wide && (w.occAll || (point && w.occAny)) then 0x05
  else if !v.enlargedContained t.box rr then 0x04
  else if w.wide then 0x06
  else if (match w.b with
    | none => false
    | some b => decide ((b : Rat) ≤ rru)) then 0x07
  else if p.moving then
    match screen with
    | none => 0x08
    | some es =>
      if !(List.range 3).all (fun a => decide (coordQ p.roiLo a ≤ coordQ t.box.lo a - rr) &&
          decide (coordQ t.box.hi a + rr ≤ coordQ p.roiHi a)) || decide (tt.lo < win.lo) || decide (win.hi < tt.hi)
      then 0x09
      else if es.any (fun o => match o.gap t.box tt with
        | none => false
        | some (g2, rho) => !decide ((rr + rho) * (rr + rho) < g2)) then 0x0A
      else 0x00
  else 0x00

/-- R261, R266: a test decided; the screen is none when overflowed. -/
def decideTest (v : WorldView) (p : GeoParam) (screen : Option (List Obstacle)) (t : GTest) : Decision :=
  let early (r : Nat) : Decision := ⟨r, none, .inf true, .inf true, 0xFFFF, false⟩
  if t.pad then early 0x01
  else if t.bad then early 0x02
  else if t.limit then early 0x03
  else if !v.contained t.box then early 0x04
  else
    let rr := t.radius.toRat + p.margin
    let w := staticWalk v t.box (rr * 256000 / ((2 ^ v.lat.s : Nat) : Rat))
    let reason := decideReason v p screen t w
    let clear := if w.wide then .inf true else
      match w.b with
      | none => .inf false
      | some b => roundDown ((b : Rat) * ((2 ^ v.lat.s : Nat) : Rat) / 256000 - t.radius.toRat)
    let near := if p.moving then (screen.bind (fun es => nearest es t.box (p.testTime t) t.radius.toRat)) else none
    let blind := p.moving && (screen.isNone || decide (reason = 0x09))
    let mclear :=
      if blind then .inf true
      else match near with
        | none => .inf false
        | some (c, _) => roundDown c
    ⟨reason, some w, clear, mclear,
      (match near with
      | none => 0xFFFF
      | some (_, a) => a),
      !blind && near.isSome && mclear.isInf⟩

/-- R261: the verdict code of a reason: 0 FREE, 1 BLOCKED, 2 UNDECIDED, 3 OUTSIDE. -/
def verdictOf (reason : Nat) : Nat :=
  match reason with
  | 0x00 => 0
  | 0x03 => 1
  | 0x05 => 1
  | 0x04 => 3
  | _ => 2

/-- R261: the reasons a test may be subdivided for. -/
def subdividable (reason : Nat) : Bool := decide (reason = 0x06 ∨ reason = 0x07 ∨ reason = 0x0A)

/-- R266: the test record, 8 words; `agent` and the clearances as decided, the reason as subdivision leaves it, the
verdict of the reason or one that an injection gives (R651). -/
def testRecord (t : GTest) (d : Decision) (reason verdict : Nat) : List Nat :=
  let (n0, nb) := match d.walk with
    | none => (0, 0)
    | some w => (w.n0, w.nb)
  [t.cand, t.seg + 256 * t.prim + 65536 * t.sub, verdict + 256 * reason + 65536 * d.agent,
   f32.encode d.clear, f32.encode d.mclear, n0 + 65536 * nb, 0, 0]

/-! ### Subdivision (R271, R272) -/

/-- The reasons after subdivision, and the list's entries: parents in order, split while both children fit. -/
def subdivide (room maxDepth : Nat) (ts : List (GTest × Decision)) : List Nat × List (Nat × Nat) :=
  let (rs, es) := ts.foldl (fun (acc : List Nat × List (Nat × Nat)) (t, d) =>
    let (rs, es) := acc
    if subdividable d.reason then
      let depth := t.sub % 16
      let n := t.sub / 16 % 256
      if maxDepth ≤ depth then (0x0C :: rs, es)
      else if es.length + 2 ≤ room then
        let child (n : Nat) : Nat × Nat := (t.cand, t.seg + 256 * t.prim + 65536 * (depth + 1) + 2 ^ 20 * n)
        (0x0B :: rs, child (2 * n + 1) :: child (2 * n) :: es)
      else (0x0D :: rs, es)
    else (d.reason :: rs, es)) ([], [])
  (rs.reverse, es.reverse)

/-- R272: the list filled up with padding entries, as raw words. -/
def listWords (room : Nat) (es : List (Nat × Nat)) : List Nat :=
  es.flatMap (fun (a, b) => [a, b]) ++ (List.replicate (room - es.length) [0xFFFFFFFF, 0]).flatten

/-! ### Summaries (R268, R269) -/

/-- A summary row as eight words. -/
abbrev SummaryRow := List Nat

/-- R269: a row under RESET. -/
def summaryReset : SummaryRow := [2, f32.encode (.inf false), f32.encode (.inf false), 0, 0, 0, 0, 0xFFFFFFFF]

/-- An unsigned count that saturates. -/
def satInc (n : Nat) : Nat := Min.min (n + 1) 0xFFFFFFFF

/-- The minimum of two FP32 patterns under R102. -/
def minBits (a b : Nat) : Nat := f32.encode (Val.min (f32.decode a) (f32.decode b))

/-- R269 item 3: one test enters its row. -/
def summaryAdd (row : SummaryRow) (t : GTest) (d : Decision) (reason v : Nat) : SummaryRow :=
  let g (i : Nat) : Nat := row.getD i 0
  let pend : Int := bitsInt 32 (g 6)
  let pend := if 1 ≤ t.sub % 16 then pend - 1 else pend
  if reason = 0x0B then [g 0, g 1, g 2, g 3, g 4, g 5, intBits 32 (pend + 2), g 7]
  else
    let seg := if v = 0 then g 7 else Min.min (g 7) t.seg
    [g 0, minBits (g 1) (f32.encode d.clear), minBits (g 2) (f32.encode d.mclear),
     if v = 1 then satInc (g 3) else g 3, if v = 3 then satInc (g 4) else g 4, if v = 2 then satInc (g 5) else g 5,
     intBits 32 pend, seg]

/-- R269 item 5: the verdict of an updated row. -/
def summaryVerdict (row : SummaryRow) : SummaryRow :=
  let g (i : Nat) : Nat := row.getD i 0
  (if 0 < g 3 then 1 else if 0 < g 4 then 3 else if 0 < g 5 ∨ g 6 ≠ 0 then 2 else 0) :: row.drop 1

/-- R269: all tests entered into the rows, each with its reason and verdict; only rows a test touched get a new verdict. -/
def summarise (rows : Array SummaryRow) (ts : List (GTest × Decision × Nat × Nat)) : Array SummaryRow :=
  let counted := ts.filter (fun (t, _, r, _) => decide (r ≠ 0x01 ∧ t.cand < rows.size))
  let rows := counted.foldl (fun (a : Array SummaryRow) (t, d, r, v) =>
    a.setIfInBounds t.cand (summaryAdd (a.getD t.cand []) t d r v)) rows
  ((counted.map (fun (t, _, _, _) => t.cand)).eraseDups).foldl (fun (a : Array SummaryRow) c =>
    a.setIfInBounds c (summaryVerdict (a.getD c []))) rows

/-! ### Reading records -/

/-- A point record (R184) at position `e` as a sphere or capsule test at `t_fix` (R250, R267); `w` and `p` are the
waypoint and primitive extents. -/
def pointTest (capsule : Bool) (tFix : Val) (w p e : Nat) (ws : List Nat) : GTest :=
  let f (i : Nat) : Val := f32.decode (ws.getD i 0)
  let xa := [f 0, f 1, f 2]
  let xb := [f 4, f 5, f 6]
  let fl := ws.getD 7 0
  let box : Box3 := if capsule then ⟨List.zipWith Val.min xa xb, List.zipWith Val.max xa xb⟩ else ⟨xa, xa⟩
  ⟨box, f 3, tFix, tFix, bit fl 0, bit fl 1, false, e / (w * p), e / p % w, e % p, 0⟩

/-- A swept-box record (R190) as a test. -/
def sweptTest (ws : List Nat) : GTest :=
  let f (i : Nat) : Val := f32.decode (ws.getD i 0)
  let id := ws.getD 10 0
  let fl := ws.getD 11 0
  ⟨⟨[f 0, f 1, f 2], [f 3, f 4, f 5]⟩, f 6, f 7, f 8, bit fl 0, bit fl 1, bit fl 2,
   ws.getD 9 0, id % 256, id / 256 % 256, id / 65536⟩

/-! ### Distance queries (R273 to R275) -/

/-- R273: the bound and occupancy over the voxels a contained point covers. -/
def pointBound (v : WorldView) (b : Box3) : Nat × Bool :=
  (spanZYX (v.covered b 0) (v.covered b 1) (v.covered b 2)).foldl (fun (m, o) (i, j, k) =>
    match v.lat.voxelInfo v.slot v.version i j k with
    | .free d => (Min.min m d, o)
    | .occupied _ => (0, true)
    | .outside => (m, o)) (2 ^ 32, false)

/-- The two sample indices and the fraction of an axis (R274); an infinite coordinate has one index and f = 0. -/
def WorldView.sample (v : WorldView) (a : Nat) (x : Val) : Nat × Nat × Rat :=
  let n := v.lat.extent a
  match x with
  | .inf false => (n - 1, n - 1, 0)
  | .inf true => (0, 0, 0)
  | x =>
    let uc := v.u a x.toRat - 1 / 2
    let i0 := uc.floor
    (clipIndex n i0, clipIndex n (i0 + 1), uc - (i0 : Rat))

/-- R274: the sample of a voxel. -/
def WorldView.sigma (v : WorldView) (i j k : Nat) : Rat :=
  match v.lat.voxelInfo v.slot v.version i j k with
  | .free d => (d : Rat)
  | .occupied d => -(d : Rat)
  | .outside => 0

/-- R274: φ and its gradient as exact reals. -/
def gradient (v : WorldView) (xa : List Val) : Rat × List Rat :=
  let s0 := v.sample 0 (coord xa 0)
  let s1 := v.sample 1 (coord xa 1)
  let s2 := v.sample 2 (coord xa 2)
  let pick (s : Nat × Nat × Rat) (b : Nat) : Nat := if b = 0 then s.1 else s.2.1
  let wt (s : Nat × Nat × Rat) (b : Nat) : Rat := if b = 0 then 1 - s.2.2 else s.2.2
  let dw (s : Nat × Nat × Rat) (b : Nat) : Rat := if s.1 = s.2.1 then 0 else if b = 0 then -1 else 1
  let sum (f : Nat → Nat → Nat → Rat) : Rat := (List.range 8).foldl (fun acc n =>
    let (a, b, c) := (n % 2, n / 2 % 2, n / 4)
    acc + f a b c * v.sigma (pick s0 a) (pick s1 b) (pick s2 c)) 0
  let sc : Rat := ((2 ^ v.lat.s : Nat) : Rat) / 256000
  (sum (fun a b c => wt s0 a * wt s1 b * wt s2 c) * sc,
   [sum (fun a b c => dw s0 a * wt s1 b * wt s2 c) / 256, sum (fun a b c => wt s0 a * dw s1 b * wt s2 c) / 256,
    sum (fun a b c => wt s0 a * wt s1 b * dw s2 c) / 256])

/-- An exact real rounded RNE to an FP32 pattern. -/
def nearBits (q : Rat) : Nat := f32.encode (f32.round .rne false q).runFlags.1

/-- R275: a query record that is INVALID. -/
def queryBad (ws : List Nat) : Bool :=
  let f (i : Nat) : Val := f32.decode (ws.getD i 0)
  bit (ws.getD 7 0) 0 || [f 0, f 1, f 2].any Val.isNan || (f 3).isNan || (f 3).isInf || Val.lt (f 3) (.zero false)

/-- R117: an INVALID query whose coordinates and radius hold no NaN: its record's NaN sets NV. -/
def queryMakesNaN (ws : List Nat) : Bool :=
  queryBad ws && !((List.range 4).any (fun i => (f32.decode (ws.getD i 0)).isNan))

/-- R273 to R275: the record of one point query; `grad` selects the gradient record of 8 words. -/
def distanceRecord (v : WorldView) (grad : Bool) (ws : List Nat) : List Nat :=
  let f (i : Nat) : Val := f32.decode (ws.getD i 0)
  let xa := [f 0, f 1, f 2]
  let r := f 3
  let fl := ws.getD 7 0
  let lim := 8 * bit01 (bit fl 1)
  let nan := f32.nanBits
  if queryBad ws then
    if grad then [nan, nan, 4 + lim, nan, nan, nan, nan, 0] else [nan, nan, 4 + lim, 0]
  else
    let b : Box3 := ⟨xa, xa⟩
    let sc : Rat := ((2 ^ v.lat.s : Nat) : Rat) / 256000
    let head :=
      if v.contained b then
        let (d, occ) := pointBound v b
        [f32.encode (f32.round .rdn false ((d : Rat) * sc)).runFlags.1, f32.encode (roundDown ((d : Rat) * sc - r.toRat)),
         bit01 occ + lim]
      else [0, f32.encode r.neg, 2 + lim]
    if grad then
      let (phi, g) := gradient v xa
      head ++ [nearBits phi] ++ g.map nearBits ++ [0]
    else head ++ [0]

end Sys2Proof.Machine
end

