-- ==== Sys2Proof/Machine/GeometryOps.lean ====
section
/-!
DEFINITION. The geometry operations as commands (R250 to R275), verdict injection (R651) and compare mode (R580 to R587).
-/
namespace Sys2Proof.Machine

/-! ### World, parameters, tests -/

/-- The world slot and version a job pinned, as the die of the instance holds it (R226, R251). -/
def State.worldView (s : State) (c : OpCtx) : WorldView :=
  let (w, v) := c.j.pinWorld.getD (0, 0)
  let lat := (((s.die c.ins.die).worlds.get w).map (·.lat)).getD (Lattice.blank (zeros 64))
  { lat := lat, slot := w, version := v }

/-- A corner of three FP32 fields of the parameter block. -/
def OpRec.corner (o : OpRec) (off : Nat) : List Val := [o.parF32 off, o.parF32 (off + 4), o.parF32 (off + 8)]

/-- R252: the parameters of a test operation, with the job parameter words it names. -/
def OpCtx.geoParam (c : OpCtx) : GeoParam :=
  let o := c.op
  { margin := (o.parF32 0).toRat, summary := o.par 4 1 = 1, accumulate := o.par 5 1 = 1, maxDepth := o.par 6 1, moving := bit (o.par 7 1) 0,
    agent := c.sel (o.par 0xA 1) (o.par 8 2) % 65536,
    tau := if o.par 0xB 1 = 0xFF then 0 else (f32.decode (c.rd.word (o.par 0xB 1) % 2 ^ 32)).toRat,
    tFix := o.parF32 0xC, roiLo := o.corner 0x10, roiHi := o.corner 0x1C, winLo := o.parF32 0x28, winHi := o.parF32 0x2C }

/-- The tests of an operation, from the raw words of its input records (R250, R267). -/
def OpCtx.geoTests (c : OpCtx) (words : List Nat) : List GTest :=
  let p := c.geoParam
  let sh := (c.inDesc 0).shape
  if c.op.opcode = 0x0404 then (chunks 12 words).map sweptTest
  else (chunks 8 words).zipIdx.map (fun (ws, e) => pointTest (c.op.opcode = 0x0403) p.tFix (sh.getD 1 1) (sh.getD 2 1) e ws)

/-- R276: the brick that holds the voxel below the lower corner of a box, each index clipped (R255), that of an infinite coordinate to
the end voxel on its side. -/
def anchorBrick (v : WorldView) (b : Box3) : Nat :=
  let i (a : Nat) : Nat :=
    let n := v.lat.extent a
    (match coord b.lo a with
    | .inf neg => if neg then 0 else n - 1
    | _ => clipIndex n ((v.u a (coordQ b.lo a)).ceil - 1)) / 8
  brickKey (i 0) (i 1) (i 2)

/-- The home slice of the brick that anchors a test (R219, R276). -/
def anchorSlice (v : WorldView) (t : GTest) : Nat := brickHome v.slot (anchorBrick v t.box)

/-- A test with its decision, its reason after subdivision, and its verdict. -/
abbrev Decided := GTest × Decision × Nat × Nat

/-- R261, R271: the tests decided, and the children listed. -/
def OpCtx.decideAll (c : OpCtx) (v : WorldView) (ts : List GTest) : List Decided × List (Nat × Nat) :=
  let p := c.geoParam
  let screen := p.screen (v.lat.tables.getD v.version [])
  let ds := ts.map (fun t => (t, decideTest v p screen t))
  let (rs, es) := if c.op.out 1 = 0xFFFF then (ds.map (fun e => e.2.reason), [])
    else subdivide ((c.outDesc 1).shape.headD 0) p.maxDepth ds
  ((ds.zip rs).map (fun e => (e.1.1, e.1.2, e.2, verdictOf e.2)), es)

/-- R117: the flags of decided tests: OF where a moving clearance overflows. -/
def testFlags (ds : List Decided) : NumFlags := { NumFlags.none with of := ds.any (fun e => e.2.1.overflow) }

/-! ### Verdict injection (R651) -/

/-- The records a GQU completes take the verdicts that armed slots give, one each, in ascending position; a test the
emitter answers (R265) is completed by none. The second part tells which positions were forced, and the slots after. -/
def forceVerdicts (gq : GTest → Nat) : Nat → List Decided → List InjSlot → List Decided × List (Nat × Bool) × List InjSlot
  | _, [], inj => ([], [], inj)
  | pos, (t, d, r, v) :: rest, inj =>
    let hit := if d.walk.isNone then none
      else (List.range 8).find? (fun i => match inj[i]? with
        | some y => y.arm && y.live && y.target = 7 && y.where_ % 64 = gq t
        | none => false)
    match hit with
    | none =>
      let (ds, fs, inj) := forceVerdicts gq (pos + 1) rest inj
      ((t, d, r, v) :: ds, fs, inj)
    | some i =>
      let y := inj.getD i InjSlot.reset
      let inj := inj.set i { y with left := y.left - 1, arm := decide (1 < y.left), live := decide (1 < y.left) }
      let (ds, fs, inj) := forceVerdicts gq (pos + 1) rest inj
      ((t, d, r, y.op % 4) :: ds, (pos, y.charge) :: fs, inj)

/-! ### Outputs -/

/-- R266 to R269, R272: the output tensors of a test operation. -/
def OpCtx.geoOutputs (c : OpCtx) (d : OpData) (ds : List Decided) (es : List (Nat × Nat)) : List ByteArr × NumFlags :=
  outcomeOf (do
    let p := c.geoParam
    let words :=
      if p.summary then
        let n := (c.outDesc 0).shape.headD 0
        let rows := if p.accumulate then (chunks 8 ((c.outDesc 0).rawWords (d.out 0))).toArray else (List.replicate n summaryReset).toArray
        (summarise rows ds).toList.flatten
      else ds.flatMap (fun (t, x, r, v) => testRecord t x r v)
    let o ← c.putWords 0 words d
    if c.op.out 1 = 0xFFFF then pure [o]
    else pure [o, ← c.putWords 1 (listWords ((c.outDesc 1).shape.headD 0) es) d])

/-! ### Compare mode (R580 to R587) -/

/-- The primary of a compare-mode operation: a geometry operation of an earlier SINGLE stage with the same output. -/
def OpCtx.primary (c : OpCtx) : Option OpRec :=
  if c.diverse && c.op.opcode ≠ 0x0400 && c.op.opcode ≠ 0x0401 then
    ((c.p.stages.take c.r.stage).filter (fun st => st.placement = 1)).findSome? (fun st =>
      st.ops.find? (fun o => engineOf o.opcode = 5 && o.out 0 = c.op.out 0))
  else none

/-- Bytes of logical cluster 0's scratchpad region changed, where it is in place and where it is checkpointed. -/
def State.writeLc0 (s : State) (c : OpCtx) (o : Nat) (bs : List Byte) : State :=
  match c.rd.lcs[0]? with
  | none => s
  | some l =>
    if l.resident then
      s.modJob c.r.q c.r.s (fun j => j.modRun (fun r => { r with lcs := r.lcs.modify 0 (fun l => { l with spad := l.spad.write o bs }) }))
    else s.modDie l.ckpt.die (fun d => d.writeHbm (l.ckpt.base + o) bs)

/-- The positions whose records differ from the held ones (R581). -/
def differing (held mine : List (List Nat)) : List Nat :=
  ((held.zip mine).zipIdx.filter (fun e => e.1.1 ≠ e.1.2)).map Prod.snd

/-- R582: a record withheld. -/
def withhold (w : List Nat) : List Nat := w.set 2 (w.getD 2 0 / 65536 * 65536 + 0x0E00 + 2)

/-- R586: a unit of a die charged one disagreement at a frame; two charges within SCH_DIS_WINDOW quarantine it. -/
def State.charge (s : State) (d u frame : Nat) (inj : Bool) : State :=
  let last := ((s.die d).charges.find? (fun e => e.1 = u)).map Prod.snd
  let s := s.modDie d (fun x => { x with charges := (u, frame) :: x.charges.filter (fun e => e.1 ≠ u) })
  match last with
  | some f => if f < frame ∧ frame - f < s.regs.disWindow then s.quarantine d u 2 inj else s
  | none => s

/-- R581 to R587: the end of a compare-mode operation. -/
def State.compareRecords (s : State) (c : OpCtx) (prim : OpRec) (v : WorldView) (ds : List Decided) (forced : List (Nat × Bool)) : State :=
  let x := c.op.out 0
  let t := c.outDesc 0
  let off := ((c.p.tensors[x]?).map (·.offset)).getD 0
  let region := ((s.regionOf c 0).map Prod.fst).getD []
  let held := chunks 8 (t.rawWords (region.read off t.footprint).toArray)
  let mine := ds.map (fun e => testRecord e.1 e.2.1 e.2.2.1 e.2.2.2)
  let diff := differing held mine
  let cands := (diff.map (fun e => (held.getD e []).getD 0 0)).eraseDups
  let (pd, pc) := c.rd.primary.getD x (((c.rd.lcs[0]?).map (fun l => (l.die, l.cl))).getD (c.ins.die, c.ins.cl))
  let frame := s.regs.frameCount + 1
  let s := s.modRegs (fun r => { r with frameCount := frame })
  if diff.isEmpty then s
  else
    let new := held.map (fun w => if cands.contains (w.getD 0 0) then withhold w else w)
    let bytes := (new.map (fun w => w.flatMap (natLE 4))).flatten
    let s := (s.writeLc0 c off bytes).advise c.r.q c.r.s advDisagree
    let s := s.modJob c.r.q c.r.s (fun j => j.modRun (fun r =>
      { r with disputed := r.disputed ++ [(x, cands)], diverse := r.diverse.update c.r.stage (fun l => { l with spad := l.spad.write off bytes }) }))
    let e0 := diff.headD 0
    let pin := prim.inp 0
    let it := c.p.desc false pin
    let poff := ((c.p.tensors[pin]?).map (·.offset)).getD 0
    let pt := ((c.geoTests (it.rawWords (region.read poff it.footprint).toArray))[e0]?).map (anchorSlice v)
    let da := ((ds[e0]?).map (fun e => gquOf c.ins.gqu (anchorSlice v e.1))).getD 0
    let pa := (pt.map (gquOf (s.die pd).spares.gquFail)).getD 0
    let behind := (c.rd.forced.filter (fun f => f.1 = x && diff.contains f.2.1)).map (fun f => f.2.2) ++
      (forced.filter (fun f => diff.contains f.1)).map Prod.snd
    let inj := !behind.isEmpty
    let low := cands.foldl Min.min (cands.headD 0)
    let detail := low + 2 ^ 32 * pd + 2 ^ 35 * pc + 2 ^ 38 * pa + 2 ^ 44 * c.ins.die + 2 ^ 47 * c.ins.cl + 2 ^ 50 * da
    let s := s.logErr c.ins.die 0x0017 0 detail (some (c.r.q, c.r.s)) inj
    if inj && !behind.any id then s
    else
      ([(pd, clusterUnit pc), (pd, gquUnit pa), (c.ins.die, clusterUnit c.ins.cl), (c.ins.die, gquUnit da)].eraseDups).foldl
        (fun s u => s.charge u.1 u.2 frame inj) s

/-! ### The commands -/

/-- R585: where the primary ended, and what injections forced, noted for a test operation of a SINGLE stage. -/
def State.notePrimary (s : State) (c : OpCtx) (forced : List (Nat × Bool)) : State :=
  if c.st.placement ≠ 1 then s
  else s.modJob c.r.q c.r.s (fun j => j.modRun (fun r =>
    { r with
      primary := r.primary.insert (c.op.out 0) (((r.lcs[0]?).map (fun l => (l.die, l.cl))).getD (c.ins.die, c.ins.cl))
      forced := r.forced.filter (fun f => f.1 ≠ c.op.out 0) ++ forced.map (fun f => (c.op.out 0, f.1, f.2)) }))

/-! ### Tests and queries on their way (R276 to R278) -/

/-- The L0 cells that a walk of `n0` cells reads, in its order, as cell coordinates. -/
def walkedCells (v : WorldView) (b : Box3) (n0 : Nat) : List (Nat × Nat × Nat) :=
  (spanZYX (shrink 6 (v.covered b 0)) (shrink 6 (v.covered b 1)) (shrink 6 (v.covered b 2))).take n0

/-- The covered bricks of those cells that satisfy a condition on their L0 entry, as keys. -/
def bricksIn (v : WorldView) (b : Box3) (cells : List (Nat × Nat × Nat)) (f : L0Ent → Bool) : List Nat :=
  let x := v.covered b 0
  let y := v.covered b 1
  let z := v.covered b 2
  cells.flatMap (fun c =>
    if f (v.lat.l0At (v.lat.cellIndex c.1 c.2.1 c.2.2) v.version) then
      (spanZYX (shrink 3 (within 6 c.1 x)) (shrink 3 (within 6 c.2.1 y)) (shrink 3 (within 6 c.2.2 z))).map
        (fun k => brickKey k.1 k.2.1 k.2.2)
    else [])

/-- R260: the bricks a walk descends into: the first `nb` covered bricks of the cells that are neither solid, free nor
clear of the reach, in the order of the walk. -/
def walkedBricks (v : WorldView) (b : Box3) (rr : Rat) (n0 nb : Nat) : List Nat :=
  (bricksIn v b (walkedCells v b n0) (fun e => e.kind = 2 && decide (((32 * e.d0 : Nat) : Rat) ≤ rr))).take nb

/-- A test or query at the emitter, with the L0 cells and the bricks it reads; `f` is the failed GQU of its stage's mapping (R22). -/
def OpCtx.flight (c : OpCtx) (v : WorldView) (f pos : Nat) (anchor : Nat) (cells : List (Nat × Nat × Nat)) (bricks : List Nat) : GeoTest :=
  { r := c.r, pos := pos, cl := c.ins.cl, diverse := c.diverse, world := v.slot, version := v.version, map := f,
    gqu := gquOf f (brickHome v.slot anchor), anchor := anchor, cells := cells.map (fun k => v.lat.cellIndex k.1 k.2.1 k.2.2),
    frags := bricks.eraseDups, waits := [], parts := [], phase := 0 }

/-- The tests of an operation that the emitter does not answer itself (R265). -/
def OpCtx.testFlights (c : OpCtx) (v : WorldView) (f : Nat) (ds : List Decided) : List GeoTest :=
  let p := c.geoParam
  ds.zipIdx.filterMap (fun ((t, d, _, _), e) => d.walk.map (fun w =>
    let rr := (t.radius.toRat + p.margin) * 256000 / ((2 ^ v.lat.s : Nat) : Rat)
    c.flight v f e (anchorBrick v t.box) (walkedCells v t.box w.n0) (walkedBricks v t.box rr w.n0 w.nb)))

/-- The queries of an operation that the emitter does not answer itself (R265), each anchored at the brick of the lowest covered
voxel of its point, clipped where the point lies outside (R276). -/
def OpCtx.queryFlights (c : OpCtx) (v : WorldView) (f : Nat) (words : List Nat) : List GeoTest :=
  (chunks 8 words).zipIdx.filterMap (fun (ws, e) =>
    let q (i : Nat) : Val := f32.decode (ws.getD i 0)
    let xa := [q 0, q 1, q 2]
    let r := q 3
    let b : Box3 := ⟨xa, xa⟩
    if bit (ws.getD 7 0) 0 || xa.any Val.isNan || r.isNan || r.isInf || Val.lt r (.zero false) then none
    else if !v.contained b then
      if c.op.opcode = 0x0400 then none
      else some (c.flight v f e (anchorBrick v b) [] [])
    else
      let cells := spanZYX (shrink 6 (v.covered b 0)) (shrink 6 (v.covered b 1)) (shrink 6 (v.covered b 2))
      some (c.flight v f e (anchorBrick v b) cells (bricksIn v b cells (fun e => e.kind = 2))))

/-- Tests leave for the GQUs of the die of the instance. -/
def State.emit (s : State) (c : OpCtx) (l : List GeoTest) : State :=
  s.modDie c.ins.die (fun x => { x with tests := x.tests ++ l })

/-- A test operation: decided, with injected verdicts, written; in compare mode compared. -/
def State.runTests (s : State) (r : OpRef) (hv : HostView) (code : Nat) : Host.Outcome State Fault Refusal :=
  let s := s.merge hv
  s.withOp r code fun c =>
    match s.opData hv c with
    | none => (s.opFail c).done
    | some d =>
        let v := s.worldView c
        let (ds, es) := c.decideAll v (c.geoTests ((c.inDesc 0).rawWords (d.inp 0)))
        let f := c.ins.gqu
        let (ds, forced, inj) := forceVerdicts (fun t => gquOf f (anchorSlice v t)) 0 ds (s.die c.ins.die).inj
        let s := (s.modDie c.ins.die (fun x => { x with inj := inj })).emit c (c.testFlights v f ds)
        match c.primary with
        | some prim => ((((s.captureInputs c).opRan c (testFlags ds)).compareRecords c prim v ds forced).issueAll).done
        | none =>
          let (outs, fl) := c.geoOutputs d ds es
          ((s.opFinish hv c outs (fl.merge (testFlags ds))).notePrimary c forced).done

/-- SPHERE_TEST (R261). -/
def execSphereTest (r : OpRef) (hv : HostView) (s : State) : Host.Outcome State Fault Refusal := s.runTests r hv 0x0402
/-- CAPSULE_TEST (R261). -/
def execCapsuleTest (r : OpRef) (hv : HostView) (s : State) : Host.Outcome State Fault Refusal := s.runTests r hv 0x0403
/-- SWEPT_SPHERE_TEST (R261, R271, R581). -/
def execSweptSphereTest (r : OpRef) (hv : HostView) (s : State) : Host.Outcome State Fault Refusal := s.runTests r hv 0x0404

/-- A distance operation. -/
def State.runQueries (s : State) (r : OpRef) (hv : HostView) (code : Nat) (body : State → OpCtx → OpData → List ByteArr × NumFlags) :
    Host.Outcome State Fault Refusal :=
  let s := s.merge hv
  s.withOp r code fun c =>
    match s.opData hv c with
    | none => (s.opFail c).done
    | some d =>
        let v := s.worldView c
        let (outs, fl) := body s c d
        let s := s.emit c (c.queryFlights v c.ins.gqu ((c.inDesc 0).rawWords (d.inp 0)))
        (s.opFinish hv c outs fl).done

/-- R273, R274: distance records of the points of an operation. -/
def distanceBody (grad : Bool) (s : State) (c : OpCtx) (d : OpData) : List ByteArr × NumFlags :=
  outcomeOf (do
    let v := s.worldView c
    let qs := chunks 8 ((c.inDesc 0).rawWords (d.inp 0))
    if qs.any queryMakesNaN then raiseNV
    pure [← c.putWords 0 (qs.flatMap (distanceRecord v grad)) d])

/-- POINT_DISTANCE (R273). -/
def execPointDistance (r : OpRef) (hv : HostView) (s : State) : Host.Outcome State Fault Refusal :=
  s.runQueries r hv 0x0400 (distanceBody false)
/-- DISTANCE_WITH_GRADIENT (R274). -/
def execDistanceWithGradient (r : OpRef) (hv : HostView) (s : State) : Host.Outcome State Fault Refusal :=
  s.runQueries r hv 0x0401 (distanceBody true)

end Sys2Proof.Machine
end

