-- ==== Sys2Proof/Machine/Selection.lean ====
section
/-!
DEFINITION. Top-k selection and merging (R285 to R305): the order of entries, row headers, and the two operations on
raw words.
-/
namespace Sys2Proof.Machine

/-- An entry of a row: its value, its index and its position. -/
structure SelEntry where
  val : Val
  idx : Nat
  pos : Nat
  deriving DecidableEq, Repr

/-- R285: a valid entry. -/
def SelEntry.valid (e : SelEntry) : Bool := !e.val.isNan && decide (e.idx ≠ 0xFFFFFFFF)

/-- R286: whether `a` precedes `b`. -/
def SelEntry.precedes (smallest : Bool) (a b : SelEntry) : Bool :=
  let first := if smallest then Val.lt a.val b.val else Val.lt b.val a.val
  first || (Val.eq a.val b.val && (decide (a.idx < b.idx) || decide (a.idx = b.idx ∧ a.pos < b.pos)))

/-- The valid entries in rank order (R286, R295: the passes give the same list). -/
def ranked (smallest : Bool) (es : List SelEntry) : List SelEntry :=
  sortBy (SelEntry.precedes smallest) (es.filter SelEntry.valid)

/-- A count that saturates at 0xFFFF_FFFF (R294). -/
def sat32 (n : Nat) : Nat := Min.min n 0xFFFFFFFF

/-- R290: `k` entries as raw words: the selected ones, then padding. -/
def entryWords (k : Nat) (sel : List SelEntry) : List Nat :=
  sel.flatMap (fun e => [f32.encode e.val, e.idx]) ++
    (List.replicate (k - sel.length) [f32.nanBits, 0xFFFFFFFF]).flatten

/-- R291: the number of valid unselected entries equal to the last of `k` selected ones. -/
def tieLeft (k : Nat) (rank : List SelEntry) : Nat :=
  if rank.length < k then 0
  else match (rank.take k).getLast? with
    | none => 0
    | some e => ((rank.drop k).filter (fun x => Val.eq x.val e.val)).length

/-- R290 to R294: one row of Top-k: its entries and its header. -/
def topKRow (smallest sums : Bool) (k : Nat) (es : List SelEntry) : NumM (List Nat × List Nat) := do
  let rank := ranked smallest es
  let sel := rank.take k
  let tie := tieLeft k rank
  let short := decide (rank.length < k)
  let z : Val := .zero false
  let (s, u) ←
    if sums then do
      let s ← treeSum (sel.map (fun e => e.val))
      let chosen := sel.map (fun e => e.pos)
      let u ← treeSum (es.map (fun e => if e.valid && !chosen.contains e.pos then e.val else z))
      pure (s, u)
    else pure (z, z)
  pure (entryWords k sel,
    [sel.length, bit01 (decide (0 < tie)) + 2 * bit01 short, sat32 tie,
     sat32 (es.filter (fun e => !e.valid)).length, f32.encode s, f32.encode u, 0, 0])

/-- R287 to R292: all rows; `vals` and `idx` hold the rows one after another. -/
def topK (smallest sums : Bool) (k n : Nat) (vals : List Val) (idx : Nat → Nat) :
    NumM (List Nat × List Nat) := do
  let rows ← ((chunks n vals).zipIdx).mapM (fun (row, r) =>
    topKRow smallest sums k (row.zipIdx.map (fun (v, p) => ⟨v, idx (r * n + p), p⟩)))
  pure (rows.flatMap Prod.fst, rows.flatMap Prod.snd)

/-! ### Merge (R297 to R305) -/

/-- One input list of one row: its entries (value word, index) and its header words. -/
structure MergeList where
  entries : List (Nat × Nat)
  header : List Nat
  deriving DecidableEq, Repr

/-- An entry that passed R300, with its place: list number and entry number. -/
structure MergeEntry where
  word : Nat
  idx : Nat
  list : Nat
  deriving DecidableEq, Repr

/-- What R300 leaves: the kept entries in list order and the counts. -/
structure MergeState where
  kept : List MergeEntry
  dup : Nat
  conflicts : Nat
  invalid : Nat
  deriving DecidableEq, Repr

/-- R300: one entry in list order, then entry order. -/
def mergeEntry (j : Nat) (st : MergeState) (e : Nat × Nat) : MergeState :=
  let (w, i) := e
  if i = 0xFFFFFFFF then st
  else
    let v := f32.decode w
    let st := if v.isNan then { st with invalid := st.invalid + 1 } else st
    match st.kept.find? (fun k => decide (k.idx = i)) with
    | none => { st with kept := st.kept ++ [⟨w, i, j⟩] }
    | some k =>
      if !v.isNan && (decide (k.word = w) || (Val.eq (f32.decode k.word) v && decide (v.toRat = 0) && !v.isInf)) then
        { st with dup := st.dup + 1 }
      else { st with conflicts := st.conflicts + 1 }

/-- R300: all lists of a row. -/
def mergeKeep (ls : List MergeList) : MergeState :=
  ls.zipIdx.foldl (fun st (l, j) => l.entries.foldl (mergeEntry j) st) ⟨[], 0, 0, 0⟩

/-- R301: the unselected sum of a merged row. -/
def mergeUnsel (ls : List MergeList) (kept : List MergeEntry) (selected : List Nat) : NumM Val :=
  ls.zipIdx.foldlM (fun acc (l, j) => do
    let acc ← f32.add acc (f32.decode (l.header.getD 5 0))
    (kept.filter (fun e => decide (e.list = j) && !(f32.decode e.word).isNan && !selected.contains e.idx)).foldlM
      (fun acc e => f32.add acc (f32.decode e.word)) acc) (.zero false)

/-- R301: one merged row: its entries and its header. -/
def mergeRow (smallest sums : Bool) (k : Nat) (ls : List MergeList) : NumM (List Nat × List Nat) := do
  let st := mergeKeep ls
  let es : List SelEntry := st.kept.zipIdx.map (fun (e, p) => ⟨f32.decode e.word, e.idx, p⟩)
  let rank := ranked smallest es
  let sel := rank.take k
  let h (l : MergeList) (i : Nat) : Nat := l.header.getD i 0
  let sumH (i : Nat) : Nat := ls.foldl (fun s l => s + h l i) 0
  let extra := match (if rank.length < k then none else sel.getLast?) with
    | none => 0
    | some e => ls.foldl (fun s l =>
        if bit (h l 1) 0 && Val.eq (f32.decode ((l.entries.getLast?.map Prod.fst).getD f32.nanBits)) e.val
        then s + h l 2 else s) 0
  let tie := sat32 (tieLeft k rank + extra)
  let conflict := decide (0 < st.conflicts) || ls.any (fun l => bit (h l 1) 2)
  let z : Val := .zero false
  let (s, u) ←
    if sums then do
      let s ← treeSum (sel.map (fun e => e.val))
      let u ← mergeUnsel ls st.kept (sel.map (fun e => e.idx))
      pure (s, u)
    else pure (z, z)
  pure (entryWords k sel,
    [sel.length, bit01 (decide (0 < tie)) + 2 * bit01 (decide (rank.length < k)) + 4 * bit01 conflict, tie,
     sat32 (sumH 3 + st.invalid), f32.encode s, f32.encode u, sat32 (sumH 6 + st.dup), sat32 (sumH 7 + st.conflicts)])

/-- R297: all rows; `list j r` is list j's part of row r. -/
def mergeOp (smallest sums : Bool) (k rows nLists : Nat) (list : Nat → Nat → MergeList) :
    NumM (List Nat × List Nat) := do
  let rs ← (List.range rows).mapM (fun r => mergeRow smallest sums k (tabulate nLists (fun j => list j r)))
  pure (rs.flatMap Prod.fst, rs.flatMap Prod.snd)

end Sys2Proof.Machine
end

