-- ==== Sys2Proof/Machine/SelectionOps.lean ====
section
/-!
DEFINITION. Top-k and Merge as commands, and the lists that arrive at the Joiner (R287 to R305).
-/
namespace Sys2Proof.Machine

/-- R287 to R294: Top-k. -/
def topKBody (_ : State) (c : OpCtx) (d : OpData) : List ByteArr × NumFlags :=
  outcomeOf (do
    let t := c.inDesc 0
    let n := t.shape.getLastD 1
    let fl := c.op.par 1 1
    let base := (c.sel (c.op.par 2 1) (c.op.par 8 4)) % 2 ^ 32
    let lc := if bit fl 1 && c.all then c.ins.lc else 0
    let vals ← t.elems (d.inp 0)
    let words := if bit fl 2 then (((c.inDesc 1).rawWords (d.inp 1))).toArray else #[]
    let idx (i : Nat) : Nat := if bit fl 2 then words.getD i 0 else base + lc * n + i % n
    let (es, hs) ← topK (c.op.par 0 1 = 1) (bit fl 0) (c.op.par 4 4) n (pointsOf vals) idx
    pure [← c.putWords 0 es d, ← c.putWords 1 hs d])

/-- TOP_K (R290). -/
def execTopK (r : OpRef) (hv : HostView) (s : State) (hit : Option BankHit := none) :
    Host.Outcome State Fault Refusal :=
  s.runWrites r 0x0500 hit fun s =>
  s.runOp r hv 0x0500 topKBody

/-- Whether a Merge draws its lists from regions (R297). -/
def OpCtx.regions (c : OpCtx) : Bool := !bit (c.op.par 1 1) 3

/-- The logical cluster of list `j` of a Merge in REGIONS mode. -/
def OpCtx.listLc (c : OpCtx) (j : Nat) : Nat := c.op.par 2 1 + j

/-- List `j` of a Merge lies on another die (R299). -/
def OpCtx.remote (c : OpCtx) (j : Nat) : Bool :=
  c.regions && decide (((c.rd.lcs[c.listLc j]?).map (·.die)).getD c.ins.die ≠ c.ins.die)

/-- The words of an input tensor of a Merge as list `j` holds it: in the region of its logical cluster, or slice `j` of
the tensor in the instance's own region. -/
def State.listWordsOf (s : State) (c : OpCtx) (d : OpData) (i j : Nat) : List Nat :=
  let t := c.inDesc i
  if c.regions then
    let off := ((c.p.tensors[c.op.inp i]?).map (·.offset)).getD 0
    t.rawWords (Memory.read (((s.regionOf c (c.listLc j)).map Prod.fst).getD []) off t.footprint).toArray
  else
    let ws := t.rawWords (d.inp i)
    let n := ws.length / Max.max 1 (c.op.par 3 1)
    (ws.drop (j * n)).take n

/-- R297 to R301: Merge. -/
def mergeBody (s : State) (c : OpCtx) (d : OpData) : List ByteArr × NumFlags :=
  let o := (c.outDesc 0).shape
  let rows := o.headD 1
  let kIn := (((c.inDesc 0).shape.reverse).drop 1).headD 1
  let n := c.op.par 3 1
  let lists := (tabulate n (fun j => ((s.listWordsOf c d 0 j).toArray, (s.listWordsOf c d 1 j).toArray))).toArray
  let list (j r : Nat) : MergeList :=
    let (e, h) := lists.getD j (#[], #[])
    { entries := tabulate kIn (fun i => (e.getD (2 * (r * kIn + i)) 0, e.getD (2 * (r * kIn + i) + 1) 0)),
      header := tabulate 8 (fun i => h.getD (8 * r + i) 0) }
  outcomeOf (do
    let (es, hs) ← mergeOp (c.op.par 0 1 = 1) (bit (c.op.par 1 1) 0) (c.op.par 4 4) rows n list
    pure [← c.putWords 0 es d, ← c.putWords 1 hs d])

/-- A row header of a list of them has CONFLICT set (R294, R305). -/
def anyConflict (t : TensorDesc) (bs : ByteArr) : Bool :=
  ((t.rawWords bs).zipIdx).any (fun (w, i) => i % 8 = 1 && bit w 2)

/-- MERGE (R297, R301, R305): once every list that lies on another die has arrived. -/
def execMerge (r : OpRef) (hv : HostView) (s : State) (hit : Option BankHit := none) :
    Host.Outcome State Fault Refusal :=
  s.runWrites r 0x0501 hit fun s =>
  let s := s.merge hv
  s.withOp r 0x0501 fun c =>
    if !(List.range (c.op.par 3 1)).all (fun j => !c.remote j || c.ins.lists.contains (r.idx, j)) then s.idle
    else match s.opData hv c with
      | none => (s.opFail c).done
      | some d =>
        let (outs, fl) := mergeBody s c d
        let s := s.opFinish hv c outs fl
        if anyConflict (c.outDesc 1) (outs.getD 1 #[]) then (s.advise r.q r.s advConflict).done else s.done

/-- LIST_ARRIVAL (R299): a partial list from another die is at the Joiner. -/
def execListArrival (r : OpRef) (i : Nat) (s : State) : Host.Outcome State Fault Refusal :=
  match s.opCtx r with
  | none => s.idle
  | some c =>
    if c.op.opcode = 0x0501 && decide (i < c.op.par 3 1) && c.remote i && !c.ins.lists.contains (r.idx, i) then
      s.cross (s.overUmlin (((c.rd.lcs[c.listLc i]?).map (·.die)).getD c.ins.die) c.ins.die 1 i) fun s =>
      .next (s.modJob r.q r.s (fun j => j.modRun (fun x => { x with stages := x.stages.modify r.stage (fun sr =>
        { sr with insts := sr.insts.map (fun y => if y.lc = r.lc then { y with lists := y.lists ++ [(r.idx, i)] } else y) }) })))
    else s.idle

end Sys2Proof.Machine
end

