-- ==== Sys2Proof/Machine/Solver.lean ====
section
/-!
DEFINITION. The Solver Unit (R307 to R344): factorisations, solves, the Riccati sweep and Refine, problem by problem
on FP32 values, with the status header of R324.
-/
namespace Sys2Proof.Machine

/-! ### Problem status -/

/-- What a problem has met: the numeric flags of the job, the step of the SINGULAR stop and of the first OVERFLOW, and
the adjusted pivots (R320 to R324). -/
structure SolveSt where
  num : NumFlags
  singular : Option Nat
  overflow : Option Nat
  boosted : Bool
  skipped : Bool
  nAdjust : Nat
  deriving DecidableEq, Repr

/-- A problem before its first step. -/
def SolveSt.start : SolveSt := ⟨NumFlags.none, none, none, false, false, 0⟩

/-- A computation of one problem; `none` is the SINGULAR stop of R320, R321. -/
abbrev SolveM := OptionT (StateM SolveSt)

/-- The pivot policy of an operation (R313, R320). -/
structure Pivot where
  policy : Nat
  tau : Rat
  deriving DecidableEq, Repr

/-- R307, R308, R323: a value formed from `ins`, rounded at `step`. -/
def rnd (step : Nat) (ins : List Val) (x : NumM Val) : SolveM Val := do
  let (v, f) := x.runFlags
  let big := v.isInf && ins.all Val.isFinite
  modify (fun s => { s with
    num := s.num.merge { f with of := f.of || big },
    overflow := match s.overflow with
      | none => if big then some step else none
      | some x => some x })
  pure v

/-- The exact product of factors. -/
def prodVals : List Val → Val
  | [] => .fin 1
  | v :: vs => vs.foldl Val.mul v

/-- R307: a fused expression: the exact sum of the products of `terms`, rounded once. -/
def fusedSum (step : Nat) (terms : List (List Val)) : SolveM Val :=
  let ins := terms.flatten
  match terms.map prodVals with
  | [] => pure (.zero false)
  | v :: vs => rnd step ins (f32.result .rne ins (vs.foldl (Val.add .rne) v))

/-- A rounded quotient. -/
def divStep (step : Nat) (a b : Val) : SolveM Val := rnd step [a, b] (f32.div a b)

/-- A rounded square root. -/
def sqrtStep (step : Nat) (a : Val) : SolveM Val := rnd step [a] (do f32.roundVal .rne (← a.sqrt))

/-- Stop with SINGULAR at a step. -/
def stopSingular {α : Type} (step : Nat) : SolveM α := do
  modify (fun s => { s with singular := some step })
  failure

/-- R320, R321: a pivot after its test; `none` where SKIP leaves it out. `chol` selects the Cholesky rule. -/
def pivotTest (pv : Pivot) (chol : Bool) (step : Nat) (p : Val) : SolveM (Option Val) :=
  if p.isNan then stopSingular step
  else
    let t : Val := Val.ofRat pv.tau
    let small := Val.lt (if chol then p else p.abs) t || Val.eq p (.zero false)
    if !small then pure (some p)
    else if pv.policy = 0 then stopSingular step
    else if pv.policy = 1 then do
      modify (fun s => { s with boosted := true, nAdjust := s.nAdjust + 1 })
      pure (some (if chol || !p.isNeg then t else t.neg))
    else do
      modify (fun s => { s with skipped := true, nAdjust := s.nAdjust + 1 })
      pure none

/-- Run steps 0 to n − 1 on data; at a stop the data are those before the step that stopped. -/
def runSteps {D : Type} (step : Nat → D → SolveM D) : Nat → Nat → D → StateM SolveSt (D × Option Nat)
  | 0, _, d => pure (d, none)
  | n + 1, j, d => do
    match ← (step j d).run with
    | some d' => runSteps step n (j + 1) d'
    | none => pure (d, some j)

/-- R324: the status header. -/
def statusWords (st : SolveSt) (extra : Nat) : List Nat :=
  [bit01 st.singular.isSome + 2 * bit01 st.overflow.isSome + 4 * bit01 st.boosted + 8 * bit01 st.skipped + extra,
   match st.singular, st.overflow with
   | some s, _ => s
   | none, some s => s
   | none, none => 0xFFFFFFFF,
   sat32' st.nAdjust, 0]
where
  /-- An unsigned 32-bit count. -/
  sat32' (n : Nat) : Nat := n % 2 ^ 32

/-! ### Matrices -/

/-- A matrix of values, row-major. -/
structure Mat where
  cols : Nat
  data : Array Val
  deriving Repr

/-- An entry. -/
def Mat.at (m : Mat) (i j : Nat) : Val := m.data.getD (i * m.cols + j) (.zero false)

/-- A matrix with an entry replaced. -/
def Mat.put (m : Mat) (i j : Nat) (v : Val) : Mat := { m with data := m.data.setIfInBounds (i * m.cols + j) v }

/-- A matrix of a shape with every entry given. -/
def Mat.gen (rows cols : Nat) (f : Nat → Nat → Val) : Mat :=
  ⟨cols, (tabulate (rows * cols) (fun i => f (i / cols) (i % cols))).toArray⟩

/-- A matrix of a shape with every entry computed. -/
def Mat.genM (rows cols : Nat) (f : Nat → Nat → SolveM Val) : SolveM Mat := do
  let vs ← (List.range (rows * cols)).mapM (fun i => f (i / cols) (i % cols))
  pure ⟨cols, vs.toArray⟩

/-- A symmetric matrix whose lower entries are computed and then mirrored. -/
def Mat.symM (n : Nat) (f : Nat → Nat → SolveM Val) : SolveM Mat := do
  let low ← Mat.genM n n (fun i j => if j ≤ i then f i j else pure (.zero false))
  pure (Mat.gen n n (fun i j => if j ≤ i then low.at i j else low.at j i))

/-! ### Factor (R313 to R322) -/

/-- R316: step j of CHOL, `a` the input and `l` the part already written; `base` is the step's stage part. -/
def cholStep (pv : Pivot) (base n : Nat) (a : Mat) (j : Nat) (l : Mat) : SolveM Mat := do
  let step := base + j
  let ks := List.range j
  let p ← fusedSum step ([a.at j j] :: ks.map (fun k => [(l.at j k).neg, l.at j k]))
  match ← pivotTest pv true step p with
  | none =>
    pure ((List.range (n - j)).foldl (fun l i => l.put (j + i) j (.zero false)) l)
  | some p => do
    let d ← sqrtStep step p
    (List.range (n - j - 1)).foldlM (fun l i => do
      let i := j + 1 + i
      let c ← fusedSum step ([a.at i j] :: ks.map (fun k => [(l.at i k).neg, l.at j k]))
      pure (l.put i j (← divStep step c d))) (l.put j j d)

/-- R317: step j of LDLT; the diagonal of `l` holds d. -/
def ldltStep (pv : Pivot) (n : Nat) (a : Mat) (j : Nat) (l : Mat) : SolveM Mat := do
  let ks := List.range j
  let d ← fusedSum j ([a.at j j] :: ks.map (fun k => [(l.at j k).neg, l.at j k, l.at k k]))
  match ← pivotTest pv false j d with
  | none => pure l
  | some d =>
    (List.range (n - j - 1)).foldlM (fun l i => do
      let i := j + 1 + i
      let c ← fusedSum j ([a.at i j] :: ks.map (fun k => [(l.at i k).neg, l.at j k, l.at k k]))
      pure (l.put i j (← divStep j c d))) (l.put j j d)

/-- Exchange two rows. -/
def Mat.swapRows (m : Mat) (rows i j : Nat) : Mat :=
  if i = j then m else Mat.gen rows m.cols (fun r c => m.at (if r = i then j else if r = j then i else r) c)

/-- R318: the pivot row of a column: the largest magnitude, lowest row on ties; none when a candidate is NaN. -/
def pivotRow (cs : List (Nat × Val)) : Option Nat :=
  if cs.any (fun (_, v) => v.isNan) then none
  else (cs.foldl (fun (best : Option (Nat × Val)) (i, v) => match best with
    | none => some (i, v)
    | some (_, w) => if Val.lt w.abs v.abs then some (i, v) else best) none).map Prod.fst

/-- R318: step j of LU on the working matrix and the exchange words. -/
def luStep (pv : Pivot) (n : Nat) (j : Nat) (d : Mat × List Nat) : SolveM (Mat × List Nat) := do
  let (w, aux) := d
  let dot (w : Mat) (i m : Nat) : SolveM Val :=
    fusedSum j ([w.at i j] :: (List.range m).map (fun t => [(w.at i t).neg, w.at t j]))
  let w ← (List.range j).foldlM (fun w k => do pure (w.put k j (← dot w k k))) w
  let cs ← (List.range (n - j)).mapM (fun i => do pure (j + i, ← dot w (j + i) j))
  match pivotRow cs with
  | none => stopSingular j
  | some p =>
    let w := cs.foldl (fun w (i, v) => w.put i j v) w
    let w := w.swapRows n j p
    match ← pivotTest pv false j (w.at j j) with
    | none => pure (w, aux ++ [p])
    | some u =>
      let w ← (List.range (n - j - 1)).foldlM (fun w i => do
        let i := j + 1 + i
        pure (w.put i j (← divStep j (w.at i j) u))) (w.put j j u)
      pure (w, aux ++ [p])

/-- R319: step j of QR on the working matrix and the β words. -/
def qrStep (m n : Nat) (j : Nat) (d : Mat × List Val) : SolveM (Mat × List Val) := do
  let (a, betas) := d
  let rows := (List.range (m - j)).map (fun i => j + i)
  let tail := rows.drop 1
  let sigma ← sqrtStep j (← fusedSum j (rows.map (fun i => [a.at i j, a.at i j])))
  let x := a.at j j
  if Val.eq sigma (.zero false) then
    pure (rows.foldl (fun a i => a.put i j (.zero false)) a, betas ++ [.zero false])
  else do
    let alpha := if x.isNeg then sigma else sigma.neg
    let v0 ← fusedSum j [[x], [alpha.neg]]
    let a ← tail.foldlM (fun a i => do pure (a.put i j (← divStep j (a.at i j) v0))) a
    let beta ← divStep j (← fusedSum j [[alpha], [x.neg]]) alpha
    let a := a.put j j alpha
    let a ← (List.range (n - j - 1)).foldlM (fun a c => do
      let col := j + 1 + c
      let s ← fusedSum j ([a.at j col] :: tail.map (fun i => [a.at i j, a.at i col]))
      let t ← rnd j [beta, s] (f32.mul beta s)
      let a ← do pure (a.put j col (← fusedSum j [[a.at j col], [t.neg]]))
      tail.foldlM (fun a i => do
        pure (a.put i col (← fusedSum j [[a.at i col], [t.neg, a.at i j]]))) a) a
    pure (a, betas ++ [beta])

/-- The value an output entry has when its problem stopped (R322). -/
def stopNaN : Val := .nan

/-- R324: NONFINITE of a problem whose input elements are `ins`. -/
def nonfiniteBit (ins : List Val) : Nat := 16 * bit01 (ins.any (fun v => !v.isFinite))

/-- R117: the flags of a problem that reads `ins` and writes the words `out`: a stop that writes NaN from elements that hold none
sets NV. -/
def SolveSt.flags (st : SolveSt) (ins : List Val) (out : List Nat) : NumFlags :=
  st.num.noteNaN (ins.any Val.isNan) (out.any (fun w => (f32.decode w).isNan))

/-- R316 to R319: the elements of A that Factor reads: the lower triangle for CHOL and LDLT, all for LU and QR. -/
def factorReads (kind n : Nat) (a : List Val) : List Val :=
  a.zipIdx.filterMap (fun (v, i) => if 1 < kind || decide (i % n ≤ i / n) then some v else none)

/-- R314 to R322: one problem of Factor: the m × n output words and the 68 words of the factor record. -/
def factorProblem (kind m n : Nat) (pv : Pivot) (a : List Val) : NumFlags × List Nat × List Nat :=
  let ain : Mat := ⟨n, a.toArray⟩
  let ins := factorReads kind n a
  let nonfin := nonfiniteBit ins
  let lower (i j : Nat) : Val := if i < j then .zero false else stopNaN
  let words (mt : Mat) : List Nat := (tabulate (m * n) (fun i => f32.encode (mt.at (i / n) (i % n))))
  let pad (l : List Nat) : List Nat := l ++ List.replicate (64 - l.length) 0
  match kind with
  | 0 =>
    let ((l, _), st) := (runSteps (cholStep pv 0 n ain) n 0 (Mat.gen n n lower)).run SolveSt.start
    (st.flags ins (words l), words l, statusWords st nonfin ++ pad [])
  | 1 =>
    let ((l, _), st) := (runSteps (ldltStep pv n ain) n 0 (Mat.gen n n lower)).run SolveSt.start
    (st.flags ins (words l), words l, statusWords st nonfin ++ pad [])
  | 2 =>
    let (((w, aux), stop), st) := (runSteps (luStep pv n) n 0 (ain, [])).run SolveSt.start
    let out := match stop with
      | none => w
      | some j => Mat.gen n n (fun r c => if c < j then w.at r c else stopNaN)
    (st.flags ins (words out), words out, statusWords st nonfin ++
      pad (aux ++ List.replicate (n - aux.length) 0xFFFFFFFF))
  | _ =>
    let (((w, bs), _), st) := (runSteps (qrStep m n) n 0 (ain, [])).run SolveSt.start
    (st.flags ins (words w), words w, statusWords st nonfin ++ pad (bs.map f32.encode))

/-! ### Solve (R326 to R329) -/

/-- One component: the fused value divided by a tested divisor; +0 where SKIP leaves it out. -/
def component (pv : Pivot) (chol : Bool) (step : Nat) (div : Option Val) (num : SolveM Val) : SolveM Val := do
  let v ← num
  match div with
  | none => pure v
  | some d =>
    match ← pivotTest pv chol step d with
    | none => pure (.zero false)
    | some d => divStep step v d

/-- A triangular sweep over one right-hand side: `coef i k` is the coefficient of unknown k in row i, `before i` the
unknowns already solved, `div i` the divisor of row i (none for a unit diagonal). Solved entries are put into the
array as they come, so that a stop leaves them there. -/
def sweepTri (pv : Pivot) (chol : Bool) (base : Nat) (rows : List Nat) (coef : Nat → Nat → Val)
    (before : Nat → List Nat) (div : Nat → Option Val) (b : Array Val) :
    StateM SolveSt (Array Val × Bool) := do
  let step (i : Nat) (y : Array Val) : SolveM (Array Val) := do
    let v ← component pv chol (base + i) (div i)
      (fusedSum (base + i) ([b.getD i (.zero false)] ::
        (before i).map (fun k => [(coef i k).neg, y.getD k (.zero false)])))
    pure (y.setIfInBounds i v)
  let start := (List.replicate b.size stopNaN).toArray
  rows.foldlM (fun (y, stopped) i => do
    if stopped then pure (y, true)
    else match ← (step i y).run with
      | some y' => pure (y', false)
      | none => pure (y, true)) (start, false)

/-- Forward substitution with a lower matrix given by `coef`. -/
def forward (pv : Pivot) (chol : Bool) (base n : Nat) (coef : Nat → Nat → Val) (div : Nat → Option Val)
    (b : Array Val) : StateM SolveSt (Array Val × Bool) :=
  sweepTri pv chol base (List.range n) coef List.range div b

/-- Back substitution with an upper matrix given by `coef`. -/
def backward (pv : Pivot) (chol : Bool) (base n : Nat) (coef : Nat → Nat → Val) (div : Nat → Option Val)
    (b : Array Val) : StateM SolveSt (Array Val × Bool) :=
  sweepTri pv chol base (List.range n).reverse coef (fun i => tabulate (n - i - 1) (fun k => i + 1 + k)) div b

/-- Run a second sweep on the result of a first, unless the first stopped (then every entry is NaN, R322). -/
def andThen (n : Nat) (x : StateM SolveSt (Array Val × Bool)) (f : Array Val → StateM SolveSt (Array Val × Bool)) :
    StateM SolveSt (Array Val × Bool) := do
  let (y, stopped) ← x
  if stopped then pure ((List.replicate n stopNaN).toArray, true) else f y

/-- R328: CHOL: L y = b, then Lᵀ x = y. -/
def cholSolve (pv : Pivot) (base n : Nat) (l : Mat) (b : Array Val) : StateM SolveSt (Array Val × Bool) :=
  andThen n (forward pv true base n l.at (fun i => some (l.at i i)) b)
    (backward pv true base n (fun i k => l.at k i) (fun i => some (l.at i i)))

/-- R328: QR applied to a right-hand side: the reflections in ascending order. -/
def qrApply (m n : Nat) (a : Mat) (betas : List Val) (b : Array Val) : SolveM (Array Val) :=
  (List.range n).foldlM (fun b j => do
    let z : Val := .zero false
    let tail := (List.range (m - j - 1)).map (fun i => j + 1 + i)
    let s ← fusedSum j ([b.getD j z] :: tail.map (fun i => [a.at i j, b.getD i z]))
    let beta := betas.getD j z
    let t ← rnd j [beta, s] (f32.mul beta s)
    let b ← do pure (b.setIfInBounds j (← fusedSum j [[b.getD j z], [t.neg]]))
    tail.foldlM (fun b i => do
      pure (b.setIfInBounds i (← fusedSum j [[b.getD i z], [t.neg, a.at i j]]))) b) b

/-- The exchanges of LU applied to a right-hand side. -/
def applySwaps (aux : List Nat) (b : Array Val) : Array Val :=
  aux.zipIdx.foldl (fun b (p, j) =>
    let x := b.getD j (.zero false)
    let y := b.getD p (.zero false)
    (b.setIfInBounds j y).setIfInBounds p x) b

/-- R328: one right-hand side of one kind. `aux` are the auxiliary words of the factor record. -/
def solveColumn (kind tri : Nat) (pv : Pivot) (m n : Nat) (a : Mat) (aux : List Nat) (b : Array Val) :
    StateM SolveSt (Array Val × Bool) :=
  let tr := bit tri 0
  let unit := bit tri 1
  let diag (i : Nat) : Option Val := if unit then none else some (a.at i i)
  match kind with
  | 0 => if tr then backward pv false 0 n (fun i k => a.at k i) diag b else forward pv false 0 n a.at diag b
  | 1 => if tr then forward pv false 0 n (fun i k => a.at k i) diag b else backward pv false 0 n a.at diag b
  | 2 => cholSolve pv 0 n a b
  | 3 =>
    andThen n (forward pv false 0 n a.at (fun _ => none) b) (fun z =>
      andThen n (sweepTri pv false 0 (List.range n) (fun _ _ => .zero false) (fun _ => []) (fun i => some (a.at i i)) z)
        (backward pv false 0 n (fun i k => a.at k i) (fun _ => none)))
  | 4 =>
    andThen n (forward pv false 0 n a.at (fun _ => none) (applySwaps (aux.take n) b))
      (backward pv false 0 n a.at (fun i => some (a.at i i)))
  | _ => do
    match ← (qrApply m n a (aux.map f32.decode) b).run with
    | some y => backward pv false 0 n a.at (fun i => some (a.at i i)) (y.extract 0 n)
    | none => pure ((List.replicate n stopNaN).toArray, true)

/-- All right-hand sides, column by column; after a stop every later column is NaN (R322). -/
def solveColumns (n r : Nat) (f : Nat → StateM SolveSt (Array Val × Bool)) :
    StateM SolveSt (List (Array Val) × Bool) :=
  (List.range r).foldlM (fun (cols, stopped) c => do
    if stopped then pure (cols ++ [(List.replicate n stopNaN).toArray], true)
    else
      let (y, s) ← f c
      pure (cols ++ [y], s)) ([], false)

/-- R328: the elements of the matrix that a kind of Solve reads: a triangle, without its diagonal where that is taken as 1, for LOWER
and UPPER; the lower triangle for CHOL and LDLT; all for LU and QR. -/
def solveReads (kind tri n : Nat) (a : List Val) : List Val :=
  let reads (r c : Nat) : Bool :=
    match kind with
    | 0 => decide (c < r) || (decide (c = r) && !bit tri 1)
    | 1 => decide (r < c) || (decide (c = r) && !bit tri 1)
    | 2 => decide (c ≤ r)
    | 3 => decide (c ≤ r)
    | _ => true
  a.zipIdx.filterMap (fun (v, i) => if reads (i / n) (i % n) then some v else none)

/-- R327 to R329: one problem of Solve: the n × r solution words and the 4 words of its status header. `record` is the
factor record (none for kinds 0 and 1); its β words are input elements of a QR solve (R324). -/
def solveProblem (kind tri : Nat) (pv : Pivot) (m n r : Nat) (a b : List Val) (record : Option (List Nat)) :
    NumFlags × List Nat × List Nat :=
  let betas := if kind = 5 then (((record.getD []).drop 4).take n).map f32.decode else []
  let ins := solveReads kind tri n a ++ b ++ betas
  let nonfin := nonfiniteBit ins
  let inherited := match record with
    | some ws => bit (ws.getD 0 0) 0
    | none => false
  if inherited then
    let out := List.replicate (n * r) f32.nanBits
    (SolveSt.start.flags ins out, out, statusWords SolveSt.start (nonfin + 32))
  else
    let am : Mat := ⟨n, a.toArray⟩
    let bm : Mat := ⟨r, b.toArray⟩
    let aux := (record.getD []).drop 4
    let ((cols, _), st) := (solveColumns n r (fun c =>
      solveColumn kind tri pv m n am aux (tabulate m (fun i => bm.at i c)).toArray)).run SolveSt.start
    let out := (List.range (n * r)).map (fun i => f32.encode ((cols.getD (i % r) #[]).getD (i / r) stopNaN))
    (st.flags ins out, out, statusWords st nonfin)

/-! ### Riccati sweep (R330 to R332) -/

/-- The dimensions of a trajectory problem. -/
structure TrajDim where
  n : Nat
  nx : Nat
  nu : Nat
  nc : Nat
  deriving DecidableEq, Repr

/-- nw. -/
def TrajDim.nw (d : TrajDim) : Nat := d.nx + d.nu

/-- R330: ns_R. -/
def TrajDim.nsR (d : TrajDim) : Nat := 2 * d.nx * d.nx + 2 * d.nx * d.nu + d.nu * d.nu + 2 * d.nx + d.nu

/-- R333: ns_F. -/
def TrajDim.nsF (d : TrajDim) : Nat := d.nsR + d.nc * d.nw + 2 * d.nc + 2 * d.nw

/-- R335: ρ_w. -/
def TrajDim.rhoW (d : TrajDim) : Nat := alignUp (16 + (d.n + 1) * (2 * d.nw + d.nc)) 16

/-- Stage data of one problem with its stage stride. -/
structure StageData where
  dim : TrajDim
  stride : Nat
  vals : Array Val
  deriving Repr

/-- Word `o` of stage `t`. -/
def StageData.word (s : StageData) (t o : Nat) : Val := s.vals.getD (t * s.stride + o) (.zero false)

/-- Offsets of the fields of a stage (R330, R333). -/
def TrajDim.offB (d : TrajDim) : Nat := d.nx * d.nx
/-- Offset of c. -/
def TrajDim.offC (d : TrajDim) : Nat := d.offB + d.nx * d.nu
/-- Offset of Q. -/
def TrajDim.offQ (d : TrajDim) : Nat := d.offC + d.nx
/-- Offset of R. -/
def TrajDim.offR (d : TrajDim) : Nat := d.offQ + d.nx * d.nx
/-- Offset of S. -/
def TrajDim.offS (d : TrajDim) : Nat := d.offR + d.nu * d.nu
/-- Offset of q. -/
def TrajDim.offq (d : TrajDim) : Nat := d.offS + d.nu * d.nx
/-- Offset of r. -/
def TrajDim.offr (d : TrajDim) : Nat := d.offq + d.nx

/-- G_t = [A_t B_t], entry (i, j). -/
def StageData.g (s : StageData) (t i j : Nat) : Val :=
  let d := s.dim
  if j < d.nx then s.word t (i * d.nx + j) else s.word t (d.offB + i * d.nu + (j - d.nx))

/-- Z_t, entry (i, j) of the lower triangle. -/
def StageData.z (s : StageData) (t i j : Nat) : Val :=
  let d := s.dim
  if i < d.nx then s.word t (d.offQ + i * d.nx + j)
  else if j < d.nx then s.word t (d.offS + (i - d.nx) * d.nx + j)
  else s.word t (d.offR + (i - d.nx) * d.nu + (j - d.nx))

/-- z_t = [q_t; r_t]. -/
def StageData.zv (s : StageData) (t i : Nat) : Val := s.word t (s.dim.offq + i)

/-- c_t. -/
def StageData.c (s : StageData) (t i : Nat) : Val := s.word t (s.dim.offC + i)

/-- The matrix results of one stage that the vector part needs: P_(t+1), H_ux, the Cholesky factor of H_uu, K_t. -/
structure RicStage where
  pNext : Mat
  hux : Mat
  luu : Mat
  k : Mat
  deriving Repr

/-- R332: solve H_uu X = rhs for one column as kind CHOL; `step` names the stage and the iteration. -/
def stageSolve (pv : Pivot) (d : TrajDim) (step : Nat) (l : Mat) (rhs : Nat → Val) : SolveM (Array Val) := do
  let (y, stopped) ← cholSolve pv step d.nu l (tabulate d.nu rhs).toArray
  if stopped then failure else pure y

/-- R332: Y and then H of stage `t`; `zt` gives the lower entries of Z_t. DEDUCED: the step of a value (R324) is the
column of a matrix entry and the row of a vector entry. -/
def ricH (s : StageData) (step t : Nat) (zt : Nat → Nat → Val) (p : Mat) : SolveM Mat := do
  let d := s.dim
  let kx := List.range d.nx
  let y ← Mat.genM d.nx d.nw (fun i j => fusedSum (step + j) (kx.map (fun k => [p.at i k, s.g t k j])))
  Mat.symM d.nw (fun i j => fusedSum (step + j) ([zt i j] :: kx.map (fun k => [s.g t k i, y.at k j])))

/-- R332: e and then h of stage `t`, from P_(t+1) and p; `zt` gives z_t. -/
def ricVecH (s : StageData) (step t : Nat) (zt : Nat → Val) (pNext : Mat) (p : Array Val) : SolveM (Array Val) := do
  let d := s.dim
  let kx := List.range d.nx
  let e ← kx.mapM (fun i =>
    fusedSum (step + i) (kx.map (fun k => [pNext.at i k, s.c t k]) ++ [[p.getD i (.zero false)]]))
  let ea := e.toArray
  let h ← (List.range d.nw).mapM (fun j =>
    fusedSum (step + j) ([zt j] :: kx.map (fun k => [s.g t k j, ea.getD k (.zero false)])))
  pure h.toArray

/-- R332: the Cholesky factor of H_uu and K_t, from H. -/
def ricGain (pv : Pivot) (d : TrajDim) (step : Nat) (pNext h : Mat) : SolveM RicStage := do
  let huu := Mat.gen d.nu d.nu (fun i j => h.at (d.nx + i) (d.nx + j))
  let hux := Mat.gen d.nu d.nx (fun i j => h.at (d.nx + i) j)
  let l ← (List.range d.nu).foldlM (fun l j => cholStep pv step d.nu huu j l)
    (Mat.gen d.nu d.nu (fun _ _ => .zero false))
  let cols ← (List.range d.nx).mapM (fun j => stageSolve pv d step l (fun i => (hux.at i j).neg))
  pure ⟨pNext, hux, l, Mat.gen d.nu d.nx (fun i j => (cols.getD j #[]).getD i (.zero false))⟩

/-- R332: P_t = H_xx + H_ux′ K_t. -/
def ricP (d : TrajDim) (step : Nat) (h : Mat) (r : RicStage) : SolveM Mat :=
  Mat.symM d.nx (fun i j =>
    fusedSum (step + j) ([h.at i j] :: (List.range d.nu).map (fun k => [r.hux.at k i, r.k.at k j])))

/-- R332: k_t, from h. -/
def ricVecK (pv : Pivot) (d : TrajDim) (step : Nat) (r : RicStage) (h : Array Val) : SolveM (Array Val) :=
  stageSolve pv d step r.luu (fun i => (h.getD (d.nx + i) (.zero false)).neg)

/-- R332: p_t = h_x + H_ux′ k_t. -/
def ricVecP (d : TrajDim) (step : Nat) (r : RicStage) (h k : Array Val) : SolveM (Array Val) := do
  let p ← (List.range d.nx).mapM (fun i =>
    fusedSum (step + i) ([h.getD i (.zero false)] ::
      (List.range d.nu).map (fun j => [r.hux.at j i, k.getD j (.zero false)])))
  pure p.toArray

/-- The stages N − 1 down to 0 of a backward sweep, each giving a value; the values by rising stage. -/
def stagesDown {P A : Type} (n : Nat) (f : Nat → P → SolveM (P × A)) (p : P) : SolveM (List A) := do
  let (_, out) ← (List.range n).reverse.foldlM (fun (p, out) t => do
    let (p', x) ← f t p
    pure (p', x :: out)) (p, ([] : List A))
  pure out

/-- R332: the whole backward sweep, every value of stage `t` before any of stage t − 1. -/
def ricBackward (pv : Pivot) (s : StageData) (pN : Mat) (qN : Array Val) : SolveM (List (RicStage × Array Val)) :=
  stagesDown s.dim.n (fun t (P, p) => do
    let step := 256 * t
    let H ← ricH s step t (s.z t) P
    let h ← ricVecH s step t (s.zv t) P p
    let r ← ricGain pv s.dim step P H
    let k ← ricVecK pv s.dim step r h
    let P' ← ricP s.dim step H r
    let p' ← ricVecP s.dim step r h k
    pure ((P', p'), (r, k))) (pN, qN)

/-- R336: the matrix part of the backward sweep. -/
def ricMatrices (pv : Pivot) (s : StageData) (zt : Nat → Nat → Nat → Val) (pN : Mat) : SolveM (List RicStage) :=
  stagesDown s.dim.n (fun t P => do
    let step := 256 * t
    let H ← ricH s step t (zt t) P
    let r ← ricGain pv s.dim step P H
    pure (← ricP s.dim step H r, r)) pN

/-- R336: the vector part of the backward sweep; the k_t by rising stage. -/
def ricVectors (pv : Pivot) (s : StageData) (iter : Nat) (zt : Nat → Nat → Val) (rs : Array RicStage)
    (pN : Array Val) : SolveM (List (Array Val)) :=
  stagesDown s.dim.n (fun t p => do
    match rs[t]? with
    | none => pure (p, #[])
    | some r =>
      let step := 65536 * iter + 256 * t
      let h ← ricVecH s step t (zt t) r.pNext p
      let k ← ricVecK pv s.dim step r h
      pure (← ricVecP s.dim step r h k, k)) pN

/-- R332: the forward sweep: w_t for every stage, u_N = +0. -/
def ricForward (s : StageData) (iter : Nat) (gains : List (RicStage × Array Val)) (x0 : Array Val) :
    SolveM (List (Array Val)) := do
  let d := s.dim
  let z : Val := .zero false
  let (xN, ws) ← gains.zipIdx.foldlM (fun (x, ws) ((r, k), t) => do
    let step := 65536 * iter + 256 * t
    let u ← (List.range d.nu).mapM (fun i =>
      fusedSum (step + i) ((List.range d.nx).map (fun j => [r.k.at i j, x.getD j z]) ++ [[k.getD i z]]))
    let w := x ++ u.toArray
    let x' ← (List.range d.nx).mapM (fun i =>
      fusedSum (step + i) ((List.range d.nw).map (fun j => [s.g t i j, w.getD j z]) ++ [[s.c t i]]))
    pure (x'.toArray, ws ++ [w])) (x0, ([] : List (Array Val)))
  pure (ws ++ [xN ++ (List.replicate d.nu z).toArray])

/-- Whether a problem reads word `o` of stage `t`: the lower triangles of Q and R; at stage N only Q and q of R330's fields, and of
R333's all but the u part of D and the box rows of u. -/
def TrajDim.reads (d : TrajDim) (t o : Nat) : Bool :=
  let early := decide (t < d.n)
  let box := d.nsR + d.nc * d.nw + 2 * d.nc
  if o < d.offQ then early
  else if o < d.offR then decide ((o - d.offQ) % d.nx ≤ (o - d.offQ) / d.nx)
  else if o < d.offS then early && decide ((o - d.offR) % d.nu ≤ (o - d.offR) / d.nu)
  else if o < d.offq then early
  else if o < d.offr then true
  else if o < d.nsR then early
  else if o < d.nsR + d.nc * d.nw then early || decide ((o - d.nsR) % d.nw < d.nx)
  else if o < box then true
  else early || decide ((o - box) % d.nw < d.nx)

/-- The elements of the stage data that its problem reads: the input elements of R324 (log entry 37). -/
def StageData.readWords (s : StageData) : List Val :=
  (List.range (s.dim.n + 1)).flatMap (fun t =>
    ((List.range s.stride).filter (s.dim.reads t)).map (s.word t))

/-- R331, R332: one problem of Riccati sweep: the (N + 1) nw trajectory words and its status header. -/
def riccatiProblem (pv : Pivot) (d : TrajDim) (data x0 : List Val) : NumFlags × List Nat × List Nat :=
  let s : StageData := ⟨d, d.nsR, data.toArray⟩
  let ins := s.readWords ++ x0
  let pN := Mat.gen d.nx d.nx (fun i j => if j ≤ i then s.z d.n i j else s.z d.n j i)
  let run : SolveM (List (Array Val)) := do
    let gains ← ricBackward pv s pN (tabulate d.nx (fun i => s.zv d.n i)).toArray
    ricForward s 0 gains x0.toArray
  let (r, st) := run.run.run SolveSt.start
  let words := match r with
    | some ws => ws.flatMap (fun w => w.toList.map f32.encode)
    | none => List.replicate ((d.n + 1) * d.nw) f32.nanBits
  (st.flags ins words, words, statusWords st (nonfiniteBit ins))

/-! ### Refine (R333 to R340) -/

/-- The parameters of Refine (R334). -/
structure RefineParam where
  dim : TrajDim
  pv : Pivot
  iters : Nat
  rho : Val
  sigma : Val
  cid : Nat
  deriving DecidableEq, Repr

/-- D_t, entry (r, j) (R333). -/
def StageData.d (s : StageData) (t r j : Nat) : Val := s.word t (s.dim.nsR + r * s.dim.nw + j)

/-- The bounds of row `r` of stage `t`: box rows 0 to nw − 1, then general rows. -/
def StageData.bound (s : StageData) (t r : Nat) : Val × Val :=
  let d := s.dim
  let o := d.nsR + d.nc * d.nw
  if r < d.nw then (s.word t (o + 2 * d.nc + r), s.word t (o + 2 * d.nc + d.nw + r))
  else (s.word t (o + (r - d.nw)), s.word t (o + d.nc + (r - d.nw)))

/-- The rows of stage `t` that are constraints: at stage N the box rows of u are none (R333). -/
def StageData.rows (s : StageData) (t : Nat) : List Nat :=
  (List.range (s.dim.nw + s.dim.nc)).filter (fun r => t < s.dim.n || r < s.dim.nx || s.dim.nw ≤ r)

/-- The columns of a row that count: at stage N the u part is ignored. -/
def StageData.width (s : StageData) (t : Nat) : Nat := if t < s.dim.n then s.dim.nw else s.dim.nx

/-- The products of row `r` of C_t with a vector: one term a column. -/
def StageData.rowTerms (s : StageData) (t r : Nat) (w : Array Val) : List (List Val) :=
  if r < s.dim.nw then [[w.getD r (.zero false)]]
  else (List.range (s.width t)).map (fun j => [s.d t (r - s.dim.nw) j, w.getD j (.zero false)])

/-- R338: the sparsity digest of the stage data (raw words). -/
def sparsityDigest (d : TrajDim) (stride : Nat) (words : Array Nat) : Nat :=
  let used (o : Nat) : Bool :=
    decide (o < d.offC ∨ (d.offQ ≤ o ∧ o < d.offq) ∨ (d.nsR ≤ o ∧ o < d.nsR + d.nc * d.nw))
  let bits := (List.range ((d.n + 1) * stride)).filterMap (fun i =>
    if used (i % stride) then some (decide (words.getD i 0 % 2 ^ 31 ≠ 0)) else none)
  crc64 ((chunks 8 bits).map (fun bs =>
    BitVec.ofNat 8 (bs.zipIdx.foldl (fun v (b, i) => v + (if b then 2 ^ i else 0)) 0)))

/-- R338: the structure key, 32 bytes. -/
def structureKey (d : TrajDim) (digest cid : Nat) : List Byte :=
  natLE 2 d.n ++ natLE 1 d.nx ++ natLE 1 d.nu ++ natLE 1 d.nc ++ zeros 3 ++ natLE 8 digest ++ natLE 8 cid ++ zeros 8

/-- R339: the warm outcome of a source record (as words; none is no source): 0 NONE, 1 FULL, 2 PARTIAL, 3 REJECTED. -/
def warmOutcome (key : List Byte) (src : Option (List Nat)) : Nat :=
  match src with
  | none => 0
  | some ws =>
    let k := (ws.take 8).flatMap (natLE 4)
    let fl := ws.getD 8 0
    if bit fl 0 || bit fl 5 || bit fl 6 then 0
    else if k.take 5 ≠ key.take 5 then 3
    else if k = key then 1
    else 2

/-- The clamp of R336 under R102. -/
def clampVal (v lo hi : Val) : Val := Val.min (Val.max v lo) hi

/-- The iterates of Refine: w, s and λ by stage. -/
structure RefIter where
  w : List (Array Val)
  s : List (Array Val)
  lam : List (Array Val)
  rPrim : Val
  rDual : Val
  deriving Repr

/-- Entry `i` of stage `t`. -/
def at2 (l : List (Array Val)) (t i : Nat) : Val := (l.getD t #[]).getD i (.zero false)

/-- R336: g = z − σ w − C′ (ρ s − λ), entry `j` of stage `t`. -/
def refineG (s : StageData) (p : RefineParam) (it : RefIter) (step t j : Nat) : SolveM Val :=
  let d := s.dim
  let box : List (List Val) :=
    if t < d.n ∨ j < d.nx then [[p.rho.neg, at2 it.s t j], [at2 it.lam t j]] else []
  let gen := (List.range d.nc).flatMap (fun r =>
    [[(s.d t r j).neg, p.rho, at2 it.s t (d.nw + r)], [s.d t r j, at2 it.lam t (d.nw + r)]])
  fusedSum (step + j) ([s.zv t j] :: [p.sigma.neg, at2 it.w t j] :: (box ++ gen))

/-- R336: one row quantity for every row of every stage; rows that are no constraint give +0. -/
def perRow (s : StageData) (f : Nat → Nat → SolveM Val) : SolveM (List (Array Val)) :=
  (List.range (s.dim.n + 1)).mapM (fun t => do
    let rows := s.rows t
    let vs ← (List.range (s.dim.nw + s.dim.nc)).mapM (fun r =>
      if rows.contains r then f t r else pure (.zero false))
    pure vs.toArray)

/-- R336: one ADMM iteration. -/
def refineIter (s : StageData) (p : RefineParam) (rhoInv : Val) (rs : List RicStage) (x0 : Array Val) (i : Nat)
    (it : RefIter) : SolveM RefIter := do
  let d := s.dim
  let st (t : Nat) : Nat := 65536 * (i + 1) + 256 * t
  let g ← (List.range (d.n + 1)).mapM (fun t => do
    let vs ← (List.range (s.width t)).mapM (fun j => refineG s p it (st t) t j)
    pure vs.toArray)
  let ks ← ricVectors p.pv s (i + 1) (fun t j => at2 g t j) rs.toArray (g.getD d.n #[])
  let wt ← ricForward s (i + 1) (rs.zip ks) x0
  let v ← perRow s (fun t r => fusedSum (st t + r) (s.rowTerms t r (wt.getD t #[])))
  let sNew ← perRow s (fun t r => do
    let x ← fusedSum (st t + r) [[at2 v t r], [rhoInv, at2 it.lam t r]]
    let (lo, hi) := s.bound t r
    pure (clampVal x lo hi))
  let lam ← perRow s (fun t r =>
    fusedSum (st t + r) [[at2 it.lam t r], [p.rho, at2 v t r], [p.rho.neg, at2 sNew t r]])
  let prim ← perRow s (fun t r => do
    pure (← fusedSum (st t + r) [[at2 v t r], [(at2 sNew t r).neg]]).abs)
  let dual ← perRow s (fun t r => do
    let x ← fusedSum (st t + r) [[at2 sNew t r], [(at2 it.s t r).neg]]
    rnd (st t + r) [p.rho, x] (f32.mul p.rho x.abs))
  let mx (l : List (Array Val)) : Val := l.foldl (fun m a => a.toList.foldl Val.max m) (.zero false)
  pure ⟨wt, sNew, lam, mx prim, mx dual⟩

/-- R336: Ht_t, lower entry (i, j). -/
def refineHt (s : StageData) (p : RefineParam) (t i j : Nat) : SolveM Val :=
  let gen := (List.range s.dim.nc).map (fun r => [p.rho, s.d t r i, s.d t r j])
  fusedSum (256 * t + j) ([s.z t i j] :: ((if i = j then [[p.sigma], [p.rho]] else []) ++ gen))

/-- R336: all iterations of one problem from its warm start; Ht of every stage is rounded before the matrix part. -/
def refineRun (s : StageData) (p : RefineParam) (x0 : Array Val) (w0 lam0 : List (Array Val)) : SolveM RefIter := do
  let d := s.dim
  let rhoInv ← divStep 0 (.fin 1) p.rho
  let s0 ← perRow s (fun t r => do
    let x ← fusedSum (256 * t + r) (s.rowTerms t r (w0.getD t #[]) ++ [[rhoInv, at2 lam0 t r]])
    let (lo, hi) := s.bound t r
    pure (clampVal x lo hi))
  let ht ← (List.range (d.n + 1)).mapM (fun t => Mat.symM (s.width t) (refineHt s p t))
  let hts := ht.toArray
  let htAt (t i j : Nat) : Val := ((hts[t]?).map (fun m => m.at i j)).getD (.zero false)
  let rs ← ricMatrices p.pv s htAt (Mat.gen d.nx d.nx (htAt d.n))
  (List.range p.iters).foldlM (fun it i => refineIter s p rhoInv rs x0 i it)
    ⟨w0, s0, lam0, .zero false, .zero false⟩

/-- R336: BADBOUND: a constraint row whose lo exceeds hi or that holds a NaN bound. -/
def StageData.badBound (s : StageData) : Bool :=
  (List.range (s.dim.n + 1)).any (fun t => (s.rows t).any (fun r =>
    let (lo, hi) := s.bound t r
    lo.isNan || hi.isNan || Val.lt hi lo))

/-- The warm start of a problem (R339): w with x_0 from `in[1]`, and λ. -/
def warmStart (d : TrajDim) (outcome : Nat) (src : List Nat) (x0 : Array Val) :
    List (Array Val) × List (Array Val) :=
  let z : Val := .zero false
  let word (i : Nat) : Val := f32.decode (src.getD i 0)
  let useW := decide (outcome = 1 ∨ outcome = 2)
  (tabulate (d.n + 1) (fun t => (tabulate d.nw (fun i =>
      if t = 0 ∧ i < d.nx then x0.getD i z
      else if useW then word (16 + t * d.nw + i) else z)).toArray),
   tabulate (d.n + 1) (fun t => (tabulate (d.nw + d.nc) (fun i =>
      if outcome = 1 then word (16 + (d.n + 1) * d.nw + t * (d.nw + d.nc) + i) else z)).toArray))

/-- R339: the elements of a warm record that the start takes: w but for x_0 and u_N, and λ of the constraint rows when the whole key
is equal. -/
def warmReads (s : StageData) (outcome : Nat) (src : List Nat) : List Val :=
  let d := s.dim
  let word (i : Nat) : Val := f32.decode (src.getD i 0)
  (if outcome = 1 ∨ outcome = 2 then
    (List.range (d.n + 1)).flatMap (fun t => ((List.range (s.width t)).filter (fun i => decide (0 < t ∨ d.nx ≤ i))).map
      (fun i => word (16 + t * d.nw + i)))
   else []) ++
  (if outcome = 1 then
    (List.range (d.n + 1)).flatMap (fun t => (s.rows t).map (fun r => word (16 + (d.n + 1) * d.nw + t * (d.nw + d.nc) + r)))
   else [])

/-- R335 to R340: one problem of Refine: flags, the ρ_w words of its record, and its warm outcome. `words` are the raw
words of its stage data, `src` the warm source record. The input elements of R324 are the elements it reads: of the stage data (every
bound that constrains, an infinite one too), of x_0, and of the warm record what the start takes (log entry 37). -/
def refineProblem (p : RefineParam) (words : List Nat) (x0 : List Val) (src : Option (List Nat)) :
    NumFlags × List Nat × Nat :=
  let d := p.dim
  let s : StageData := ⟨d, d.nsF, (words.map f32.decode).toArray⟩
  let key := structureKey d (sparsityDigest d d.nsF words.toArray) p.cid
  let outcome := warmOutcome key src
  let x := x0.toArray
  let (w0, lam0) := warmStart d outcome (src.getD []) x
  let ins := s.readWords ++ x0 ++ warmReads s outcome (src.getD [])
  let bad := s.badBound
  let (res, st) : Option RefIter × SolveSt :=
    if bad then (none, SolveSt.start) else (refineRun s p x w0 lam0).run.run SolveSt.start
  let nan := f32.nanBits
  let nv := (d.n + 1) * d.nw
  let nl := (d.n + 1) * (d.nw + d.nc)
  let (rp, rd, wl) := match res with
    | some it => (f32.encode it.rPrim, f32.encode it.rDual,
        (it.w.flatMap (fun a => a.toList.map f32.encode)) ++ (it.lam.flatMap (fun a => a.toList.map f32.encode)))
    | none => (nan, nan, List.replicate (nv + nl) nan)
  let head := (chunks 4 key).map leNat ++ statusWords st (nonfiniteBit ins + 64 * bit01 bad) ++
    [outcome + 65536 * (if bad then 0 else p.iters), rp, rd, 0]
  let body := head ++ wl
  (st.flags ins (rp :: rd :: wl), body ++ List.replicate (d.rhoW - body.length) 0, outcome)

end Sys2Proof.Machine
end

