-- ==== Sys2Proof/Machine/SolverOps.lean ====
section
/-!
DEFINITION. The solver operations as commands (R313 to R344) and the warm-start store.
-/
namespace Sys2Proof.Machine

/-! ### Batches -/

/-- A problem's result: flags, words of each output, and whether its status counts under R325. -/
structure SolverOut where
  flags : NumFlags
  out0 : List Nat
  out1 : List Nat
  signal : Bool
  deriving DecidableEq, Repr

/-- R325: a status word with SINGULAR, OVERFLOW, INHERITED or BADBOUND set. -/
def statusFails (w : Nat) : Bool := bit w 0 || bit w 1 || bit w 5 || bit w 6

/-- The words of problem `b` of an input. -/
def OpCtx.row (c : OpCtx) (d : OpData) (i : Nat) : Array (List Nat) :=
  let t := c.inDesc i
  let ws := t.rawWords (d.inp i)
  (chunks (rowWidth t.shape) ws).toArray

/-- FP32 words as values. -/
def vals (ws : List Nat) : List Val := ws.map f32.decode

/-- All problems of a batch laid into the outputs, with the flags merged. -/
def OpCtx.putBatch (c : OpCtx) (d : OpData) (rs : List SolverOut) : List ByteArr × NumFlags :=
  let fl := rs.foldl (fun f r => f.merge r.flags) NumFlags.none
  let (outs, f2) := outcomeOf (do
    let o ← c.putWords 0 (rs.flatMap (·.out0)) d
    if c.op.out 1 = 0xFFFF then pure [o] else pure [o, ← c.putWords 1 (rs.flatMap (·.out1)) d])
  (outs, fl.merge f2)

/-- R325: NUMERIC applies to a job from a stage on. -/
def State.noteNumeric (s : State) (c : OpCtx) (rs : List SolverOut) (pivot : Nat) : State :=
  if pivot = 0 && rs.any (·.signal) then
    s.modJob c.r.q c.r.s (fun j => j.modRun (fun r =>
      if r.numeric then r else { r with numeric := true, numericStage := c.r.stage }))
  else s

/-- A solver operation: with a residue mismatch (R573) it ends under R574; else its problems are solved one by one. -/
def State.runSolver (s : State) (r : OpRef) (hv : HostView) (code : Nat) (bad : Option Nat) (pivot : OpCtx → Nat)
    (solve : State → OpCtx → OpData → List SolverOut) (after : OpCtx → List SolverOut → State → State) : Host.Outcome State Fault Refusal :=
  let s := s.merge hv
  s.withOp r code fun c =>
    match bad, s.opData hv c with
    | some lane, _ => (s.mismatch c 0x0011 (unitCode 4 (c.ins.cl + 16 * (s.die c.ins.die).pipelineOf c.ins.cl (lane % 16))) code false false).done
    | none, none => (s.opFail c).done
    | none, some d =>
      let rs := solve s c d
      let (outs, fl) := c.putBatch d rs
      (after c rs ((s.opFinish hv c outs fl).noteNumeric c rs (pivot c))).done

/-! ### Factor, Solve, Riccati sweep -/

/-- R314: the problems of Factor. -/
def factorBatch (_ : State) (c : OpCtx) (d : OpData) : List SolverOut :=
  let a := c.row d 0
  let sh := (c.inDesc 0).shape
  tabulate c.batch (fun b =>
    let (f, o, h) := factorProblem (c.op.par 0 1) (sh.getD 1 1) (sh.getD 2 1) ⟨c.op.par 1 1, (c.op.parF32 4).toRat⟩ (vals (a.getD b []))
    ⟨f, o, h, statusFails (h.headD 0)⟩)

/-- FACTOR (R314). -/
def execFactor (r : OpRef) (hv : HostView) (bad : Option Nat) (s : State) (hit : Option BankHit := none) :
    Host.Outcome State Fault Refusal :=
  s.runWrites r 0x0600 hit fun s =>
  s.runSolver r hv 0x0600 bad (fun c => c.op.par 1 1) factorBatch (fun _ _ s => s)

/-- R327: the problems of Solve. -/
def solveBatch (_ : State) (c : OpCtx) (d : OpData) : List SolverOut :=
  let a := c.row d 0
  let b := c.row d 1
  let rec' := if c.op.inp 2 = 0xFFFF then #[] else c.row d 2
  let sh := (c.inDesc 0).shape
  let r := (c.inDesc 1).shape.getLastD 1
  tabulate c.batch (fun i =>
    let (f, o, h) := solveProblem (c.op.par 0 1) (c.op.par 2 1) ⟨c.op.par 1 1, (c.op.parF32 4).toRat⟩ (sh.getD 1 1) (sh.getD 2 1) r
      (vals (a.getD i [])) (vals (b.getD i [])) (rec'[i]?)
    ⟨f, o, h, statusFails (h.headD 0)⟩)

/-- SOLVE (R328). -/
def execSolve (r : OpRef) (hv : HostView) (bad : Option Nat) (s : State) (hit : Option BankHit := none) :
    Host.Outcome State Fault Refusal :=
  s.runWrites r 0x0601 hit fun s =>
  s.runSolver r hv 0x0601 bad (fun c => c.op.par 1 1) solveBatch (fun _ _ s => s)

/-- R331: the problems of Riccati sweep. -/
def riccatiBatch (_ : State) (c : OpCtx) (d : OpData) : List SolverOut :=
  let a := c.row d 0
  let x := c.row d 1
  let dim : TrajDim := ⟨(c.inDesc 0).shape.getD 1 1 - 1, c.op.par 0 1, c.op.par 1 1, 0⟩
  tabulate c.batch (fun b =>
    let (f, o, h) := riccatiProblem ⟨c.op.par 2 1, (c.op.parF32 4).toRat⟩ dim (vals (a.getD b [])) (vals (x.getD b []))
    ⟨f, o, h, statusFails (h.headD 0)⟩)

/-- RICCATI_SWEEP (R332). -/
def execRiccatiSweep (r : OpRef) (hv : HostView) (bad : Option Nat) (s : State) (hit : Option BankHit := none) :
    Host.Outcome State Fault Refusal :=
  s.runWrites r 0x0602 hit fun s =>
  s.runSolver r hv 0x0602 bad (fun c => c.op.par 2 1) riccatiBatch (fun _ _ s => s)

/-! ### Refine and the warm-start store (R333 to R344) -/

/-- R334: the parameters of Refine. -/
def OpCtx.refineParam (c : OpCtx) : RefineParam :=
  { dim := ⟨(c.inDesc 0).shape.getD 1 1 - 1, c.op.par 0 1, c.op.par 1 1, c.op.par 2 1⟩, pv := ⟨c.op.par 3 1, (c.op.parF32 0x10).toRat⟩,
    iters := c.op.par 4 2, rho := c.op.parF32 8, sigma := c.op.parF32 0xC, cid := c.sel (c.op.par 0x15 1) (c.op.par 0x18 8) % 2 ^ 64 }

/-- R342: the record that a problem of a job reads from a slot. -/
def WarmEnt.read (e : WarmEnt) (q n : Nat) : Option WarmRec :=
  match e.cur with
  | none => none
  | some r => if r.q = q && r.s = n then e.prev else some r

/-- R342: a record written by a job into a slot. -/
def WarmEnt.write (e : WarmEnt) (r : WarmRec) : WarmEnt :=
  match e.cur with
  | none => { cur := some r, prev := none }
  | some o => if o.q = r.q && o.s = r.s then { e with cur := some r } else { cur := some r, prev := some o }

/-- An empty slot. -/
def WarmEnt.empty : WarmEnt := ⟨none, none⟩

/-- R339: the warm source of problem `b`. -/
def State.warmSource (s : State) (c : OpCtx) (rows : Array (List Nat)) (b : Nat) : Option (List Nat) :=
  match c.op.par 6 1 with
  | 1 =>
    let e := (s.die c.ins.die).warm.getD (c.warmFirst + b) WarmEnt.empty
    (e.read c.r.q c.r.s).map (fun r => (chunks 4 r.bytes).map leNat)
  | 2 => some (rows.getD b [])
  | _ => none

/-- R335, R336: the problems of Refine; `out1` carries the warm outcome. -/
def refineBatch (s : State) (c : OpCtx) (d : OpData) : List SolverOut :=
  let a := c.row d 0
  let x := c.row d 1
  let w := if c.op.inp 2 = 0xFFFF then #[] else c.row d 2
  tabulate c.batch (fun b =>
    let (f, o, k) := refineProblem c.refineParam (a.getD b []) (vals (x.getD b [])) (s.warmSource c w b)
    ⟨f, o, [k], statusFails (o.getD 8 0)⟩)

/-- R339, R342: the warm outcomes set their advisory flags, and `wsave` sends the records to the store. -/
def State.afterRefine (c : OpCtx) (rs : List SolverOut) (s : State) : State :=
  let s := if rs.any (fun r => r.out1 = [3]) then s.advise c.r.q c.r.s advWarmRejected else s
  let s := if rs.any (fun r => r.out1 = [2]) then s.advise c.r.q c.r.s advWarmPartial else s
  if c.op.par 7 1 = 1 then
    let ws := rs.zipIdx.filterMap (fun (r, b) =>
      let fl := r.out0.getD 8 0
      if bit fl 0 || bit fl 5 || bit fl 6 then none
      else some ({ slot := c.warmFirst + b, q := c.r.q, s := c.r.s, bytes := r.out0.flatMap (natLE 4), dies := s.healthyDies } : StoreWrite))
    { s with storeWrites := s.storeWrites ++ ws }
  else s

/-- REFINE (R336). -/
def execRefine (r : OpRef) (hv : HostView) (bad : Option Nat) (s : State) (hit : Option BankHit := none) :
    Host.Outcome State Fault Refusal :=
  s.runWrites r 0x0603 hit fun s =>
  s.runSolver r hv 0x0603 bad (fun c => c.op.par 3 1) refineBatch State.afterRefine

/-- The first store write that a die has still to apply. -/
def State.nextStoreWrite (s : State) (d : Nat) : Option StoreWrite := s.storeWrites.find? (fun w => w.dies.contains d)

/-- WARM_STORE_WRITE (R342, R343): die `d` applies the next serialised write, which is for slot `i`; the completions that
waited for it follow. -/
def execWarmStoreWrite (d i : Nat) (s : State) : Host.Outcome State Fault Refusal :=
  match s.nextStoreWrite d with
  | none => s.idle
  | some w =>
    if s.healthy d && w.slot = i then
      let home := s.sup.die.getD d
      s.cross (s.overUmlin home d 1 i ++ atHbm d (s.regs.warmRange i).1 w.bytes.length 3) fun s =>
      let s := s.modDie d (fun x =>
        let x := x.clearHbm (s.regs.warmRange i).1 (alignUp w.bytes.length 64)
        { x with warm := x.warm.insert i ((x.warm.getD i WarmEnt.empty).write ⟨w.q, w.s, w.bytes⟩) })
      let rest := s.storeWrites.modify (s.storeWrites.findIdx (fun v => v.dies.contains d)) (fun v => { v with dies := v.dies.filter (· ≠ d) })
      (({ s with storeWrites := rest.filter (fun v => !v.dies.isEmpty) } : State).writeCompletions w.q).done
    else s.idle

end Sys2Proof.Machine
end

