-- ==== Sys2Proof/Machine/CheckOps.lean ====
section
/-!
DEFINITION. The check-value operations and Digest (R561, R610 to R623), the envelope channels, and the canonical bytes of a
tensor (R69, R70, R557).
-/
namespace Sys2Proof.Machine

/-! ### Canonical bytes -/

/-- Patterns packed into bytes (R69). -/
def packPatterns (f : Fmt) (ws : List Nat) : List Byte :=
  if f.bits = 4 then (chunks 2 ws).map (fun p => BitVec.ofNat 8 (p.getD 0 0 % 16 + 16 * (p.getD 1 0 % 16)))
  else ws.flatMap (natLE (f.bits / 8))

/-- `n` patterns unpacked from bytes (R69). -/
def unpackPatterns (f : Fmt) (n : Nat) (bs : ByteArr) : List Nat := tabulate n (patternAt f bs)

/-- The number of bytes of a tensor's elements and block scales, padding left out (R557). -/
def TensorDesc.rawBytes (t : TensorDesc) : Nat :=
  let n := elemCount t.shape
  dataBytes t.fmt n + (if t.scaled then t.blockCount else 0)

/-- A tensor's elements in canonical order, converted under R133 from accumulator memory, then its block scales; padding
and tile layout left out (R557). -/
def TensorDesc.rawData (t : TensorDesc) (bs : ByteArr) : NumM (List Byte) :=
  match t.acc with
  | some _ => do
    let es ← t.elems bs
    let ws ← es.mapM (fun (e : Elem) => t.fmt.encodeOut (match e with | .pt v => OutElem.rne v | .iv i => .iv i))
    pure (packPatterns t.fmt ws)
  | none => do
    let sc := if t.scaled then t.blocks.map (fun b => BitVec.ofNat 8 (t.scaleOf bs (b.headD 0))) else []
    pure (packPatterns t.fmt (t.patterns bs) ++ sc)

/-- The tensor laid out from such bytes, over the bytes it starts from. -/
def TensorDesc.putRaw (t : TensorDesc) (data : List Byte) (bs : ByteArr) : ByteArr :=
  let n := elemCount t.shape
  let a := data.toArray
  let bs := (unpackPatterns t.fmt n a).zipIdx.foldl (fun b (w, i) => putPattern t.fmt b (t.layout.pos t.shape i) w) bs
  if t.scaled then
    t.blocks.zipIdx.foldl (fun b (blk, g) => b.setIfInBounds (t.scaleAt (blk.headD 0)) (a.getD (dataBytes t.fmt n + g) 0)) bs
  else bs

/-! ### Envelopes (R613, R619 to R621) -/

/-- R613: the trailer of an envelope. -/
def trailer (dataId alive n : Nat) (data : List Byte) : List Byte :=
  let t := natLE 2 dataId ++ natLE 2 alive ++ natLE 4 n
  t ++ natLE 4 (crc32c (data ++ t))

/-- R613: the envelope of data. -/
def envelope (dataId alive : Nat) (data : List Byte) : List Byte := data ++ trailer dataId alive data.length data

/-- What Unwrap finds. -/
structure RxFrame where
  result : Nat
  delta : Nat
  crcCalc : Nat
  deriving DecidableEq, Repr

/-- R619: the checks of a frame of `n` data bytes against a data ID, a gap limit and the receive counter. -/
def checkFrame (dataId gap n : Nat) (last : Option Nat) (data tail : List Byte) : RxFrame :=
  let alive := field tail 2 2
  let crc := crc32c (data ++ tail.take 8)
  if field tail 4 4 ≠ n then ⟨7, 0, 0⟩
  else if field tail 0 2 ≠ dataId then ⟨6, 0, 0⟩
  else if field tail 8 4 ≠ crc then ⟨5, 0, crc⟩
  else match last with
    | none => ⟨1, 0, crc⟩
    | some l =>
      let δ := (alive + 65536 - l % 65536) % 65536
      if δ = 0 then ⟨3, 0, crc⟩
      else if 32768 ≤ δ then ⟨4, δ, crc⟩
      else if gap < δ then ⟨2, δ, crc⟩
      else ⟨0, δ, crc⟩

/-- R620: the frame is accepted: OK, INITIAL and GAP. -/
def RxFrame.accepted (f : RxFrame) : Bool := decide (f.result ≤ 2)

/-- R621: the status record. -/
def statusRecord (f : RxFrame) (last : Option Nat) (tail : List Byte) : List Byte :=
  natLE 4 f.result ++ natLE 2 (field tail 2 2) ++ natLE 2 (last.getD 0) ++ natLE 2 (field tail 0 2) ++ natLE 2 f.delta ++
    natLE 4 (field tail 4 4) ++ natLE 4 (field tail 8 4) ++ natLE 4 f.crcCalc ++ zeros 8

/-! ### Channels (R615, R616) -/

/-- A channel as package reset leaves it (R615). -/
def State.freshChan (s : State) (c : Nat) : Chan :=
  { tx := ⟨some 0, none, some 0⟩, rx := ⟨none, none, none⟩, holders := s.holdersOf c, exposed := false }

/-- An envelope channel. -/
def State.chan (s : State) (c : Nat) : Chan := (s.chans.get c).getD (s.freshChan c)

/-- R612: the channel an operation names. -/
def OpCtx.channel (c : OpCtx) : Nat := c.sel (c.op.par 2 1) (c.op.par 0 2) % 1024

/-- R616: the first use of a half by an execution of a job returns it to the recorded prior state, or records the use. -/
def ChanHalf.use (h : ChanHalf) (key : Nat × Nat) (used : Bool) : ChanHalf :=
  if used then h
  else if h.key = some key then { h with ctr := h.prior }
  else { h with key := some key, prior := h.ctr }

/-- The half of a channel as an operation's use finds it. -/
def State.useHalf (s : State) (c : OpCtx) (tx : Bool) : ChanHalf :=
  let ch := s.chan c.channel
  (if tx then ch.tx else ch.rx).use (c.r.q, c.r.s) (c.rd.chans.contains (c.channel, tx))

/-- The half of a channel after a use, with its counter; the execution has used it. -/
def State.putHalf (s : State) (c : OpCtx) (tx : Bool) (ctr : Option Nat) : State :=
  let ch := s.chan c.channel
  let h := { s.useHalf c tx with ctr := ctr }
  let s : State := { s with chans := s.chans.insert c.channel (if tx then { ch with tx := h } else { ch with rx := h }) }
  s.modJob c.r.q c.r.s (fun j => j.modRun (fun r =>
    if r.chans.contains (c.channel, tx) then r else { r with chans := r.chans ++ [(c.channel, tx)] }))

/-! ### The operations -/

/-- The canonical bytes of input 0. -/
def OpCtx.raw0 (c : OpCtx) (d : OpData) : List Byte × NumFlags := ((c.inDesc 0).rawData (d.inp 0)).runFlags

/-- An output laid out from canonical bytes. -/
def OpCtx.rawOut (c : OpCtx) (d : OpData) (i : Nat) (data : List Byte) : ByteArr := (c.outDesc i).putRaw data (d.out i)

/-- An operation on a channel: it waits while a copy of the channel's state is being made (R465, R615). -/
def State.runChannel (s : State) (r : OpRef) (hv : HostView) (code : Nat) (body : State → OpCtx → OpData → State) :
    Host.Outcome State Fault Refusal :=
  let s := s.merge hv
  s.withOp r code fun c =>
    if (s.chan c.channel).exposed then s.idle
    else match s.opData hv c with
      | none => (s.opFail c).done
      | some d => (body s c d).done

/-- CHECK_VALUE_WRAP (R613, R614, R618). -/
def execCheckValueWrap (r : OpRef) (hv : HostView) (s : State) (hit : Option BankHit := none) :
    Host.Outcome State Fault Refusal :=
  s.runWrites r 0x0701 hit fun s =>
  s.runChannel r hv 0x0701 (fun s c d =>
    let h := s.useHalf c true
    let alive := h.ctr.getD 0
    let (data, fl) := c.raw0 d
    (s.opFinish hv c [c.rawOut d 0 (envelope (c.op.par 4 2) alive data)] fl).putHalf c true (some ((alive + 1) % 65536)))

/-- CHECK_VALUE_UNWRAP (R614, R619 to R621). -/
def execCheckValueUnwrap (r : OpRef) (hv : HostView) (s : State) (hit : Option BankHit := none) :
    Host.Outcome State Fault Refusal :=
  s.runWrites r 0x0702 hit fun s =>
  s.runChannel r hv 0x0702 (fun s c d =>
    let h := s.useHalf c false
    let (b, fl) := c.raw0 d
    let n := b.length - 12
    let data := b.take n
    let tail := b.drop n
    let f := checkFrame (c.op.par 4 2) (c.op.par 6 2) n h.ctr data tail
    let o0 := c.rawOut d 0 (if f.accepted then data else zeros n)
    let o1 := c.rawOut d 1 (statusRecord f h.ctr tail)
    (s.opFinish hv c [o0, o1] fl).putHalf c false (if f.accepted then some (field tail 2 2) else h.ctr))

/-- The result words of Scan: CRC-32C and zero, or CRC-64 (R622). -/
def scanResult (crc : Nat) (data : List Byte) : List Byte := if crc = 0 then natLE 4 (crc32c data) ++ zeros 4 else natLE 8 (crc64 data)

/-- R622: the host range that a RANGE scan names. -/
def OpCtx.scanRange (c : OpCtx) : Nat × Nat := (c.rd.word (c.op.par 2 1), c.rd.word (c.op.par 3 1))

/-- CHECK_VALUE_SCAN (R622): the bytes of `in[0]`, or a host range. -/
def execCheckValueScan (r : OpRef) (hv : HostView) (s : State) (hit : Option BankHit := none) :
    Host.Outcome State Fault Refusal :=
  s.runWrites r 0x0703 hit fun s =>
  let s := s.merge hv
  s.withOp r 0x0703 fun c =>
    if c.scansHost then
      let (a, n) := c.scanRange
      match s.readHost hv a n, s.opData hv c with
      | some b, some d => (s.opFinish hv c [c.rawOut d 0 (scanResult (c.op.par 0 1) b)] NumFlags.none).done
      | _, _ => (s.opFail c).done
    else match s.opData hv c with
      | none => (s.opFail c).done
      | some d =>
        let (b, fl) := c.raw0 d
        (s.opFinish hv c [c.rawOut d 0 (scanResult (c.op.par 0 1) b)] fl).done

/-- DIGEST (R561): SHA-512 or CRC-64 of `in[0]`. -/
def execDigest (r : OpRef) (hv : HostView) (s : State) (hit : Option BankHit := none) :
    Host.Outcome State Fault Refusal :=
  s.runWrites r 0x0704 hit fun s =>
  s.runOp r hv 0x0704 (fun _ c d =>
    let (b, fl) := c.raw0 d
    ([c.rawOut d 0 (if c.op.par 0 1 = 0 then sha512 b else natLE 8 (crc64 b))], fl))

end Sys2Proof.Machine
end

