-- ==== Sys2Proof/Machine/Placement.lean ====
section
/-!
DEFINITION. Placement: which clusters a job's logical clusters are mapped to and what is reserved for it (R88 to R93, R506,
R507, R566, R602, R606, R749).
-/
namespace Sys2Proof.Machine

/-! ### What is free -/

/-- Bytes of scratchpad of a cluster (R88). -/
def spadBytes : Nat := 33554432
/-- Bytes of accumulator memory of a cluster (R88). -/
def accBytes : Nat := 2097152

/-- R88: the residency of a plan. -/
def Plan.residency (p : Plan) : Nat :=
  match p.spadPerLc, p.accPerLc with
  | 0, 0 => p.lcs
  | 0, a => accBytes / a
  | b, 0 => spadBytes / b
  | b, a => Min.min (spadBytes / b) (accBytes / a)

/-- k of R89: how many of a job's logical clusters have their regions on each cluster that hosts it. -/
def Plan.regionsPer (p : Plan) (m : Nat) : Nat := Min.min (ceilDiv p.lcs (Max.max m 1)) p.residency

/-- The number of regions a placed job holds on a cluster (R89, R578). -/
def Job.held (j : Job) (p : Plan) (d c : Nat) : Nat :=
  match j.run with
  | none => 0
  | some r =>
    if r.placed then
      let cs := clustersOf r.lcs
      (if cs.contains (d, c) then p.regionsPer cs.length else 0) + (r.diverse.values.filter (fun x => x.die = d && x.cl = c)).length
    else 0

/-- The sum over the jobs other than one of something that a job holds. -/
def State.heldBy (s : State) (q n : Nat) (f : Job → Plan → Nat) : Nat :=
  s.jobs.foldl (fun a j => match s.planOf j with
    | some p => if j.q = q && j.s = n then a else a + f j p
    | none => a) 0

/-- Free scratchpad of a cluster for a job. -/
def State.freeSpad (s : State) (q n d c : Nat) : Nat := spadBytes - s.heldBy q n (fun j p => j.held p d c * p.spadPerLc)
/-- Free accumulator memory of a cluster for a job. -/
def State.freeAcc (s : State) (q n d c : Nat) : Nat := accBytes - s.heldBy q n (fun j p => j.held p d c * p.accPerLc)

/-- R90: the free brick cache of each slice of a die for a job. -/
def State.freeShare (s : State) (q n d : Nat) : Nat :=
  1048576 - 16384 - s.regs.coarseRes * 16384 - s.heldBy q n (fun j p => if j.shareDies.contains d then p.wsPerSlice else 0)

/-- The areas of the job pool of a die in use. -/
def State.poolUsed (s : State) (d : Nat) : List (Nat × Nat) :=
  (s.jobs.flatMap Job.poolAreas).filterMap (fun a => if a.die = d then some (a.base, a.size) else none)

/-- An area taken from a die's job pool beside those in use (log entry 6); an empty one takes nothing. -/
def State.poolArea (s : State) (used : KMap (List (Nat × Nat))) (d n : Nat) : Option (Area × KMap (List (Nat × Nat))) :=
  let size := alignUp n 64
  if size = 0 then some (⟨d, 0, 0⟩, used)
  else
    let u := (used.get d).getD (s.poolUsed d)
    (firstFit u s.regs.poolBase (s.regs.poolBase + s.regs.poolBytes) size).map (fun a =>
      (⟨d, a, size⟩, used.insert d ((a, size) :: u)))

/-- Where the areas of a die's job pool come to lie when they are moved together at its start, as (old first byte, new one, bytes). -/
def State.poolMoves (s : State) (d : Nat) : List (Nat × Nat × Nat) :=
  ((sortBy (fun (a b : Nat × Nat) => decide (a.1 < b.1)) (s.poolUsed d)).foldl (fun (acc : List (Nat × Nat × Nat) × Nat) a =>
    (acc.1 ++ [(a.1, acc.2, a.2)], acc.2 + a.2)) ([], s.regs.poolBase)).1

/-- An area after the moves of its die's pool. -/
def Area.moved (a : Area) (mv : List (Nat × Nat × Nat)) : Area :=
  match mv.find? (fun m => m.1 = a.base) with
  | some m => if a.size = 0 then a else { a with base := m.2.1 }
  | none => a

/-- The areas of every die's job pool moved together at its start (log entry 6): R89 asks for an amount of free bytes. -/
def State.compactPools (s : State) : State :=
  let mv (d : Nat) : List (Nat × Nat × Nat) := s.poolMoves d
  let t := (List.range s.n).foldl (fun t d => t.modDie d (fun x =>
    (mv d).foldl (fun x m => if m.1 = m.2.1 then x else x.moveHbm m.1 m.2.1 m.2.2) x)) s
  { t with jobs := t.jobs.map (fun j => j.modRun (fun r =>
      { r with work := r.work.moved (mv r.work.die), lcs := r.lcs.map (fun l => { l with ckpt := l.ckpt.moved (mv l.ckpt.die) }) })) }

/-! ### Candidates (R89, R566, R606) -/

/-- A group-0 job, or a DIVERSE stage: only eligible clusters of eligible dies (R566). -/
def Die.open_ (x : Die) (c mask : Nat) (safe : Bool) : Bool :=
  x.passDone && x.placeable c mask && (!safe || (x.safetyEligible && x.clusterEligible c))

/-- The active clusters in scope, by free scratchpad descending, then die and cluster index ascending. -/
def State.candidates (s : State) (j : Job) (p : Plan) : List (Nat × Nat) :=
  let ds := if p.scope = 0 then [j.owner] else s.healthyDies
  let cs := ds.flatMap (fun d => ((List.range 5).filter (fun c => (s.die d).open_ c p.engineMask (s.group j.q = 0))).map (fun c => (d, c)))
  sortBy (fun a b => decide (s.freeSpad j.q j.s b.1 b.2 < s.freeSpad j.q j.s a.1 a.2)) cs

/-- R506: some partition of a die holds a group-0 job whose placement waits, or whose DIVERSE stage waits for a cluster. -/
def State.holdsBack (s : State) (d : Nat) : Bool :=
  (s.die d).parts.any (fun x => x.wait0 && !(x.ready.getD 0 []).isEmpty) ||
    s.jobs.any (fun j => j.owner = d && j.st = .running && s.group j.q = 0 &&
      (match j.run with | some r => r.waitsDiverse | none => false))

/-- R507: a die serves a reservation of another job that is still READY. -/
def State.reservedElse (s : State) (q n d : Nat) : Bool :=
  (s.die d).reserved.any (fun k => k ≠ (q, n) && (match s.job k.1 k.2 with | some j => j.st = .ready | none => false))

/-! ### Placing a job (R89) -/

/-- Where a job is placed: the clusters of its logical clusters, its work area, its checkpoint areas, and whether the pools' areas are
first moved together. -/
structure Placing where
  host : List (Nat × Nat)
  work : Area
  ckpts : List Area
  compact : Bool
  deriving DecidableEq, Repr

/-- The areas of a placement: the work area on the home die, then a checkpoint area for each logical cluster; those that a
resumed job still holds on the right die are kept (R520). Those it holds on another die count as used while the room is looked for
(R89 does not say; DESIGN CHOICE, log entry 43). -/
def State.placeAreas (s : State) (j : Job) (p : Plan) (host : List (Nat × Nat)) : Option (Area × List Area) :=
  let old := j.run
  let keep (a : Option Area) (d : Nat) : Option Area := match a with | some a => if a.die = d && a.size ≠ 0 then some a else none | none => none
  let take (used : KMap (List (Nat × Nat))) (a : Option Area) (d n : Nat) : Option (Area × KMap (List (Nat × Nat))) :=
    match keep a d with
    | some a => some (a, used)
    | none => s.poolArea used d n
  match take [] (old.map (·.work)) j.owner p.hbmWork with
  | none => none
  | some (w, used) =>
    (host.zipIdx.foldl (fun (acc : Option (List Area × KMap (List (Nat × Nat)))) (h, l) =>
      match acc with
      | none => none
      | some (as, used) =>
        (take used (old.bind (fun r => (r.lcs[l]?).map (·.ckpt))) h.1 (p.spadPerLc + p.accPerLc)).map (fun (a, u) => (as ++ [a], u)))
      (some ([], used))).map (fun e => (w, e.1))

/-- One attempt of R89 with `m` clusters: a placement, or the need found unmet first (R530). -/
def State.placeOn (s : State) (j : Job) (p : Plan) (cand : List (Nat × Nat)) (m : Nat) : Nat ⊕ Placing :=
  let cs := cand.take m
  let k := p.regionsPer m
  if !cs.all (fun c => decide (k * p.spadPerLc ≤ s.freeSpad j.q j.s c.1 c.2)) then .inl 1
  else if !cs.all (fun c => decide (k * p.accPerLc ≤ s.freeAcc j.q j.s c.1 c.2)) then .inl 2
  else
    let host := tabulate p.lcs (fun l => cs.getD (l % m) (0, 0))
    let t := s.compactPools
    let fit := match s.placeAreas j p host with
      | some (w, as) => some (⟨host, w, as, false⟩ : Placing)
      | none => (t.placeAreas ((t.job j.q j.s).getD j) p host).map (fun (w, as) => ⟨host, w, as, true⟩)
    match fit with
    | none => .inl 3
    | some x =>
      if p.wsPerSlice ≠ 0 && !cs.all (fun c => decide (p.wsPerSlice ≤ s.freeShare j.q j.s c.1)) then .inl 6
      else .inr x

/-- R89: the attempts with m, m − 1, …, 1 clusters; the need of the last one. -/
def State.placeFrom (s : State) (j : Job) (p : Plan) (cand : List (Nat × Nat)) : Nat → Nat ⊕ Placing
  | 0 => .inl 1
  | m + 1 =>
    match s.placeOn j p cand (m + 1) with
    | .inr x => .inr x
    | .inl need => if m = 0 then .inl need else s.placeFrom j p cand m

/-- R89, R506, R507: the placement of a job, or the need it waits for. -/
def State.place (s : State) (j : Job) (p : Plan) : Nat ⊕ Placing :=
  let cand := s.candidates j p
  match s.placeFrom j p cand (Min.min p.lcs cand.length) with
  | .inl n => .inl n
  | .inr x =>
    let ds := (j.owner :: x.host.map Prod.fst).eraseDups
    if s.group j.q ≠ 0 && ds.any (fun d => x.host.any (fun h => h.1 = d) && s.holdsBack d) then .inl 4
    else if ds.any (s.reservedElse j.q j.s) then .inl 5
    else .inr x

/-! ### The regions of a placed job -/

/-- What a logical cluster's region holds before a placement: what it held when the job was suspended, else nothing. -/
def State.contents (s : State) (p : Plan) (j : Job) (l : Nat) : Memory × Memory :=
  match j.run.bind (fun r => r.lcs[l]?) with
  | none => ([], [])
  | some x =>
    if x.resident || x.ckpt.size = 0 then (x.spad, x.acc)
    else unpackRegion p.spadPerLc ((s.die x.ckpt.die).loadRegion x.ckpt.base x.ckpt.size)

/-- The logical clusters of a job as a placement gives them: the first `k` on each cluster are resident (R92). -/
def State.placedLcs (s : State) (p : Plan) (j : Job) (x : Placing) : List LogCluster :=
  let k := p.regionsPer (x.host.eraseDups).length
  x.host.zipIdx.map (fun (h, l) =>
    let rank := ((x.host.take l).filter (· = h)).length
    let (a, b) := s.contents p j l
    if rank < k then { die := h.1, cl := h.2, resident := true, spad := a, acc := b, ckpt := x.ckpts.getD l ⟨h.1, 0, 0⟩ }
    else { die := h.1, cl := h.2, resident := false, spad := [], acc := [], ckpt := x.ckpts.getD l ⟨h.1, 0, 0⟩ })

/-- The checkpoint areas of the logical clusters that are not resident hold their regions. -/
def State.storeSwapped (s : State) (p : Plan) (j : Job) (ls : List LogCluster) : State :=
  let cs := (List.range ls.length).map (s.contents p j)
  ls.zipIdx.foldl (fun t (x, l) =>
    if x.resident then t
    else
      let (a, b) := cs.getD l ([], [])
      t.modDie x.ckpt.die (fun d => d.storeRegion x.ckpt.base x.ckpt.size (packRegion p.spadPerLc a b))) s

/-- The work area of a placed job: as it stands where it is kept, moved where the home die has changed (R477),
else cleared. -/
def State.placeWork (s : State) (j : Job) (w : Area) : State :=
  match j.run with
  | some r =>
    let o := r.work
    if w.size = 0 then s
    else if r.carried.isSome then s.modDie w.die (fun d => d.storeRegion w.base w.size (r.carried.getD []))
    else if o = w then s
    else if o.size ≠ 0 then
      let m := (s.die o.die).loadRegion o.base o.size
      s.modDie w.die (fun d => d.storeRegion w.base w.size m)
    else s.modDie w.die (fun d => d.clearHbm w.base w.size)
  | none => if w.size = 0 then s else s.modDie w.die (fun d => d.clearHbm w.base w.size)

/-- The clusters of a placement: the test slices on the banks that it needs end, and a cluster that held no region has its banks On
(R353, R354, R356, R602). -/
def State.wakeClusters (s : State) (l : List (Nat × Nat)) : State :=
  l.eraseDups.foldl (fun s (d, c) =>
    let s := s.abortBanks d c
    if s.clusterHeld d c then s
    else (s.modDie d (fun x => x.wake c)).modCluster d c (fun k => { k with idleSince := s.now })) s

/-- Reservations of a job given back on every die (R507). -/
def State.unreserve (s : State) (q n : Nat) : State :=
  s.modDies (fun x => { x with reserved := x.reserved.filter (· ≠ (q, n)) })

/-! ### A DIVERSE stage (R38, R39, R749) -/

/-- The dies of R749 step 1, or the only healthy die (step 3). -/
def State.diverseDies (s : State) (d : Nat) : List Nat :=
  if s.healthyDies = [d] then [d]
  else
    let f := (d + ceilDiv s.n 2) % s.n
    let others := s.healthyDies.filter (fun x => x ≠ d && x ≠ f && (s.die x).safetyEligible)
    (if f ≠ d && s.healthy f && (s.die f).safetyEligible then [f] else []) ++
      sortBy (fun a b => decide (hops s.n d a < hops s.n d b)) others

/-- The need that keeps a DIVERSE instance of a job off a cluster; none where it fits. -/
def State.diverseNeed (s : State) (j : Job) (p : Plan) (d c : Nat) : Option Nat :=
  let mine := j.held p d c
  if s.freeSpad j.q j.s d c < (mine + 1) * p.spadPerLc then some 1
  else if s.freeAcc j.q j.s d c < (mine + 1) * p.accPerLc then some 2
  else if s.group j.q ≠ 0 && s.holdsBack d then some 4
  else if p.wsPerSlice ≠ 0 && s.freeShare j.q j.s d < p.wsPerSlice then some 6
  else none

/-- R749: the cluster of a DIVERSE stage, or the need of the last cluster tried. -/
def State.placeDiverse (s : State) (j : Job) (r : RunData) (p : Plan) : Nat ⊕ (Nat × Nat) :=
  match r.lcs[0]? with
  | none => .inl 1
  | some z =>
    let cs := (s.diverseDies z.die).flatMap (fun d =>
      ((List.range 5).filter (fun c => (s.die d).open_ c p.engineMask true &&
        (if c = 4 then 4 else c) ≠ (if z.cl = 4 then 4 else z.cl))).map (fun c => (d, c)))
    match cs.find? (fun c => (s.diverseNeed j p c.1 c.2).isNone) with
    | some c => .inr c
    | none => .inl ((cs.getLast?.bind (fun c => s.diverseNeed j p c.1 c.2)).getD 1)

end Sys2Proof.Machine
end

