-- ==== Sys2Proof/Machine/Stages.lean ====
section
/-!
DEFINITION. Stages of a running job (R57 to R65): eligibility, launch and the Bugle barrier (R27, R548 to R550), completion of
operations, stage boundaries with their layer digests and re-certification outcome (R60, R557, R578, R583, R584), swaps (R92).
-/
namespace Sys2Proof.Machine

/-! ### A stage of a job -/

/-- A stage of a job changed. -/
def State.modStage (s : State) (q n st : Nat) (f : StageRun → StageRun) : State :=
  s.modJob q n (fun j => j.modRun (fun r => { r with stages := r.stages.modify st f }))

/-- An instance that has not begun, on a logical cluster at its place. -/
def Inst.fresh (lc d c : Nat) (sent : Bool) : Inst :=
  { lc := lc, die := d, cl := c, ran := [], completed := [], launchSent := sent, launched := false, arrived := false,
    go := false, lists := [], gqu := 63 }

/-- The job with its run data and plan, while it runs. -/
def State.runJob (s : State) (q n : Nat) : Option (Job × RunData × Plan) :=
  match s.job q n with
  | none => none
  | some j =>
    match j.run, s.planOf j with
    | some r, some p => if j.st = .running && j.kind = 1 && r.placed then some (j, r, p) else none
    | _, _ => none

/-- The job has begun its stages and starts further ones (R520, R525). -/
def Job.proceeds (j : Job) : Bool :=
  j.phase = 1 && !j.suspending && !j.parking && j.cancelBy.isNone && (match j.run with | some r => r.checkFail.isNone | none => true)

/-- The stages of a loop's body. -/
def LoopRec.body (l : LoopRec) : List Nat := (List.range (l.last + 1)).filter (fun st => l.first ≤ st)

/-- A loop has completed its last iteration (R62, R65). -/
def RunData.loopDone (r : RunData) (p : Plan) (l : LoopRec) : Bool :=
  l.body.all (fun st => (r.stage st).st = .done && decide (p.iterations r.params st ≤ (r.stage st).iter + 1))

/-- The flags of a loop's body. -/
def Plan.bodyFlags (p : Plan) (l : LoopRec) : Nat :=
  l.body.foldl (fun m st => match p.stages[st]? with
    | some rec => if rec.doneFlag < 64 then setBit m rec.doneFlag else m
    | none => m) 0

/-- R64: the flags of a job as stage `st` sees them. -/
def visibleFlags (j : Job) (r : RunData) (p : Plan) (st : Nat) : Nat :=
  p.loops.foldl (fun m l => if l.body.contains st || r.loopDone p l then m else m - (m &&& p.bodyFlags l)) j.flags

/-- R57: the wait condition of a pending stage holds. -/
def stageReady (j : Job) (r : RunData) (p : Plan) (st : Nat) : Bool :=
  match p.stages[st]? with
  | some rec => (r.stage st).st = .pending && maskHolds rec.waitMask rec.waitMode (visibleFlags j r p st)
  | none => false

/-- The dies that host instances of a stage. -/
def StageRun.dies (sr : StageRun) : List Nat := (sr.insts.map (·.die)).eraseDups

/-! ### Eligibility and launch counts (R548, R549) -/

/-- A stage becomes eligible with its instances; on one die its launch count is set at once. Launch messages go to the other dies
(R27). -/
def State.makeEligible (s : State) (j : Job) (st : Nat) (insts : List Inst) : State :=
  let s := s.modStage j.q j.s st (fun sr =>
    let sr := { sr with st := .eligible, insts := insts, go := false, launchAt := none }
    if sr.dies.length ≤ 1 then { sr with launchAt := some (s.gtc j.owner + 16) } else sr)
  ((insts.map (·.die)).eraseDups).foldl (fun s d => s.sendCtrl j.owner d (.launch j.q j.s st)) s

/-- A pending stage that is ready becomes eligible; a DIVERSE stage needs a cluster first (R749, R578). -/
def State.startStage (s : State) (q n st : Nat) : State :=
  match s.runJob q n with
  | none => s
  | some (j, r, p) =>
    match p.stages[st]? with
    | none => s
    | some rec =>
      if !j.proceeds || !stageReady j r p st then s
      else
        let at_ (l : Nat) : Nat × Nat := ((r.lcs[l]?).map (fun x => (x.die, x.cl))).getD (j.owner, 0)
        let inst (l : Nat) : Inst := Inst.fresh l (at_ l).1 (at_ l).2 ((at_ l).1 = j.owner)
        if rec.placement = 0 then s.makeEligible j st (tabulate p.lcs inst)
        else if rec.placement = 1 then s.makeEligible j st [inst 0]
        else match s.placeDiverse j r p with
          | .inl need =>
            (s.modJob q n (fun j => j.modRun (fun r => { r with waitsDiverse := true }))).traceEv j.owner 0x06 q n need 0
          | .inr (d, c) =>
            let reads := p.bringsIn rec
            let z : LogCluster := { die := d, cl := c, resident := reads.isEmpty, spad := [], acc := [], ckpt := ⟨d, 0, 0⟩ }
            let s := s.modJob q n (fun j => j.modRun (fun r => { r with diverse := r.diverse.insert st z }))
            let s := if s.healthyDies = [d] then s.advise q n advDiversity else s
            (s.wakeClusters [(d, c)]).makeEligible j st [Inst.fresh 0 d c (d = j.owner)]

/-- Every stage that can become eligible does (R57). -/
def State.startEligible (s : State) (q n : Nat) : State :=
  match s.runJob q n with
  | none => s
  | some (_, r, _) =>
    (List.range r.stages.length).foldl (fun s st => s.startStage q n st)
      (s.modJob q n (fun j => j.modRun (fun r => { r with waitsDiverse := false })))

/-- R62: a loop whose body has completed an iteration starts the next: its stages wait anew, their flags are cleared. -/
def State.advanceLoop (s : State) (q n : Nat) (l : LoopRec) : State :=
  match s.runJob q n with
  | none => s
  | some (j, r, p) =>
    if l.body.all (fun st => (r.stage st).st = .done) && !r.loopDone p l && j.proceeds then
      let g := s.gtc j.owner
      let s := s.modJob q n (fun j => { j with flags := j.flags - (j.flags &&& p.bodyFlags l) })
      l.body.foldl (fun s st => s.modStage q n st (fun sr =>
        { sr with st := .pending, iter := sr.iter + 1, since := g, launchAt := none, go := false, insts := [] })) s
    else s

/-- A job goes on: loops advance, stages start, engines are served. -/
def State.proceed (s : State) (q n : Nat) : State :=
  match s.runJob q n with
  | none => s
  | some (_, _, p) => ((p.loops.foldl (fun s l => s.advanceLoop q n l) s).startEligible q n).issueAll

/-- Every running RUN of which a flag may have been set goes on. -/
def State.proceedAll (s : State) : State :=
  (s.jobs.filter (fun j => j.kind = 1 && j.st = .running)).foldl (fun s j => s.proceed j.q j.s) s

/-! ### Stage boundaries (R60) -/

/-- R557: the canonical bytes of a tensor as it stands at a boundary. -/
def State.digestBytes (s : State) (r : RunData) (p : Plan) (rec : StageRec) (st x : Nat) : List Byte :=
  match p.tensors[x]? with
  | none => []
  | some t =>
    let d := p.desc (rec.placement = 0) x
    let raw (d : TensorDesc) (bs : List Byte) : List Byte := (d.rawData bs.toArray).runFlags.1
    let inRegion (l : LogCluster) : List Byte :=
      let (a, b) := if l.resident then (l.spad, l.acc)
        else unpackRegion p.spadPerLc ((s.die l.ckpt.die).loadRegion l.ckpt.base l.ckpt.size)
      raw d (Memory.read (if t.sp = .scratchpad then a else b) t.offset d.footprint)
    let whole := p.desc false x
    match t.sp with
    | .hbmPlan => []
    | .hbmJob => raw whole ((s.die r.work.die).readHbm (r.work.base + t.offset) whole.footprint)
    | .host => raw whole (s.host.read (r.hostRange t).1 whole.footprint)
    | _ =>
      if rec.placement = 2 then (match r.diverse.get st with | some l => inRegion l | none => [])
      else ((if rec.placement = 0 then r.lcs else r.lcs.take 1).map inRegion).flatten

/-- R557: the CRC of a stage's written tensors, and the bytes digested. -/
def State.stageCrc (s : State) (r : RunData) (p : Plan) (rec : StageRec) (st : Nat) : Nat × Nat :=
  let xs := (rec.ops.flatMap OpRec.outputs).eraseDups
  xs.foldl (fun (acc : Nat × Nat) x =>
    let b := s.digestBytes r p rec st x
    (crc64From acc.1 b, acc.2 + b.length)) (0, 0)

/-- R583: some candidate of a compared tensor's records is certified. -/
def anyCertified (records : List (List Nat)) : Bool :=
  let code (w : List Nat) : Nat := w.getD 2 0 % 4
  let reason (w : List Nat) : Nat := w.getD 2 0 / 256 % 256
  let real := records.filter (fun w => reason w ≠ 1)
  ((real.map (fun w => w.getD 0 0)).eraseDups).any (fun c => (real.filter (fun w => w.getD 0 0 = c)).all (fun w => code w = 0))

/-- R584: a compared tensor held a disputed candidate and has no certified one. -/
def State.recertFails (s : State) (r : RunData) (p : Plan) (st : Nat) : Bool :=
  (p.compared st).any (fun x =>
    r.disputed.any (fun e => e.1 = x && !e.2.isEmpty) &&
    (match r.lcs[0]?, p.tensors[x]? with
     | some l, some t =>
       let d := p.desc false x
       let a := if l.resident then l.spad else (unpackRegion p.spadPerLc ((s.die l.ckpt.die).loadRegion l.ckpt.base l.ckpt.size)).1
       !anyCertified (chunks 8 (d.rawWords (Memory.read a t.offset d.footprint).toArray))
     | _, _ => false))

/-- The final stage has completed, in its last iteration (R61). -/
def finalDone (r : RunData) (p : Plan) : Bool :=
  (r.stage p.finalStage).st = .done &&
    (match p.loopOf p.finalStage with | some l => r.loopDone p l | none => true)

/-- R61, R325, R584: a job whose final stage has completed, or which has no certified candidate left, completes once its started stages are at
their boundaries. -/
def State.endRun (s : State) (q n : Nat) : State :=
  match s.runJob q n with
  | none => s
  | some (_, r, p) =>
    let busy := r.stages.any (fun sr => sr.st = .launched)
    match r.checkFail with
    | some st => if busy then s else s.endStage q n (outCheckFail st)
    | none =>
      if finalDone r p && !busy then s.endStage q n (if r.numeric then outNumeric r.numericStage else outDone)
      else s.proceed q n

/-- The boundary of a stage (R22, R60, R62, R90, R557, R578, R584). -/
def State.boundary (s : State) (q n st : Nat) : State :=
  match s.runJob q n with
  | none => s
  | some (j, r, p) =>
    match p.stages[st]? with
    | none => s
    | some rec =>
      let sr := r.stage st
      let crc := if j.layerDig then [some (s.stageCrc r p rec st)] else [none]
      let s := s.traceEv j.owner 0x08 q n st sr.iter
      let s := s.modStage q n st (fun sr =>
        { sr with st := .done, insts := [], launchAt := none, go := false,
                  crcs := sr.crcs ++ List.replicate (sr.iter - sr.crcs.length) none ++ crc })
      let s := s.modJob q n (fun j => (j.modRun (fun r =>
        { r with
          gquFail := []
          shares := r.shares ++ (match r.diverse.get st with | some l => [l.die] | none => [])
          diverse := r.diverse.erase st
          disputed := r.disputed.filter (fun e => !(p.compared st).contains e.1) })))
      let s := if rec.doneFlag < 64 then s.modJob q n (fun j => j.raise rec.doneFlag) else s
      let s := if s.recertFails r p st && r.checkFail.isNone then s.modJob q n (fun j => j.modRun (fun r =>
          { r with checkFail := some st, stages := r.stages.map (fun sr => if sr.st = .pending || sr.st = .eligible then { sr with st := .skipped } else sr) }))
        else s
      s.endRun q n

/-- A stage whose instances have all completed reaches its boundary, at once or after its copy back. -/
def State.settleStage (s : State) (q n st : Nat) : State :=
  match s.runJob q n with
  | none => s
  | some (_, r, p) =>
    match p.stages[st]? with
    | none => s
    | some rec =>
      let sr := r.stage st
      if sr.st = .launched && stageComplete sr rec && (p.copiesBack st).isEmpty then s.boundary q n st else s

/-! ### The commands -/

/-- RUN (R483): a dispatched RUN starts its plan's stages. -/
def execRun (q n : Nat) (s : State) : Host.Outcome State Fault Refusal :=
  match s.runJob q n with
  | none => s.idle
  | some (j, _, _) =>
    if j.phase = 0 then ((s.modJob q n (fun j => { j with phase := 1 })).proceed q n).done else s.idle

/-- STAGE_TIMEOUT (R58, R448, R525): a stage's wait condition has not held within its timeout, or the job's for a timeout of 0; GTC bindings due
by then count (R489), and a CANCEL decides before it. -/
def execStageTimeout (q n st : Nat) (s : State) : Host.Outcome State Fault Refusal :=
  match s.runJob q n with
  | none => s.idle
  | some (j, r, p) =>
    match p.stages[st]? with
    | none => s.idle
    | some rec =>
      let sr := r.stage st
      let limit := if rec.timeout = 0 then j.f 4 4 else rec.timeout
      if sr.st = .pending && !stageReady (j.dueBy (sr.since + limit)) r p st && decide (sr.since + limit ≤ s.gtc j.owner) && j.cancelBy.isNone then
        (s.complete q n (outTimeout st)).done
      else s.idle

/-- GTC_BINDING (R489): the flags of the GTC bindings whose count has come; stages that wait on them become eligible. -/
def execGtcBinding (q n : Nat) (s : State) : Host.Outcome State Fault Refusal :=
  match s.job q n with
  | none => s.idle
  | some j =>
    if j.accepted && j.st ≠ .finished then
      let g := s.gtc j.owner
      ((s.modJob q n (fun j =>
        j.binds.foldl (fun j b => if b.source = 1 && decide (b.value ≤ g) then j.raise b.flag else j) j)).proceed q n).done
    else s.idle

/-- SYNC_NOTIFY (R43, R489, R496): the notice of an object reaches die `d`, after what its primary holder sent there before: the flags it
names are set. One that was under way from a holder that is lost comes from its successor. -/
def execSyncNotify (o d : Nat) (s : State) : Host.Outcome State Fault Refusal :=
  let hitJob (j : Job) : Job :=
    if j.owner = d && j.accepted && j.st ≠ .finished then
      let hit (b : Bind) : Bool := b.source = 0 && b.object = o && b.watched && b.notice
      let j' := j.binds.foldl (fun j b => if hit b then j.raise b.flag else j) j
      { j' with binds := j'.binds.map (fun b => if hit b then { b with notice := false } else b) }
    else j
  let h := (s.holdersOf o).1
  let come (s : State) : Host.Outcome State Fault Refusal := (({ s with jobs := s.jobs.map hitJob } : State).proceedAll).done
  if s.ctrl.any (fun m => m.src = h && m.dst = d && m.body = .notify o) then s.arrive h d (.notify o) come
  else s.cross (s.overUmlin h d 0 o) come

/-- STAGE_LAUNCH_MESSAGE (R27, R43, R549): the owner's launch message arrives and has the instances of a stage placed on die `d`, which sends
ARRIVE where the stage has instances on other dies too. -/
def execStageLaunchMessage (d q n st : Nat) (s : State) : Host.Outcome State Fault Refusal :=
  match s.runJob q n with
  | none => s.idle
  | some (j, r, _) =>
    if s.healthy d && decide (st < r.stages.length) then
      s.arrive j.owner d (.launch q n st) (fun s => if (r.stage st).st ≠ .eligible then .next s else
        let s := s.modStage q n st (fun sr =>
          { sr with insts := sr.insts.map (fun (i : Inst) => if i.die = d then { i with launchSent := true } else i) })
        .next (if (r.stage st).dies.length ≤ 1 then s else s.sendCtrl d j.owner (.arrive q n st)))
    else s.idle

/-- BUGLE_ARRIVE (R43, R549): die `d` has staged its instances; when every die has arrived, the owner sets g and sends GO. -/
def execBugleArrive (d q n st : Nat) (s : State) : Host.Outcome State Fault Refusal :=
  match s.runJob q n with
  | none => s.idle
  | some (j, r, _) =>
    let sr := r.stage st
    if decide (st < r.stages.length) then
      s.arrive d j.owner (.arrive q n st) (fun s =>
        if sr.st ≠ .eligible || sr.dies.length ≤ 1 || !sr.insts.any (fun i => i.die = d && i.launchSent && !i.arrived) then .next s else
        let insts := sr.insts.map (fun (i : Inst) => if i.die = d && i.launchSent then { i with arrived := true } else i)
        let s := s.modStage q n st (fun sr => { sr with insts := insts })
        if insts.all (·.arrived) then
          let s := s.modStage q n st (fun sr => { sr with go := true, launchAt := some (s.gtc j.owner + s.regs.bugleLead) })
          .next (sr.dies.foldl (fun s d => s.sendCtrl j.owner d (.go q n st)) s)
        else .next s)
    else s.idle

/-- BUGLE_GO (R43, R549, R550): die `d` receives GO(g); one whose GTC has passed g logs BUGLE_LATE. -/
def execBugleGo (d q n st : Nat) (s : State) : Host.Outcome State Fault Refusal :=
  match s.runJob q n with
  | none => s.idle
  | some (j, r, _) =>
    let sr := r.stage st
    let g := sr.launchAt.getD 0
    if s.healthy d && decide (st < r.stages.length) then
      s.arrive j.owner d (.go q n st) (fun s => if !sr.go || !sr.insts.any (fun i => i.die = d && !i.go) then .next s else
        let s := s.modStage q n st (fun sr =>
          { sr with insts := sr.insts.map (fun (i : Inst) => if i.die = d then { i with go := true } else i) })
        .next (if g < s.gtc d then s.logErr d 0x0008 (unitCode 12 (partOf q)) g (some (q, n)) else s))
    else s.idle

/-- STAGE_LAUNCH (R22, R60, R548): the GTC of die `d` has reached the launch count: its instances launch with the job's mapping of slices to
GQUs, and their first operations are issued. A suspension holds back a stage that no die has launched, none in progress. -/
def execStageLaunch (d q n st : Nat) (s : State) : Host.Outcome State Fault Refusal :=
  match s.runJob q n with
  | none => s.idle
  | some (j, r, _) =>
    let sr := r.stage st
    let may (i : Inst) : Bool := i.die = d && !i.launched && i.launchSent && (decide (sr.dies.length ≤ 1) || i.go)
    match sr.launchAt with
    | none => s.idle
    | some g =>
      if ((sr.st = .eligible && j.proceeds) || (sr.st = .launched && j.phase = 1 && j.cancelBy.isNone)) && sr.insts.any may && decide (g ≤ s.gtc d) then
        let s := if sr.st = .eligible then s.traceEv j.owner 0x07 q n st sr.iter else s
        let f := r.gquFail.getD d (s.die d).spares.gquFail
        let s := s.modStage q n st (fun x =>
          { x with st := .launched, insts := x.insts.map (fun (i : Inst) => if may i then { i with launched := true, gqu := f } else i) })
        let s := s.modJob q n (fun j => j.modRun (fun r => { r with gquFail := r.gquFail.insert d f }))
        ((s.settleStage q n st).issueAll).done
      else s.idle

/-- DIVERSE_REGION_COPY (R578): the tensors that a DIVERSE stage reads arrive in its region, or those it has written
arrive back in logical cluster 0's. -/
def execDiverseRegionCopy (q n st : Nat) (back : Bool) (s : State) : Host.Outcome State Fault Refusal :=
  match s.runJob q n with
  | none => s.idle
  | some (_, r, p) =>
    match p.stages[st]?, r.diverse.get st, r.lcs[0]? with
    | some rec, some z, some l =>
      let sr := r.stage st
      let spad0 := if l.resident then l.spad else (unpackRegion p.spadPerLc ((s.die l.ckpt.die).loadRegion l.ckpt.base l.ckpt.size)).1
      let move (xs : List Nat) (a b : Memory) : Memory :=
        xs.foldl (fun m x => match p.tensors[x]? with
          | some t => m.write t.offset (Memory.read a t.offset (p.desc false x).footprint)
          | none => m) b
      let (a, b) := if back then (z, l) else (l, z)
      let way := [atBanks a.die a.cl 6, atBanks b.die b.cl 6] ++ s.overUmlin a.die b.die 1 st
      if !back then
        if (sr.st = .eligible || sr.st = .launched) && !z.resident then
          s.cross way fun s =>
          let m := move (p.bringsIn rec) spad0 z.spad
          .next ((s.modJob q n (fun j => j.modRun (fun r =>
            { r with diverse := r.diverse.update st (fun z => { z with resident := true, spad := m }) }))).issueAll)
        else s.idle
      else if sr.st = .launched && stageComplete sr rec && !(p.copiesBack st).isEmpty then
        s.cross way fun s =>
        let m := move (p.copiesBack st) z.spad spad0
        let s :=
          if l.resident then s.modJob q n (fun j => j.modRun (fun r => { r with lcs := r.lcs.modify 0 (fun l => { l with spad := m }) }))
          else
            let acc0 := (unpackRegion p.spadPerLc ((s.die l.ckpt.die).loadRegion l.ckpt.base l.ckpt.size)).2
            s.modDie l.ckpt.die (fun d => d.storeRegion l.ckpt.base l.ckpt.size (packRegion p.spadPerLc m acc0))
        (s.boundary q n st).done
      else s.idle
    | _, _, _ => s.idle

/-- The engine slot of a die that runs an operation is freed. -/
def Die.freeSlot (x : Die) (r : OpRef) : Die :=
  let l := x.slots.map (fun (e : Nat × Slot) => (e.1, if e.2.cur = some r then (⟨none, e.2.pre⟩ : Slot) else e.2))
  { x with slots := l.filter (fun e => e.2.cur.isSome || e.2.pre.isSome) }

/-- OPERATION_COMPLETE (R59, R60, R343, R448, R513, R514, R525): an operation whose effect is in completes; its engine takes the next one. Under a
CANCEL of an earlier GTC count no boundary follows from it. -/
def execOperationComplete (r : OpRef) (hv : HostView) (s : State) : Host.Outcome State Fault Refusal :=
  let s := s.merge hv
  match s.runJob r.q r.s with
  | none => s.idle
  | some (j, rd, p) =>
    let sr := rd.stage r.stage
    match sr.insts.find? (fun i => i.lc = r.lc), (p.stages[r.stage]?).bind (fun st => st.ops[r.idx]?) with
    | some i, some op =>
      let ran := sr.st = .launched && sr.iter = r.iter && i.ran.contains r.idx && !i.completed.contains r.idx
      let stored := op.opcode ≠ 0x0603 || op.par 7 1 ≠ 1 || s.storeSettled r.q r.s
      if ran && stored && (s.die i.die).tests.all (fun t => t.r ≠ r) then
        let s := s.modDie i.die (fun x => x.freeSlot r)
        let s := s.modCluster i.die i.cl (fun k => { k with idleSince := s.now })
        let s := s.modStage r.q r.s r.stage (fun sr =>
          { sr with insts := sr.insts.map (fun (i : Inst) => if i.lc = r.lc then { i with completed := i.completed ++ [r.idx] } else i) })
        let s := if j.cancelBy.isSome && decide (j.cancelAt < s.gtc j.owner) then s else s.settleStage r.q r.s r.stage
        ((s.settleCancel r.q r.s).issueAll).done
      else s.idle
    | _, _ => s.idle

/-- LOGICAL_CLUSTER_SWAP (R92): a cluster's next logical cluster takes the place of one whose instance is done, or has yet to run. -/
def execLogicalClusterSwap (d c q n lc : Nat) (s : State) : Host.Outcome State Fault Refusal :=
  match s.runJob q n with
  | none => s.idle
  | some (j, r, p) =>
    let leaves := (s.swapOut j r p lc).bind (fun o => (r.lcs[o]?).map (fun out => (out, o)))
    match leaves, r.lcs[lc]? with
    | some (out, o), some x =>
      let y := s.die x.ckpt.die
      if x.die ≠ d || x.cl ≠ c || y.unread x.ckpt.base x.ckpt.size then s.idle
      else if y.poisoned x.ckpt.base x.ckpt.size then (s.complete q n outMemory).done
      else
        s.cross ([atBanks d c 6] ++ atHbm x.ckpt.die x.ckpt.base x.ckpt.size 1 ++ atHbm out.ckpt.die out.ckpt.base out.ckpt.size 1) fun s =>
        let (a, b) := unpackRegion p.spadPerLc ((s.die x.ckpt.die).loadRegion x.ckpt.base x.ckpt.size)
        let s := s.modDie out.ckpt.die (fun y => y.storeRegion out.ckpt.base out.ckpt.size (packRegion p.spadPerLc out.spad out.acc))
        let s := s.modJob q n (fun j => j.modRun (fun r =>
          let ls := r.lcs.modify o (fun l => { l with resident := false, spad := [], acc := [] })
          { r with lcs := ls.modify lc (fun l => { l with resident := true, spad := a, acc := b }) }))
        .next ((s.traceEv d 0x09 q n c lc).issueAll)
    | _, _ => s.idle

/-- The lowest stage that has not completed (R530). -/
def RunData.nextStage (r : RunData) : Nat :=
  ((List.range r.stages.length).find? (fun st => (r.stage st).st ≠ .done)).getD 0

/-- CHECKPOINT_WRITTEN (R90, R418, R466, R520, R523, R681): no stage of a job that is being suspended or parked, or that leaves a
cluster, is in progress: its regions go to their checkpoint areas and its clusters are released. -/
def execCheckpointWritten (q n : Nat) (s : State) : Host.Outcome State Fault Refusal :=
  match s.runJob q n with
  | none => s.idle
  | some (j, r, p) =>
    if (j.suspending || j.parking) && r.stages.all (fun sr => sr.st ≠ .launched) then
      let way (l : LogCluster) : List ArbReq := if l.resident then atBanks l.die l.cl 6 :: atHbm l.ckpt.die l.ckpt.base l.ckpt.size 1 else []
      s.cross (r.lcs.flatMap way) fun s =>
      let s := ({ s with ctrl := s.ctrl.filter (fun m => !m.body.isOf q n) } : State).noteIdle q n
      let s := r.lcs.foldl (fun s l =>
        if l.resident then s.modDie l.ckpt.die (fun y => y.storeRegion l.ckpt.base l.ckpt.size (packRegion p.spadPerLc l.spad l.acc)) else s) s
      let s := s.modJob q n (fun j => (j.modRun (fun r =>
        { r with
          placed := false, diverse := [], shares := [], waitsDiverse := false
          lcs := r.lcs.map (fun l => { l with resident := false, spad := [], acc := [] })
          stages := r.stages.map (fun sr => if sr.st = .eligible then { sr with st := .pending, insts := [], go := false, launchAt := none } else sr) })))
      if j.suspending then
        let s := s.modJob q n (fun j => { j with st := .suspended, suspending := false, parking := false })
        let s := (s.controlsOf 7 1 q n).foldl (fun s k => s.setPhase k.1 k.2 2) s
        let s := (s.traceEv j.owner 0x0A q n r.nextStage 0).ledgerWrite j.owner (.suspend q n)
        ((s.settleQueue q).settleClusters).done
      else if (s.queue q).st = .withdrawing || (s.queue q).st = .withdrawn || j.moved then
        (((s.modJob q n (fun j => { j with st := .parked, parking := false })).settleQueue q).settleClusters).done
      else (((s.modJob q n (fun j => { j with parking := false })).enterReady q n).settleClusters).done
    else s.idle

end Sys2Proof.Machine
end

