-- ==== Sys2Proof/Machine/Selecting.lean ====
section
/-!
DEFINITION. Dispatch: the checks of R432 and R493, the pins (R78, R176, R226, R464), and the choice of the next job
(R503 to R507, R511).
-/
namespace Sys2Proof.Machine

/-! ### Checks (R432) -/

/-- A job parameter word that fails a dispatch check (R440; log entry 21 for its code). -/
def badWord (i : Nat) : CplFields := outErr 7 4 0x68 i fcRange 0

/-- R77, R464: the plan slot a RUN is dispatched against: the one it has pinned, else the READY slot with its tag. -/
def State.runPlan (s : State) (j : Job) : CplFields ⊕ (Nat × Plan) :=
  let i := j.pinPlan.getD (j.f 0x40 1)
  let x := s.planSlot i
  match x.plan with
  | none => .inl (outAbsent 0x40)
  | some p =>
    if j.pinPlan.isSome then .inr (i, p)
    else if x.st ≠ .ready then .inl (outAbsent 0x40)
    else if leNat (x.digest.take 8) ≠ j.f 0x48 8 then .inl (outAbsent 0x48)
    else .inr (i, p)

/-- R56: an external source bound to a stage flag of the plan. -/
def boundStageFlag (j : Job) (p : Plan) : Option CplFields :=
  (j.binds.findIdx? (fun b => bit p.stageFlags b.flag)).map (fun i => outErr 7 2 0x20 i fcConflict 0)

/-- R75: a buffer table entry. -/
def parseBuf (b : List Byte) : Buf := { addr := field b 0 8, size := 64 * field b 8 4, dir := field b 0xC 1 }

/-- R15, R75: an entry's own fields. -/
def bufFault (b : List Byte) : Option Nat :=
  if 2 ^ 57 ≤ field b 0 8 then some fcRange
  else if field b 0 8 % 64 ≠ 0 then some fcAlign
  else if 2 < field b 0xC 1 ∨ field b 0xD 3 ≠ 0 then some fcReserved
  else none

/-- R75: a HOST tensor extends beyond buffer `i`, or is written through it although it is IN. -/
def Plan.bufConflict (p : Plan) (i : Nat) (b : Buf) : Bool :=
  let written := p.ops.flatMap OpRec.outputs
  p.tensors.zipIdx.any (fun (t, x) =>
    t.sp = .host && t.offset / 2 ^ 56 = i &&
      (decide (b.size < t.offset % 2 ^ 56 + canonBytes t.fmt t.scaled (elemCount t.shape)) || (written.contains x && b.dir = 0)))

/-- R75, R445: the buffer table read and checked, in ascending entry order. -/
def State.readBufs (s : State) (hv : HostView) (j : Job) (p : Plan) : CplFields ⊕ List Buf :=
  let n := j.f 0x42 1
  let rows := tabulate n (fun i => s.readHost hv (j.f 0x60 8 + 16 * i) 16)
  match rows.findIdx? (·.isNone) with
  | some i => .inl (outErr 9 3 0x60 i 0 0)
  | none =>
    let bs := rows.map (fun r => r.getD [])
    let bufs := bs.map parseBuf
    let fault (i : Nat) : Option Nat :=
      match (bs[i]?).bind bufFault with
      | some c => some c
      | none => if p.bufConflict i (bufs.getD i ⟨0, 0, 0⟩) then some fcConflict else none
    match (List.range 16).findSome? (fun i => (fault i).map (fun c => (i, c))) with
    | some (i, c) => .inl (outErr 7 3 0x60 i c 0)
    | none => .inr bufs

/-- R427, R445: the job parameter words. -/
def State.readParams (s : State) (hv : HostView) (j : Job) : CplFields ⊕ List Nat :=
  let n := j.f 0x43 1
  let rows := tabulate n (fun i => s.readHost hv (j.f 0x68 8 + 8 * i) 8)
  match rows.findIdx? (·.isNone) with
  | some i => .inl (outErr 9 4 0x68 i 0 0)
  | none => .inr (tabulate 32 (fun i => leNat ((rows.getD i none).getD [])))

/-- A word holds a finite FP32 value in bits [31:0] (R254). -/
def finiteWord (w : Nat) : Bool := w % 2 ^ 32 / 2 ^ 23 % 256 ≠ 255

/-- R254, R293, R344, R623: the job parameter words at which an operation fails. -/
def Plan.opBadWords (p : Plan) (r : Nat → Nat) (bufs : List Buf) (warmCount : Nat) (st : StageRec) (o : OpRec) : List Nat :=
  let shape (x : Nat) : List Nat := ((p.tensors[x]?).map (fun t => t.seen p.lcs (st.placement = 0))).getD []
  if 0x0402 ≤ o.opcode ∧ o.opcode ≤ 0x0404 then
    let w := o.par 0xB 1
    if w < 32 ∧ !finiteWord (r w) then [w] else []
  else if o.opcode = 0x0500 then
    let w := o.par 2 1
    let m := if bit (o.par 1 1) 1 then p.lcs else 1
    if w < 32 ∧ !bit (o.par 1 1) 2 ∧ 0xFFFFFFFE < r w % 2 ^ 32 + m * (shape (o.inp 0)).getLastD 1 - 1 then [w] else []
  else if o.opcode = 0x0603 then
    let w := o.par 0x14 1
    if w < 32 ∧ warmCount < r w % 2 ^ 32 + (shape (o.inp 0)).headD 0 then [w] else []
  else if o.opcode = 0x0703 ∧ o.par 1 1 = 1 then
    let a := r (o.par 2 1)
    let n := r (o.par 3 1)
    if n = 0 ∨ !bufs.any (fun b => b.dir ≠ 1 && decide (b.addr ≤ a ∧ a + n ≤ b.addr + b.size)) then [o.par 2 1] else []
  else []

/-- R432 step 4: the lowest job parameter word that fails R65, R254, R293, R344 or R623. -/
def Plan.badParam (p : Plan) (params : List Nat) (bufs : List Buf) (warmCount : Nat) : Option Nat :=
  let r (i : Nat) : Nat := params.getD i 0
  let l := p.loops.flatMap (fun l => if l.countSrc = 1 ∧ (r l.paramIndex = 0 ∨ l.count < r l.paramIndex) then [l.paramIndex] else [])
  let o := p.stages.flatMap (fun st => st.ops.flatMap (p.opBadWords r bufs warmCount st))
  (List.range 32).find? (l ++ o).contains

/-- A body slot. -/
def State.body (s : State) (b : Nat) : BodySlot := s.bodies.getD b { version := 0, record := [], loading := none }

/-- The model of a slot that a job uses: the one it has pinned, else the slot's (R464). -/
def State.bodyFor (s : State) (j : Job) (b : Nat) : Option BodyPin :=
  match j.pinBodies.find? (fun x => x.slot = b) with
  | some x => some x
  | none => let x := s.body b; if x.record.isEmpty then none else some ⟨b, x.version, x.record⟩

/-- R176: a BODY load is under way against a slot that a RUN names and has not pinned. -/
def State.bodyBusy (s : State) (j : Job) (b : Nat) : Bool :=
  j.pinBodies.all (fun x => x.slot ≠ b) &&
    s.jobs.any (fun k => k.st = .running && k.kind = 4 && k.f 0x40 1 = 1 && k.f 0x42 2 = b)

/-- Where R177 names a fault of a body slot: the job parameter word that gave it, else the plan-slot field. -/
def bodyFault (status code : Nat) (o : OpRec) : CplFields :=
  match o.bodyWord with
  | some w => outErr status 4 0x68 w code 0
  | none => outErr status 1 0x40 0xFFFFFFFF code 0

/-- R177: the fault of the body slots, EMPTY first, then the joint counts, then the primitive counts (R198). -/
def State.bodiesFault (s : State) (j : Job) (p : Plan) (params : List Nat) : Option CplFields :=
  let ops := p.ops.filter OpRec.isFletcher
  let dims (x : Nat) : List Nat := ((p.tensors[x]?).map (·.shape)).getD []
  let record (o : OpRec) : List Byte := ((s.bodyFor j (o.bodySlot params)).map (·.record)).getD []
  match ops.find? (fun o => (s.bodyFor j (o.bodySlot params)).isNone) with
  | some o => some (bodyFault 8 8 o)
  | none =>
    match ops.find? (fun o => field (record o) 0 1 + 1 ≠ (dims (o.inp 0)).getLastD 0) with
    | some o => some (bodyFault 7 fcConflict o)
    | none =>
      (ops.find? (fun o => !(o.opcode = 0x0301 && o.inp 1 ≠ 0xFFFF) && field (record o) 1 1 ≠ (dims (o.out 0)).getD 2 0)).map
        (bodyFault 7 fcConflict)

/-- The versions of a slot that RUNs pin, those without a job slot among them (R226, R464, R472). -/
def State.pinnedVersions (s : State) (w : Nat) : List Nat :=
  (s.jobs.map (·.pinWorld) ++ s.unslotted.map (·.pinWorld)).filterMap (fun p => p.bind (fun e => if e.1 = w then some e.2 else none))

/-- The `keep` of a world header. -/
def World.keep (x : World) : Nat := field x.header 1 1

/-- Every healthy die has committed the update (R224, R239 step 5). -/
def State.committedOn (s : State) (u : WorldUpdate) : Bool :=
  !u.dies.isEmpty && s.healthyDies.all (fun d => match u.dies.get d with | some k => decide (4 ≤ k) | none => true)

/-- R225, R227: the versions that a world slot retains; its set changes at the commit of an update, when the last healthy die has
committed it: the new version takes the place of the oldest, before it is visible. -/
def State.retainedOf (s : State) (w : Nat) : List Nat :=
  let x := s.world w
  let kept := if (match x.update with | some u => s.committedOn u | none => false) then x.retained.take (x.keep - 1) else x.retained
  (x.visible :: kept ++ s.pinnedVersions w).eraseDups

/-- R226: the world slot and version of a RUN. -/
def State.worldFault (s : State) (j : Job) (p : Plan) : Option CplFields :=
  let w := j.f 0x41 1
  if !p.needsWorld || j.pinWorld.isSome then none
  else if w = 0xFF then some (outAbsent 0x41)
  else if (s.world w).st = .ready && (s.retainedOf w).contains (j.f 0x58 8) then none
  else some (outAbsent 0x58)

/-- R493: the check of a SIGNAL. -/
def State.signalFault (s : State) (j : Job) : Option CplFields :=
  let op := j.f 0x40 1
  match s.syncs.get (j.f 0x42 2) with
  | none => if op = 2 then (if j.f 0x50 8 % 4 ≠ 0 && j.f 0x48 8 ≠ 0 then some (outField 0x48 fcRange) else none) else some (outField 0x40 fcConflict)
  | some o =>
    if op = 0 && o.typ ≠ 0 then some (outField 0x40 fcConflict)
    else if op = 1 && o.typ ≠ 1 then some (outField 0x40 fcConflict)
    else if op = 2 && j.f 0x50 8 % 4 ≠ 0 && j.f 0x48 8 ≠ 0 then some (outField 0x48 fcRange)
    else none

/-! ### Dispatch of a RUN -/

/-- What the checks of a RUN give: its outcome, or its plan with its slot, buffers and parameter words; none while a body
slot it names is being loaded (R176). -/
def State.checkRun (s : State) (hv : HostView) (j : Job) : Option (CplFields ⊕ (Nat × Plan × List Buf × List Nat)) :=
  match s.runPlan j with
  | .inl o => some (.inl o)
  | .inr (i, p) =>
    match boundStageFlag j p with
    | some o => some (.inl o)
    | none =>
      match s.readBufs hv j p, s.readParams hv j with
      | .inl o, _ => some (.inl o)
      | .inr _, .inl o => some (.inl o)
      | .inr bufs, .inr params =>
        match p.badParam params bufs s.regs.warmCount with
        | some w => some (.inl (badWord w))
        | none =>
          if (p.ops.filter OpRec.isFletcher).any (fun o => s.bodyBusy j (o.bodySlot params)) then none
          else match s.bodiesFault j p params, s.worldFault j p with
            | some o, _ => some (.inl o)
            | none, some o => some (.inl o)
            | none, none => some (.inr (i, p, bufs, params))

/-- The data of a RUN at its first dispatch. -/
def RunData.start (i : Nat) (p : Plan) (bufs : List Buf) (params : List Nat) (lcs : List LogCluster) (work : Area) (g : Nat) : RunData :=
  { slot := i, params := params, bufs := bufs, lcs := lcs, work := work, carried := none, diverse := [], shares := [],
    stages := List.replicate p.stages.length { StageRun.fresh with since := g }, placed := true, gquFail := [], disputed := [],
    primary := [], forced := [], inputs := [], chans := [], numeric := false, numericStage := 0, waitsDiverse := false, checkFail := none }

/-- R176, R226, R464: the pins of a RUN at dispatch, those recorded kept. -/
def State.takePins (s : State) (j : Job) (i : Nat) (p : Plan) (params : List Nat) : Job :=
  let slots := ((p.ops.filter OpRec.isFletcher).map (fun o => o.bodySlot params)).eraseDups
  { j with
    pinPlan := some i
    pinBodies := j.pinBodies ++ (slots.filter (fun b => j.pinBodies.all (fun x => x.slot ≠ b))).filterMap (s.bodyFor j)
    pinWorld := if p.needsWorld then some (j.pinWorld.getD (j.f 0x41 1, j.f 0x58 8)) else j.pinWorld }

/-- What an attempt comes to (R504). -/
inductive Attempt where
  | dispatched | completed | waits
  deriving DecidableEq, Repr

/-- A job leaves its ready list and runs: the number of its dispatch, the trace, and the measurements of an ATTEST (R673). -/
def State.noteDispatch (s : State) (j : Job) (unit arg : Nat) : State :=
  let s := s.unlist j.q j.s
  let s : State := { s with dispatchCount := s.dispatchCount + 1 }
  let quote := if j.kind = 10 then s.quoteBody j.owner (slice j.desc 0x40 32) else []
  (s.modJob j.q j.s (fun x => { x with st := .running, dispatched := true, phase := 0, order := s.dispatchCount, quote := quote })).traceEv
    j.owner 0x05 j.q j.s unit arg

/-- R89, R483, R523: a placed RUN is dispatched, first or again after RESUME. -/
def State.dispatchRun (s : State) (j : Job) (i : Nat) (p : Plan) (bufs : List Buf) (params : List Nat) (x : Placing) : State :=
  let g := s.gtc j.owner
  let s := if x.compact then s.compactPools else s
  let j := (s.job j.q j.s).getD j
  let ls := s.placedLcs p j x
  let cs := (x.host.filter (fun h => h.1 = j.owner)).map Prod.snd
  let mask := (List.range 5).foldl (fun m c => if cs.contains c then setBit m c else m) 0
  let resumed := j.run.isSome
  let s := ((s.storeSwapped p j ls).placeWork j x.work).wakeClusters x.host
  let s := s.modJob j.q j.s (fun k =>
    let k := s.takePins k i p params
    { k with
      config := configWord k.replay p.orderSensitive s.n s.ident.stepping
      run := some (match k.run with
        | some r => { r with lcs := ls, work := x.work, carried := none, placed := true
                             stages := r.stages.map (fun sr => if sr.st = .pending then { sr with since := g } else sr) }
        | none => RunData.start i p bufs params ls x.work g) })
  let s := s.noteDispatch j mask p.lcs
  if resumed then s.traceEv j.owner 0x0B j.q j.s 0 0 else s

/-- R554: the configuration word of a RUN whose plan is found takes the plan's ORDER_SENSITIVE, also where a later check of R432 fails. -/
def State.notePlan (s : State) (j : Job) : State :=
  match s.runPlan j with
  | .inl _ => s
  | .inr (_, p) => s.modJob j.q j.s (fun k => { k with config := configWord k.replay p.orderSensitive s.n s.ident.stepping })

/-- R504: one attempt to dispatch a job; a resumed one reads its checkpoints (R366). -/
def State.attempt (s : State) (hv : HostView) (q n : Nat) : Attempt × State :=
  match s.job q n with
  | none => (.completed, s)
  | some j =>
    let ends (o : CplFields) : Attempt × State := (.completed, (s.unreserve q n).complete q n o)
    let placed (i : Nat) (p : Plan) (bufs : List Buf) (params : List Nat) : Attempt × State :=
      let s' := s.unreserve q n
      match s.place j p with
      | .inl need => (.waits, s'.traceEv j.owner 0x06 q n need 0)
      | .inr x => (.dispatched, s'.dispatchRun j i p bufs params x)
    if !j.dispatched && s.expired j then ends outExpired
    else if j.kind = 6 then
      match s.signalFault j with
      | some o => ends o
      | none => (.dispatched, s.noteDispatch j 0 0)
    else if j.kind ≠ 1 then (.dispatched, s.noteDispatch j 0 0)
    else
      match j.run, s.planOf j with
      | some r, some p =>
        let cks := (r.lcs.filter (fun l => !l.resident && l.ckpt.size ≠ 0)).map (·.ckpt)
        if cks.any (fun a => (s.die a.die).unread a.base a.size) then (.waits, s)
        else if cks.any (fun a => (s.die a.die).poisoned a.base a.size) then ends outMemory
        else placed r.slot p r.bufs r.params
      | _, _ =>
        match s.checkRun hv j with
        | none => (.waits, s)
        | some (.inl o) => (.completed, ((s.notePlan j).unreserve q n).complete q n o)
        | some (.inr (i, p, bufs, params)) => placed i p bufs params

/-! ### The choice (R504, R505, R511) -/

/-- The job at the head of a group's ready list of a partition. -/
def Partition.head (x : Partition) (g : Nat) : Option (Nat × Nat) := (x.ready.getD g []).head?

/-- R504: the group after `g`. -/
def nextGroup (g : Nat) : Nat := 1 + g % 15

/-- R511: a dispatch noted; the interval counts while the partition has held a READY job since the last. -/
def State.noteGap (s : State) (d p : Nat) : State :=
  s.modPart d p (fun x =>
    { x with
      gapMax := match x.lastDispatch with | some t => Max.max x.gapMax (s.now - t) | none => x.gapMax
      gapSeen := match x.lastDispatch with | some t => (s.now, s.now - t) | none => x.gapSeen
      lastDispatch := if x.ready.any (fun l => !l.isEmpty) then some s.now else none })

/-- R504, R505: the rounds over groups 1 to 15. -/
def State.rounds (hv : HostView) (d p : Nat) : Nat → State → State
  | 0, s => s
  | k + 1, s =>
    let x := s.part d p
    let g := x.cur
    match x.head g with
    | none => State.rounds hv d p k (s.modPart d p (fun x => { x with deficit := x.deficit.set g 0, cur := nextGroup g }))
    | some (q, n) =>
      let w := s.regs.weight.getD g 1
      let df := if x.deficit.getD g 0 = 0 then w else Min.min (x.deficit.getD g 0) w
      match s.attempt hv q n with
      | (.waits, t) =>
        State.rounds hv d p k (t.modPart d p (fun x => { x with deficit := x.deficit.set g df, cur := nextGroup g }))
      | (.dispatched, t) =>
        (t.modPart d p (fun x =>
          { x with deficit := x.deficit.set g (df - 1), cur := if df - 1 = 0 then nextGroup g else g })).noteGap d p
      | (.completed, t) =>
        t.modPart d p (fun x => { x with deficit := x.deficit.set g df, cur := g })

/-- NEXT_DISPATCH (R432, R483, R504 to R507, R749): a partition decides, at most once in a CCLK period and once its die has completed its part of the initial test
pass (R606); stages of its running jobs that wait for a cluster are tried again. -/
def execNextDispatch (d p : Nat) (hv : HostView) (s : State) : Host.Outcome State Fault Refusal :=
  if s.healthy d && (s.die d).passDone && decide (p < 4) && !s.pins.fatal && (s.part d p).differs.isNone && (s.part d p).decided ≠ some s.now then
    let s := (s.merge hv).modPart d p (fun x => { x with decided := some s.now })
    let s := (s.jobs.filter (fun j => j.owner = d && partOf j.q = p && (match j.run with | some r => r.waitsDiverse | none => false))).foldl
      (fun s j => s.proceed j.q j.s) s
    match (s.part d p).head 0 with
    | some (q, n) =>
      match s.attempt hv q n with
      | (.waits, t) => (t.modPart d p (fun x => { x with wait0 := true })).done
      | (.dispatched, t) => ((t.modPart d p (fun x => { x with wait0 := false })).noteGap d p).done
      | (.completed, t) => (t.modPart d p (fun x => { x with wait0 := false })).done
    | none => (State.rounds hv d p 15 (s.modPart d p (fun x => { x with wait0 := false }))).done
  else s.idle

/-- R507: the dies that a placement of a job would touch as the dies stand: none where its placement waits (R89). -/
def State.touches (s : State) (j : Job) : List Nat :=
  let dies (p : Plan) : List Nat :=
    let cand := s.candidates j p
    match s.placeFrom j p cand (Min.min p.lcs cand.length) with
    | .inl _ => []
    | .inr x => (j.owner :: x.host.map Prod.fst).eraseDups
  match j.run, s.planOf j with
  | some _, some p => dies p
  | _, _ => match s.runPlan j with
    | .inl _ => []
    | .inr (_, p) => dies p

/-- R504, R507: a job asks for reservations while it is at the head of its group's READY jobs. -/
def State.asks (s : State) (j : Job) : Bool :=
  j.st = .ready && j.kind = 1 && ((s.part j.owner (partOf j.q)).head (s.group j.q) == some (j.q, j.s))

/-- RESERVATION_REQUEST (R507): a die serves one request at a time: it grants that of a placement that touches it while it
serves no other, else it refuses it, and the job gives back what it has reserved. -/
def execReservationRequest (d q n : Nat) (s : State) : Host.Outcome State Fault Refusal :=
  match s.job q n with
  | none => s.idle
  | some j =>
    if s.healthy d && s.asks j then
      if s.reservedElse q n d || !(s.touches j).contains d then .next (s.unreserve q n)
      else .next (s.modDie d (fun x =>
        { x with reserved := x.reserved.filter (fun k => match s.job k.1 k.2 with | some i => i.st = .ready && k ≠ (q, n) | none => false) ++ [(q, n)] }))
    else s.idle

end Sys2Proof.Machine
end

