-- ==== Sys2Proof/Machine/PlanImage.lean ====
section
/-!
DEFINITION. The checks of LOAD_PLAN on an image's structure, signature fields and stage graph (R48 to R54, R83, R84,
R747).
-/
namespace Sys2Proof.Machine

/-- A refusal of LOAD_PLAN: the fields of its report (R85). -/
structure LoadFault where
  code : Nat
  index : Nat
  off : Nat
  required : Nat
  available : Nat
  die : Nat
  deriving DecidableEq, Repr

/-- R747: no index. -/
def noIndex : Nat := 0xFFFFFFFF
/-- R747: no image offset. -/
def noOffset : Nat := 0xFFFFFFFFFFFFFFFF

/-- A refusal that names a place of the image. -/
def LoadFault.at_ (code index off : Nat) : LoadFault :=
  { code := code, index := index, off := off, required := 0, available := 0, die := 0xFFFF }

/-- A check: whether it fails, the index and the image offset that the report names then. -/
abbrev Flaw := Bool × Nat × Nat

/-- A check of a place of the image. -/
def flaw (bad : Prop) [Decidable bad] (index off : Nat) : Flaw := (decide bad, index, off)

/-- The check that a report names where several of one code fail: that of the lowest image offset, and of those the first
listed (DESIGN CHOICE: R747 does not say which; log entry 23). -/
def lowestFlaw : List Flaw → Option (Nat × Nat)
  | [] => none
  | f :: rest =>
    match f.1, lowestFlaw rest with
    | true, some g => some (if g.2 < f.2.2 then g else f.2)
    | true, none => some f.2
    | false, r => r

/-- A check that fails refuses with its code. -/
def firstFlaw (code : Nat) (l : List Flaw) : Option LoadFault := (lowestFlaw l).map (fun f => LoadFault.at_ code f.1 f.2)

/-- The bytes [a, b) of the image are reserved: each is a check of its own. -/
def reservedBytes (img : List Byte) (a b : Nat) : List Flaw :=
  (List.range (b - a)).map (fun i => flaw (field img (a + i) 1 ≠ 0) noIndex (a + i))

/-! ### IMAGE: the header (R48) -/

/-- The header offsets of the section pairs, in header order. -/
def sectionFields : List Nat := [0x20, 0x30, 0x40, 0x50, 0x60, 0x70]

/-- R48: whether two sections hold a byte in common. -/
def sectionsMeet (a b : Nat × Nat) : Bool := decide (0 < a.2 ∧ 0 < b.2 ∧ a.1 < b.1 + b.2 ∧ b.1 < a.1 + a.2)

/-- R48: the rule of a section's place: a multiple of 64, at least 256, inside the image, apart from every section that a
later field names. -/
def badPlace (img : List Byte) (f : Nat) : Bool :=
  let (o, n) := imgSection img f
  decide (o % 64 ≠ 0 ∨ o < 256 ∨ img.length < o + n) ||
    (sectionFields.filter (fun g => f < g)).any (fun g => sectionsMeet (o, n) (imgSection img g))

/-- R48: the rule of a section's size; that of the signature section is checked under SIGNATURE. -/
def badSize (img : List Byte) (f : Nat) : Bool :=
  let n := (imgSection img f).2
  if f = 0x20 then decide (n ≠ 64)
  else if f = 0x30 then decide (n < 32 * field img 0x15 1 + 16 * field img 0x16 1)
  else if f = 0x40 then decide (n % 32 ≠ 0 ∨ 65535 * 32 < n)
  else if f = 0x60 then decide (n % 32 ≠ 0)
  else false

/-- R48: the signature section, when present, is the last. -/
def signatureNotLast (img : List Byte) : Bool :=
  let (o, n) := imgSection img 0x70
  decide (0 < n) && sectionFields.any (fun f => let (a, b) := imgSection img f; decide (0 < b ∧ o + n < a + b))

/-- The header's checks in ascending order of offset. -/
def headerFlaws (img : List Byte) : List Flaw :=
  [flaw (field img 0 4 ≠ 0x4E414C50) noIndex 0, flaw (field img 4 2 ≠ 1) noIndex 4, flaw (field img 6 2 ≠ 256) noIndex 6,
   flaw (field img 8 8 ≠ img.length ∨ img.length % 64 ≠ 0 ∨ 268435456 < img.length) noIndex 8,
   flaw (16 ≤ field img 0x10 4) noIndex 0x10, flaw (6 < field img 0x14 1) noIndex 0x14,
   flaw (field img 0x15 1 < 1 ∨ 64 < field img 0x15 1) noIndex 0x15, flaw (16 < field img 0x16 1) noIndex 0x16] ++
  reservedBytes img 0x17 0x18 ++
  sectionFields.flatMap (fun f => [flaw (badPlace img f = true) noIndex f, flaw (badSize img f = true) noIndex (f + 8)]) ++
  [flaw (signatureNotLast img = true) noIndex 0x70] ++ reservedBytes img 0xE0 0x100

/-! ### IMAGE: the manifest and the reserved fields of the records (R50 to R55, R68, R741) -/

/-- The bytes of all weight references. -/
def wrefBytes (img : List Byte) : Nat :=
  let (o, n) := imgSection img 0x60
  (tabulate (n / 32) (fun i => field img (o + 32 * i + 8) 8)).foldl (· + ·) 0

/-- R51: the manifest's checks. -/
def manifestFlaws (img : List Byte) : List Flaw :=
  let m := (imgSection img 0x20).1
  let f (o n : Nat) : Nat := field img (m + o) n
  [flaw (f 0 8 % 4096 ≠ 0) noIndex m, flaw (f 8 8 % 2048 ≠ 0) noIndex (m + 8), flaw (f 0x10 8 % 1024 ≠ 0) noIndex (m + 0x10),
   flaw (f 0x18 8 % 4096 ≠ 0 ∨ f 0x18 8 < img.length + wrefBytes img) noIndex (m + 0x18),
   flaw (f 0x20 8 % 4096 ≠ 0) noIndex (m + 0x20), flaw (256 ≤ f 0x28 2) noIndex (m + 0x28), flaw (1 < f 0x2A 1) noIndex (m + 0x2A)] ++
  reservedBytes img (m + 0x2B) (m + 0x40)

/-- The stage and loop records, and the operation records that lie in the section: reserved fields and encodings. -/
def graphFlaws (img : List Byte) : List Flaw :=
  let (g, n) := imgSection img 0x30
  let ns := field img 0x15 1
  let stage (i : Nat) : List Flaw :=
    let a := g + 32 * i
    [flaw (1 < field img (a + 8) 1) noIndex (a + 8), flaw (2 < field img (a + 0xA) 1) noIndex (a + 0xA)] ++
      reservedBytes img (a + 0xB) (a + 0xC) ++ reservedBytes img (a + 0xE) (a + 0x10) ++ reservedBytes img (a + 0x1C) (a + 0x20)
  let loop (i : Nat) : List Flaw :=
    let a := g + 32 * ns + 16 * i
    flaw (1 < field img (a + 2) 1) noIndex (a + 2) :: reservedBytes img (a + 8) (a + 0x10)
  let ops (i : Nat) : List Flaw :=
    let o := field img (g + 32 * i + 0x10) 8
    (List.range (field img (g + 32 * i + 0xC) 2)).flatMap (fun k =>
      let a := g + o + 32 * k
      if n < o + 32 * k + 32 then []
      else flaw (1 < field img (a + 0x18) 1) noIndex (a + 0x18) :: reservedBytes img (a + 0x19) (a + 0x20))
  (List.range ns).flatMap stage ++ (List.range (field img 0x16 1)).flatMap loop ++ (List.range ns).flatMap ops

/-- The reserved bits of the tensor table, the reserved bytes of the weight references and of the signature section. -/
def tableFlaws (img : List Byte) : List Flaw :=
  let (t, tn) := imgSection img 0x40
  let (w, wn) := imgSection img 0x60
  let (g, gn) := imgSection img 0x70
  (List.range (tn / 32)).flatMap (fun i =>
    let a := t + 32 * i
    [flaw (16 ≤ field img a 1) noIndex a, flaw (4 ≤ field img (a + 3) 1) noIndex (a + 3)]) ++
  (List.range (wn / 32)).flatMap (fun i => reservedBytes img (w + 32 * i + 0x12) (w + 32 * i + 0x20)) ++
  reservedBytes img (g + 1) (g + Min.min gn 8)

/-- Code 0x02, IMAGE (R83). The records are read only in an image whose header holds. -/
def imageFault (img : List Byte) : Option LoadFault :=
  match firstFlaw 2 (headerFlaws img) with
  | some f => some f
  | none => firstFlaw 2 (manifestFlaws img ++ graphFlaws img ++ tableFlaws img)

/-! ### SIGNATURE (R50, R83) -/

/-- R49: the bytes that the plan digest covers. -/
def digestSpan (img : List Byte) : List Byte :=
  let (o, n) := imgSection img 0x70
  if n = 0 then img else img.take o

/-- Code 0x03 so far as it needs no key: the size, the slot number and the signing fuse. -/
def signatureFault (img : List Byte) (required : Bool) : Option LoadFault :=
  let (o, n) := imgSection img 0x70
  let signed := bit (field img 0x10 4) 1
  firstFlaw 3 [flaw ((signed = true ∧ n ≠ 520) ∨ (signed = false ∧ n ≠ 0)) noIndex 0x70,
    flaw (required = true ∧ signed = false) noIndex 0x70, flaw (signed = true ∧ 3 < field img o 1) noIndex o]

/-! ### STAGE_GRAPH (R84) -/

/-- R84: an edge from stage s to stage t. -/
def Plan.edge (p : Plan) (s t : Nat) : Bool :=
  match p.stages[s]?, p.stages[t]? with
  | some a, some b => decide (a.doneFlag ≠ 0xFF) && bit b.waitMask a.doneFlag
  | _, _ => false

/-- The stages that one of the stages `l` has an edge into. -/
def Plan.after (p : Plan) (l : List Nat) : List Nat :=
  (List.range p.stages.length).filter (fun t => l.any (fun s => p.edge s t))

/-- The stages that stage `s` reaches along one edge or more, in at most `k` further edges. -/
def Plan.reached (p : Plan) (k : Nat) (l : List Nat) : List Nat :=
  match k with
  | 0 => l
  | k + 1 => Plan.reached p k ((List.range p.stages.length).filter (fun t => l.contains t || (p.after l).contains t))

/-- Whether stage `s` reaches stage `t` along one edge or more. -/
def Plan.reaches (p : Plan) (s t : Nat) : Bool := (p.reached p.stages.length (p.after [s])).contains t

/-- The range of a stage's operation records in the section. -/
def StageRec.span (s : StageRec) : Nat × Nat := (s.opOff, 32 * s.ops.length)

/-- The checks of the stage and loop records: `g` is the section's image offset, `n` its size. A rule of several fields names
the lowest of those that lie in stage or loop records (R747). -/
def Plan.graphFlaws (p : Plan) (g n : Nat) : List Flaw :=
  let ns := p.stages.length
  let hdr := 32 * ns + 16 * p.loops.length
  let stages := p.stages.zipIdx
  let loops := p.loops.zipIdx
  let la (i : Nat) : Nat := g + 32 * ns + 16 * i
  stages.flatMap (fun (s, i) =>
    [flaw (63 < s.doneFlag ∧ s.doneFlag ≠ 0xFF) i (g + 32 * i + 9),
     flaw (s.ops.length < 1 ∨ 4096 < s.ops.length) i (g + 32 * i + 0xC)]) ++
  loops.flatMap (fun (l, i) =>
    [flaw (l.last < l.first) (0x10000 + i) (la i), flaw (ns < l.last + 2) (0x10000 + i) (la i + 1),
     flaw (l.countSrc = 1 ∧ 31 < l.paramIndex) (0x10000 + i) (la i + 3),
     flaw (l.count < 1 ∨ 65536 < l.count) (0x10000 + i) (la i + 4)]) ++
  stages.map (fun (s, i) => flaw (s.doneFlag ≠ 0xFF ∧ (p.stages.drop (i + 1)).any (fun t => t.doneFlag = s.doneFlag) = true) i (g + 32 * i + 9)) ++
  [(let i := (p.stages.findIdx? (fun s => decide (s.doneFlag < 64) && !bit p.stageFlags s.doneFlag)).getD 0
    flaw (p.stages.foldl (fun m s => if s.doneFlag < 64 then setBit m s.doneFlag else m) 0 ≠ p.stageFlags) i (g + 32 * i + 9))] ++
  stages.map (fun (_, i) => flaw (p.reaches i i = true) i (g + 32 * i)) ++
  stages.map (fun (_, i) => flaw (i ≠ ns - 1 ∧ p.reaches i (ns - 1) = false) i (g + 32 * i + 9)) ++
  loops.map (fun (l, i) =>
    flaw ((p.loops.drop (i + 1)).any (fun k => decide (k.first ≤ l.last ∧ l.first ≤ k.last)) = true) (0x10000 + i) (la i)) ++
  loops.flatMap (fun (l, _) => (List.range ns).flatMap (fun s => (List.range (Min.min ns (l.last + 1))).map (fun t =>
    flaw ((s < l.first ∨ l.last < s) ∧ l.first < t ∧ p.edge s t = true) (Min.min s t)
      (Min.min (g + 32 * s + 9) (g + 32 * t))))) ++
  stages.flatMap (fun (s, i) =>
    [flaw (s.opOff % 4 ≠ 0 ∨ s.opOff < hdr) i (g + 32 * i + 0x10),
     flaw (n < s.opOff + 32 * s.ops.length ∨ (p.stages.drop (i + 1)).any (fun t => sectionsMeet s.span t.span) = true) i (g + 32 * i + 0xC)]) ++
  [(let i := (p.stages.findIdx? (fun s => s.placement = 2)).getD 0
    flaw (p.recert ≠ p.stages.any (fun s => s.placement = 2)) i (g + 32 * i + 0xA))]

/-- Code 0x04, STAGE_GRAPH. -/
def Plan.graphFault (p : Plan) (img : List Byte) : Option LoadFault :=
  let (g, n) := imgSection img 0x30
  firstFlaw 4 (p.graphFlaws g n)

end Sys2Proof.Machine
end

