-- ==== Sys2Proof/Machine/PlanOps.lean ====
section
/-!
DEFINITION. The checks of LOAD_PLAN on operations (code 0x05 of R83): operand counts and formats, parameter blocks, and the
limits of each engine's chapter.
-/
namespace Sys2Proof.Machine

/-- An operation where it stands in the plan: its stage and number in it, the image offsets of its record and of its block. -/
structure OpSite where
  p : Plan
  st : Nat
  k : Nat
  s : StageRec
  o : OpRec
  a : Nat
  b : Nat

/-- A check of an operation: whether it fails, and the offset that the report names then. -/
abbrev OpFlaw := Bool × Nat

/-- A check at an image offset. -/
def oflaw (bad : Prop) [Decidable bad] (off : Nat) : OpFlaw := (decide bad, off)

/-- The field that names input `i`. -/
def OpSite.inAt (e : OpSite) (i : Nat) : Nat := e.a + 4 + 2 * i
/-- The field that names output `i`. -/
def OpSite.outAt (e : OpSite) (i : Nat) : Nat := e.a + 0xC + 2 * i
/-- Input `i` is there. -/
def OpSite.has (e : OpSite) (i : Nat) : Bool := e.o.inp i ≠ 0xFFFF
/-- Output `i` is there. -/
def OpSite.hasOut (e : OpSite) (i : Nat) : Bool := e.o.out i ≠ 0xFFFF
/-- The entry of a tensor. -/
def OpSite.ent (e : OpSite) (x : Nat) : Option TensorEnt := e.p.tensors[x]?
/-- The stage runs one instance per logical cluster. -/
def OpSite.all (e : OpSite) : Bool := e.s.placement = 0
/-- A tensor as the operation sees it (R752). -/
def OpSite.desc (e : OpSite) (x : Nat) : TensorDesc := e.p.desc e.all x
/-- The shape the operation sees. -/
def OpSite.shape (e : OpSite) (x : Nat) : List Nat := (e.desc x).shape
/-- The shape of input `i`. -/
def OpSite.inShape (e : OpSite) (i : Nat) : List Nat := e.shape (e.o.inp i)
/-- The shape of output `i`. -/
def OpSite.outShape (e : OpSite) (i : Nat) : List Nat := e.shape (e.o.out i)
/-- The format of a tensor. -/
def OpSite.fmt (e : OpSite) (x : Nat) : Fmt := (e.desc x).fmt
/-- A tensor lies in a space. -/
def OpSite.inSpace (e : OpSite) (x : Nat) (sp : Space) : Bool := (e.ent x).map (·.sp) = some sp

/-- Whether input `i` is there as the operation wants it: an input that it needs has its entry; one that it does not take lies
past `in_count`, so that a count which takes it in does not suit, whatever the entry holds (log entry 25). -/
def OpSite.inWant (e : OpSite) (i : Nat) (want : Bool) : OpFlaw :=
  if want then oflaw (e.has i = false) (if i < e.o.inCount then e.inAt i else e.a + 2)
  else oflaw (e.has i = true ∨ i < e.o.inCount) (e.a + 2)
/-- Whether output `i` is there as the operation wants it, by `out_count` likewise. -/
def OpSite.outWant (e : OpSite) (i : Nat) (want : Bool) : OpFlaw :=
  if want then oflaw (e.hasOut i = false) (if i < e.o.outCount then e.outAt i else e.a + 3)
  else oflaw (e.hasOut i = true ∨ i < e.o.outCount) (e.a + 3)
/-- An input that the operation needs. -/
def OpSite.need (e : OpSite) (i : Nat) : OpFlaw := e.inWant i true
/-- An input that the operation does not take. -/
def OpSite.lacks (e : OpSite) (i : Nat) : OpFlaw := e.inWant i false
/-- An output that the operation needs. -/
def OpSite.needOut (e : OpSite) (i : Nat) : OpFlaw := e.outWant i true
/-- An output that the operation does not take. -/
def OpSite.noneOut (e : OpSite) (i : Nat) : OpFlaw := e.outWant i false
/-- A rule of input `i`. -/
def OpSite.inIs (e : OpSite) (i : Nat) (ok : Bool) : OpFlaw := oflaw (ok = false) (e.inAt i)
/-- A rule of output `i`. -/
def OpSite.outIs (e : OpSite) (i : Nat) (ok : Bool) : OpFlaw := oflaw (ok = false) (e.outAt i)
/-- A rule of a field of the parameter block. -/
def OpSite.par (e : OpSite) (f : Nat) (ok : Bool) : OpFlaw := oflaw (ok = false) (e.b + f)
/-- Bytes of the parameter block that are reserved (R743). -/
def OpSite.reserved (e : OpSite) (l : List Nat) : List OpFlaw := l.map (fun f => e.par f (decide (e.o.par f 1 = 0)))
/-- A field that selects a job parameter word (R743). -/
def OpSite.selector (e : OpSite) (f : Nat) : OpFlaw := e.par f (decide (e.o.par f 1 < 32 ∨ e.o.par f 1 = 0xFF))

/-- Offsets [a, b) of a block. -/
def blockBytes (a b : Nat) : List Nat := tabulate (b - a) (fun i => a + i)

/-- An FP32 pattern is finite. -/
def finiteF32 (w : Nat) : Bool := w / 2 ^ 23 % 256 ≠ 255
/-- An FP32 pattern is finite and not negative. -/
def finiteNonNeg (w : Nat) : Bool := finiteF32 w && Val.le (.zero false) (f32.decode w)

/-- A tensor is FP32 without block scale. -/
def OpSite.isF32 (e : OpSite) (x : Nat) : Bool := e.fmt x = .fp32 && !(e.desc x).scaled && (e.ent x).isSome
/-- A tensor of records: SCRATCHPAD, canonical order, FP32 (R198, R250, R287, R309). -/
def OpSite.isRec (e : OpSite) (x : Nat) : Bool :=
  e.isF32 x && e.inSpace x .scratchpad && decide ((e.desc x).layout = .canon)
/-- An input of records of a shape. -/
def OpSite.inRec (e : OpSite) (i : Nat) (ok : List Nat → Bool) : OpFlaw :=
  e.inIs i (e.isRec (e.o.inp i) && ok (e.inShape i))
/-- An output of records of a shape. -/
def OpSite.outRec (e : OpSite) (i : Nat) (ok : List Nat → Bool) : OpFlaw :=
  e.outIs i (e.isRec (e.o.out i) && ok (e.outShape i))

/-- The length of a shape's dimension. -/
def dimOf (l : List Nat) (i : Nat) : Nat := l.getD i 0

/-! ### All operations -/

/-- R743: the block sizes of an operation code; empty for a code that R66 does not list. -/
def blockSizes (c : Nat) : List Nat :=
  if (0x0100 ≤ c ∧ c ≤ 0x0103) ∨ (0x0200 ≤ c ∧ c ≤ 0x0206) ∨ c = 0x0300 ∨ c = 0x0301 ∨ c = 0x0500 ∨ c = 0x0501 ∨
      (0x0600 ≤ c ∧ c ≤ 0x0602) ∨ (0x0700 ≤ c ∧ c ≤ 0x0704) then [16]
  else if c = 0x0400 ∨ c = 0x0401 then [0, 48]
  else if 0x0402 ≤ c ∧ c ≤ 0x0404 then [48]
  else if c = 0x0603 then [32]
  else []

/-- R83: an entry that an operand may name. -/
def TensorEnt.sane (t : TensorEnt) : Bool :=
  (Fmt.ofCode (t.format % 16)).isSome && decide (1 ≤ t.rank ∧ t.rank ≤ 5) && (Space.ofCode t.space).isSome

/-- An operand entry: unused past the count; within it, absent or the index of a sane entry. -/
def OpSite.operandOk (e : OpSite) (n i x : Nat) : Bool :=
  if x = 0xFFFF then true else decide (i < n) && (match e.ent x with | some t => t.sane | none => false)

/-- R745: an output may be block-scaled in these formats only; one of IV16 is refused under TENSOR. -/
def scalable (f : Fmt) : Bool := f = .int8 || f = .int4 || f = .e4m3 || f = .e5m2

/-- R131: an ACCUMULATOR tensor has one of the two format codes that denote an accumulator. -/
def OpSite.accFormat (e : OpSite) (x : Nat) : Bool :=
  !e.inSpace x .accumulator || e.fmt x = .fp32 || e.fmt x = .iv16

/-- The checks common to all operations: R55, R66, R743, R745. `consts` is the size of the constants section. -/
def OpSite.common (e : OpSite) (consts : Nat) : List OpFlaw :=
  let o := e.o
  [oflaw (blockSizes o.opcode = []) e.a, oflaw (4 < o.inCount) (e.a + 2), oflaw (2 < o.outCount) (e.a + 3)] ++
  (List.range 4).map (fun i => e.inIs i (e.operandOk o.inCount i (o.inp i))) ++
  (List.range 2).map (fun i => e.outIs i (e.operandOk o.outCount i (o.out i))) ++
  [oflaw (o.paramSize ∉ blockSizes o.opcode) (e.a + 0x14), oflaw (o.paramSize ≠ 0 ∧ consts < o.paramOff + o.paramSize) (e.a + 0x10)] ++
  (List.range 4).map (fun i => e.inIs i (!e.has i || e.accFormat (o.inp i))) ++
  (List.range 2).map (fun i => e.outIs i (!e.hasOut i ||
    (e.accFormat (o.out i) && (!(e.desc (o.out i)).scaled || scalable (e.fmt (o.out i)) || e.fmt (o.out i) = .iv16))))

/-! ### Tensor array (R104, R106, R127 to R136, R146, R149, R750) -/

/-- R104: an operand pair that has an accumulator. -/
def pairOk (a w : Fmt) (scaled : Bool) : Bool :=
  if a.isInt && w.isInt then true
  else if (a = .iv16 && (w = .iv16 || w = .fp16)) || (a = .fp16 && w = .iv16) then !scaled
  else !a.isInt && !w.isInt && a ≠ .iv16 && w ≠ .iv16

/-- R106: the largest product magnitude of an integer pair. -/
def maxProduct (a w : Fmt) : Nat := if a = .int8 ∧ w = .int8 then 16384 else if a = .int4 ∧ w = .int4 then 64 else 1024

/-- R106: the weighted count of products of one matrix operation into an entry. -/
def Plan.products (p : Plan) (o : OpRec) : Nat :=
  match p.tensors[o.inp 0]?, p.tensors[o.inp 1]? with
  | some a, some w => w.shape.getLastD 0 * maxProduct a.fmt w.fmt
  | _, _ => 0

/-- Walking back over operations: the products into tensor `x`, and whether the chain starts within the list. -/
def Plan.walkBack (p : Plan) (x : Nat) : List (Nat × OpRec) → Nat × Bool
  | [] => (0, false)
  | (_, o) :: rest =>
    if !o.outputs.contains x then p.walkBack x rest
    else if !o.isMatrix then (0, true)
    else if o.par 0 1 ≠ 1 then (p.products o, true)
    else let (n, f) := p.walkBack x rest; (p.products o + n, f)

/-- The first of a loop's body for a stage inside it, itself for another: what orders the stage among those outside. -/
def Plan.leader (p : Plan) (st : Nat) : Nat := ((p.loopOf st).map (·.first)).getD st

/-- Stages in an order that their waits allow, of those that may come next the lowest; `waits s t` says that `t` waits for `s`. -/
def inWaitOrder (waits : Nat → Nat → Bool) : Nat → List Nat → List Nat
  | 0, left => left
  | n + 1, left =>
    match left.find? (fun t => left.all (fun s => s = t || !waits s t)) with
    | none => left
    | some t => t :: inWaitOrder waits n (left.erase t)

/-- R106: the stages of a plan, earlier ones first: by their waits (R84), a loop's body together, and of stages that no wait
orders the lower index first (log entry 25). -/
def Plan.stageOrder (p : Plan) : List Nat :=
  let n := p.stages.length
  let body (l : Nat) : List Nat := (List.range n).filter (fun t => p.leader t = l)
  let leaders := (List.range n).filter (fun t => p.leader t = t)
  (inWaitOrder (fun a b => (body a).any (fun s => (body b).any (fun t => p.edge s t))) n leaders).flatMap
    (fun l => inWaitOrder p.edge n (body l))

/-- The operations of a plan with their stages, earlier ones first. -/
def Plan.opsInOrder (p : Plan) : List (Nat × OpRec) :=
  p.stageOrder.flatMap (fun i => (((p.stages[i]?).map (·.ops)).getD []).map (fun o => (i, o)))

/-- R106: the count of products of the chain that ends at the head of a list of operations, latest first. -/
def Plan.chainCount (p : Plan) (x : Nat) : Nat → List (Nat × OpRec) → Nat
  | 0, _ => 0
  | k + 1, l =>
    match l.dropWhile (fun e => !e.2.outputs.contains x) with
    | [] => 0
    | (st, o) :: rest =>
      match p.loopOf st with
      | none =>
        if !o.isMatrix then 0
        else if o.par 0 1 ≠ 1 then p.products o
        else p.products o + Plan.chainCount p x k rest
      | some lp =>
        let inBody (e : Nat × OpRec) : Bool := decide (lp.first ≤ e.1 ∧ e.1 ≤ lp.last)
        let here := (st, o) :: rest
        let (a, f) := p.walkBack x (here.takeWhile inBody)
        if f then a
        else
          let body := p.opsInOrder.reverse.filter inBody
          let (b, g) := p.walkBack x body
          let before := Plan.chainCount p x k (here.dropWhile inBody)
          if g then a + Max.max before b else lp.count * b + before

/-- R106: the operations up to and with this one, latest first. -/
def OpSite.upTo (e : OpSite) : List (Nat × OpRec) :=
  (e.p.opsInOrder.takeWhile (fun x => x.1 ≠ e.st) ++ (e.s.ops.take (e.k + 1)).map (fun o => (e.st, o))).reverse

/-- R135, R136, R146: staging rows that lie in the accumulator region. -/
def OpSite.stagingFits (e : OpSite) (off rows : Nat) : Bool := decide ((off + rows) * 2048 ≤ e.p.accPerLc)

/-- B, M, N, K of a matrix operation, and whether its operand shapes agree (R127, R135, R149). -/
def OpSite.mnk (e : OpSite) : Nat × Nat × Nat × Nat × Bool :=
  let a := e.inShape 0
  let w := e.inShape 1
  let shared := e.o.opcode ≠ 0x0101 || e.o.par 1 1 = 1
  let n := if shared then dimOf w 0 else dimOf w 1
  let k := w.getLastD 0
  if e.o.opcode = 0x0101 then
    (dimOf a 0, dimOf a 1, n, k,
      decide (a.length = 3) && decide (dimOf a 2 = k) && (if shared then decide (w.length = 2) else decide (w.length = 3 ∧ dimOf w 0 = dimOf a 0)))
  else if e.o.opcode = 0x0103 then
    (1, dimOf a 0 + e.o.par 0xC 2 - (e.o.par 8 1 - 1) * e.o.par 0xA 2, n, k,
      decide (a.length = 2 ∧ w.length = 2 ∧ k = e.o.par 8 1 * dimOf a 1))
  else (1, dimOf a 0, n, k, decide (a.length = 2 ∧ w.length = 2 ∧ dimOf a 1 = k))

/-- The checks of 0x0100, 0x0101 and 0x0103. -/
def OpSite.matrix (e : OpSite) : List OpFlaw :=
  let o := e.o
  let (b, m, n, k, agree) := e.mnk
  let conv := o.opcode = 0x0103
  let kind := o.accKind e.p.tensors
  let scaled := (e.desc (o.inp 0)).scaled || (e.desc (o.inp 1)).scaled
  let acc := e.inSpace (o.out 0) .accumulator
  let rows := o.par 2 2
  let outDims := if o.opcode = 0x0101 then [b, m, n] else [m, n]
  [e.need 0, e.need 1, e.lacks 3, e.needOut 0, e.noneOut 1,
   e.par 0 (decide (o.par 0 1 ≤ 2)), oflaw (e.has 2 ≠ decide (o.par 0 1 = 2)) (e.inAt 2),
   oflaw (o.par 0 1 ≠ 2 ∧ 2 < o.inCount) (e.a + 2),
   e.par 1 (decide (o.par 1 1 ≤ (if o.opcode = 0x0101 then 1 else 0)))] ++
  (if conv then
    [e.par 8 (decide (1 ≤ o.par 8 1 ∧ o.par 8 1 ≤ 16)), e.par 9 (decide (o.par 9 1 = 0)),
     e.par 0xA (decide (1 ≤ o.par 0xA 2 ∧ o.par 0xA 2 ≤ 64)), e.par 0xC (decide (o.par 0xC 2 ≤ (o.par 8 1 - 1) * o.par 0xA 2)),
     oflaw (m < 1) (Min.min (e.inAt 0) (e.b + 8))] ++ e.reserved [0xE, 0xF]
   else e.reserved (blockBytes 8 16)) ++
  [e.inIs 0 (e.inSpace (o.inp 0) .scratchpad), e.inIs 1 (e.inSpace (o.inp 1) .scratchpad),
   e.inIs 0 (pairOk (e.fmt (o.inp 0)) (e.fmt (o.inp 1)) scaled), e.inIs 0 agree,
   e.inIs 0 (decide (m ≤ 16777216 ∧ b ≤ 65536)), e.inIs 1 (decide (n ≤ 1048576 ∧ k ≤ 1048576)),
   e.outIs 0 (!(e.desc (o.out 0)).scaled && decide (e.fmt (o.out 0) = if kind = .itv then Fmt.iv16 else Fmt.fp32) && decide (e.outShape 0 = outDims)),
   e.outIs 0 (!acc || decide (e.p.accKind (o.out 0) = kind)),
   oflaw (o.par 0 1 = 1 ∧ acc = false) (Min.min (e.outAt 0) e.b),
   e.inIs 2 (!e.has 2 || (e.isF32 (o.inp 2) && !e.inSpace (o.inp 2) .accumulator && decide (e.inShape 2 = [n]))),
   e.par 2 (if acc then decide (rows = 0) else decide (2 ≤ rows ∧ rows ≤ 1024 ∧ rows % (if kind = .itv then 4 else 2) = 0)),
   e.par 2 (acc || e.stagingFits (o.par 4 4) rows),
   e.inIs 0 (decide (kind ≠ .int ∨ e.p.chainCount (o.out 0) (e.upTo.length + 1) e.upTo ≤ 2147483647))]

/-- The formats of attention operands (R146). -/
def attentionFmt (f : Fmt) : Bool := f = .fp16 || f = .bf16 || f = .e4m3 || f = .e5m2

/-- The checks of 0x0102 (R146). -/
def OpSite.attention (e : OpSite) : List OpFlaw :=
  let o := e.o
  let d := dimOf (e.inShape 0) 1
  let sk := dimOf (e.inShape 1) 0
  let operand (i : Nat) (ok : Bool) : OpFlaw :=
    e.inIs i (e.inSpace (o.inp i) .scratchpad && attentionFmt (e.fmt (o.inp i)) && decide ((e.inShape i).length = 2) && ok)
  [e.need 0, e.need 1, e.need 2, e.lacks 3, e.needOut 0, e.noneOut 1, operand 0 (decide (d ≤ 128)),
   operand 1 (decide (dimOf (e.inShape 1) 1 = d)), operand 2 (decide (e.inShape 2 = [sk, d])),
   e.outIs 0 (e.isF32 (o.out 0) && !e.inSpace (o.out 0) .accumulator && decide ((e.desc (o.out 0)).layout = .canon) &&
     decide (e.outShape 0 = [dimOf (e.inShape 0) 0, d])),
   e.par 4 (decide (1 ≤ o.par 4 4 ∧ o.par 4 4 ≤ sk)),
   e.par 0xC (decide (4 ≤ o.par 0xC 2 ∧ o.par 0xC 2 % 2 = 0)), e.par 8 (e.stagingFits (o.par 8 4) (o.par 0xC 2))] ++
  e.reserved [0xE, 0xF]

/-- R750: `reduce` = 1 on an operation with an FP32 accumulator needs ORDER_SENSITIVE. -/
def OpSite.orderFlaw (e : OpSite) : OpFlaw :=
  let flt := e.o.opcode = 0x0102 || e.o.accKind e.p.tensors = .flt
  oflaw (e.o.reduce = 1 ∧ flt = true ∧ e.p.orderSensitive = false) (e.a + 0x18)

/-! ### Vector engine (R162 to R169, R204, R205) -/

/-- R163: the functions of interval operands. -/
def ivFn (fn : Nat) : Bool := fn = 0 || fn = 1 || fn = 2 || fn = 4 || fn = 5 || fn = 7
/-- R162: the functions listed. -/
def fnListed (fn : Nat) : Bool := decide (fn ≤ 0x0E ∨ (0x10 ≤ fn ∧ fn ≤ 0x18) ∨ (0x20 ≤ fn ∧ fn ≤ 0x24))

/-- The checks of 0x0200. -/
def OpSite.elementwise (e : OpSite) : List OpFlaw :=
  let o := e.o
  let fn := o.par 0 1
  let src := o.par 3 1
  let isIv (i : Nat) : Bool := e.has i && e.fmt (o.inp i) = .iv16
  let unary := ewUnary fn
  let sh := e.inShape 0
  let d := sh.getLastD 1
  let endpoint := decide (0x21 ≤ fn ∧ fn ≤ 0x24)
  [e.par 0 (fnListed fn), e.par 1 (decide (o.par 1 1 ≤ 3)), e.par 2 (decide (o.par 2 1 ≤ 1)), e.par 3 (decide (src ≤ 2))] ++
  e.reserved (blockBytes 0xC 0x10) ++
  [e.need 0, e.inWant 1 (!unary && decide (src ≤ 1)),
   (if fn = 3 then oflaw False 0 else e.inWant 2 (decide (fn = 9))), e.lacks 3, e.needOut 0, e.noneOut 1,
   e.inIs 0 (if endpoint then isIv 0 else !isIv 0 || ivFn fn), e.inIs 1 (!isIv 1 || ivFn fn), e.inIs 2 (!isIv 2),
   e.inIs 1 (!e.has 1 || (if src = 0 then decide (e.inShape 1 = sh)
     else decide (elemCount (e.inShape 1) = d ∧ (e.inShape 1).getLastD 1 = d))),
   e.inIs 2 (!e.has 2 || decide (e.inShape 2 = sh)),
   e.outIs 0 (decide (e.outShape 0 = sh)),
   e.outIs 0 (if fn = 0x20 || ((isIv 0 || isIv 1) && ivFn fn) then e.fmt (o.out 0) = .iv16 else true)]

/-- The checks of 0x0201. -/
def OpSite.normalisation (e : OpSite) : List OpFlaw :=
  let o := e.o
  let d := (e.inShape 0).getLastD 1
  let vec (i : Nat) : OpFlaw := e.inIs i (!e.has i || (e.isF32 (o.inp i) && decide (e.inShape i = [d])))
  e.par 0 (decide (o.par 0 1 ≤ 2)) :: e.reserved ([1, 2, 3] ++ blockBytes 8 16) ++
  [e.need 0, e.inIs 0 (decide (e.fmt (o.inp 0) ≠ .iv16)), vec 1, vec 2, e.lacks 3, e.needOut 0, e.noneOut 1,
   e.outIs 0 (decide (e.outShape 0 = e.inShape 0))]

/-- The checks of 0x0202. -/
def OpSite.activation (e : OpSite) : List OpFlaw :=
  let o := e.o
  let iv := e.fmt (o.inp 0) = .iv16
  e.par 0 (decide (o.par 0 1 ≤ 4)) :: e.reserved ([1, 2, 3] ++ blockBytes 8 16) ++
  [e.need 0, e.lacks 1, e.lacks 2, e.lacks 3, e.needOut 0, e.noneOut 1, e.inIs 0 (!iv || decide (o.par 0 1 = 0)),
   e.outIs 0 (decide (e.outShape 0 = e.inShape 0) && (!iv || e.fmt (o.out 0) = .iv16))]

/-- R168: the shape a reduction of the last dimension leaves. -/
def reducedShape (sh out : List Nat) : Bool :=
  decide (out = sh.dropLast ++ [1]) || (decide (2 ≤ sh.length) && decide (out = sh.dropLast))

/-- The checks of 0x0203. -/
def OpSite.reduceOp (e : OpSite) : List OpFlaw :=
  let o := e.o
  let kind := o.par 0 1
  e.par 0 (decide (kind ≤ 5)) :: e.reserved (blockBytes 1 16) ++
  [e.need 0, e.lacks 1, e.lacks 2, e.lacks 3, e.needOut 0, e.noneOut 1,
   e.inIs 0 (decide (e.fmt (o.inp 0) ≠ .iv16 ∧ 1 ≤ (e.inShape 0).getLastD 0)),
   e.outIs 0 (reducedShape (e.inShape 0) (e.outShape 0) && (decide (kind < 4) || e.isF32 (o.out 0)))]

/-- The checks of 0x0204 and 0x0205: the table, the raw index words, the rows moved. -/
def OpSite.moveRows (e : OpSite) : List OpFlaw :=
  let o := e.o
  let scatter := o.opcode = 0x0205
  let table := e.inShape 0
  let rows := e.inShape 1 ++ table.drop 1
  let converts (a : Nat) : Bool := decide (e.fmt a ≠ .iv16 ∨ e.fmt (o.out 0) = .iv16)
  e.par 0 (decide (o.par 0 1 ≤ (if scatter then 2 else 1))) :: e.reserved (blockBytes 1 16) ++
  [e.need 0, e.need 1, e.inWant 2 scatter, e.lacks 3, e.needOut 0, e.noneOut 1,
   e.inIs 1 (e.isF32 (o.inp 1)),
   e.inIs 0 (decide (2 ≤ table.length)),
   e.inIs 2 (!e.has 2 || (decide (e.inShape 2 = rows) && converts (o.inp 2))),
   e.outIs 0 (decide (e.outShape 0 = if scatter then table else rows) && converts (o.inp 0))]

/-- The checks of 0x0206 (R204, R205). -/
def OpSite.random (e : OpSite) : List OpFlaw :=
  let o := e.o
  let dist := o.par 0 1
  let f := e.fmt (o.out 0)
  [e.par 0 (decide (dist ≤ 2)), e.selector 1] ++ e.reserved [2, 3] ++
  [e.par 8 (decide (dist = 0) || finiteF32 (o.par 8 4)), e.par 0xC (decide (dist = 0) || finiteF32 (o.par 0xC 4)),
   e.lacks 0, e.lacks 1, e.lacks 2, e.lacks 3, e.needOut 0, e.noneOut 1,
   e.outIs 0 (!(e.desc (o.out 0)).scaled && (f = .fp32 || (decide (dist ≠ 0) && (f = .fp16 || f = .bf16))))]

/-! ### Fletcher (R184 to R198) -/

/-- R178: the extents of a trajectory tensor. -/
def trajectoryOk (sh : List Nat) : Bool :=
  decide (1 ≤ dimOf sh 0 ∧ dimOf sh 0 ≤ 65536 ∧ 2 ≤ dimOf sh 1 ∧ dimOf sh 1 ≤ 256 ∧ 2 ≤ dimOf sh 2 ∧ dimOf sh 2 ≤ 17)

/-- The checks of 0x0300 and 0x0301; the extents of the trajectory are a TENSOR rule. -/
def OpSite.fletcher (e : OpSite) : List OpFlaw :=
  let o := e.o
  let point := o.opcode = 0x0300
  let body := o.par 0 2
  let jac := bit (o.par 2 1) 0
  let sh := e.inShape 0
  let p := dimOf (e.outShape 0) 2
  let primOk := decide (1 ≤ p ∧ p ≤ 64)
  [e.par 0 (decide (body / 1024 % 32 = 0) && (!bit body 15 || decide (body / 32 % 32 = 0))),
   e.par 2 (decide (o.par 2 1 < 2) && (point || !jac))] ++ e.reserved [3] ++
  [e.par 4 (if point then decide (o.par 4 4 = 0) else finiteNonNeg (o.par 4 4))] ++ e.reserved (blockBytes 8 16) ++
  [e.need 0, (if point then e.lacks 1 else oflaw False 0), e.lacks 2, e.lacks 3, e.needOut 0,
   e.outWant 1 (point && jac),
   e.inRec 0 (fun l => decide (l.length = 3)),
   oflaw (e.has 1 = true ∧ (e.isRec (o.inp 1) && decide (e.inShape 1 = [dimOf (e.inShape 1) 0, 2] ∧ dimOf (e.inShape 1) 0 ≤ 1048576)) = false) (e.inAt 1),
   e.outRec 0 (fun l =>
     if point then decide (l = [dimOf sh 0, dimOf sh 1, p, 8]) && primOk
     else if e.has 1 then decide (l = [dimOf (e.inShape 1) 0, 12])
     else decide (l = [dimOf sh 0, dimOf sh 1 - 1, p, 12]) && primOk),
   oflaw (e.hasOut 1 = true ∧ (e.isRec (o.out 1) && decide (e.outShape 1 = [dimOf sh 0, dimOf sh 1, p, 48])) = false) (e.outAt 1)]

/-! ### Geometry (R250 to R253, R580) -/

/-- The checks of the 48-byte block of 0x0402 to 0x0404 (R252). -/
def OpSite.testBlock (e : OpSite) : List OpFlaw :=
  let o := e.o
  let swept := o.opcode = 0x0404
  let fin (f : Nat) : OpFlaw := e.par f (finiteF32 (o.par f 4))
  let le (f g : Nat) : OpFlaw := e.par f (!Val.lt (o.parF32 g) (o.parF32 f))
  [e.par 0 (finiteNonNeg (o.par 0 4)), e.par 4 (decide (o.par 4 1 ≤ 1)),
   e.par 5 (decide (o.par 5 1 ≤ (if o.par 4 1 = 1 then 1 else 0))),
   e.par 6 (decide (o.par 6 1 ≤ (if swept then 8 else 0))), e.par 7 (decide (o.par 7 1 ≤ 1)), e.selector 0xA, e.selector 0xB,
   e.par 0xC (if swept then decide (o.par 0xC 4 = 0) else finiteF32 (o.par 0xC 4)),
   fin 0x10, fin 0x14, fin 0x18, fin 0x1C, fin 0x20, fin 0x24, fin 0x28, fin 0x2C,
   le 0x10 0x1C, le 0x14 0x20, le 0x18 0x24, le 0x28 0x2C]

/-- The checks of 0x0400 to 0x0404. -/
def OpSite.geometry (e : OpSite) : List OpFlaw :=
  let o := e.o
  let c := o.opcode
  let sh := e.inShape 0
  let test := decide (0x0402 ≤ c)
  let summary := test && decide (o.par 4 1 = 1)
  let lead := if c = 0x0404 then [elemCount sh.dropLast] else sh.take 3
  [oflaw (e.p.needsWorld = false) e.a, oflaw (o.inCount ≠ 1) (e.a + 2), e.need 0, e.needOut 0,
   (if c = 0x0404 then oflaw False 0 else e.noneOut 1)] ++
  (if test then e.testBlock else e.reserved (blockBytes 0 o.paramSize)) ++
  [e.inRec 0 (fun l => if c = 0x0404 then decide (2 ≤ l.length) && decide (l.getLastD 0 = 12) else decide (l.length = 4 ∧ dimOf l 3 = 8)),
   e.outRec 0 (fun l => if summary then decide (l = [dimOf l 0, 8]) else decide (l = lead ++ [if c = 0x0400 then 4 else 8])),
   oflaw (e.hasOut 1 = true ∧ (e.isRec (o.out 1) &&
     decide (e.outShape 1 = [dimOf (e.outShape 1) 0, 2] ∧ 2 ≤ dimOf (e.outShape 1) 0 ∧ dimOf (e.outShape 1) 0 ≤ 1048576)) = false) (e.outAt 1)]

/-- A geometry operation. -/
def OpRec.isGeometry (o : OpRec) : Bool := decide (0x0400 ≤ o.opcode ∧ o.opcode ≤ 0x0404)

/-- The operations of a plan that write a tensor. -/
def Plan.writers (p : Plan) (x : Nat) : List (Nat × OpRec) :=
  (p.stages.zipIdx.flatMap (fun (s, i) => s.ops.map (fun o => (i, o)))).filter (fun e => e.2.outputs.contains x)

/-- R580: the primary operations that a DIVERSE geometry operation would be compared with. -/
def OpSite.primaries (e : OpSite) : List OpRec :=
  ((e.p.writers (e.o.out 0)).filter (fun w =>
    decide (w.1 < e.st) && w.2.isGeometry && decide (w.2.out 0 = e.o.out 0) &&
      ((e.p.stages[w.1]?).map (·.placement)) = some 1)).map Prod.snd

/-- R580: the checks of a DIVERSE stage's geometry operation. -/
def OpSite.pairing (e : OpSite) : List OpFlaw :=
  let o := e.o
  if e.s.placement ≠ 2 then []
  else if o.opcode < 0x0402 then [oflaw (1 < (e.p.writers (o.out 0)).length) (e.outAt 0)]
  else match e.primaries with
    | [] => []
    | q :: _ =>
      let dims (x : Nat) : List Nat := ((e.ent x).map (·.shape)).getD []
      [oflaw (!(decide (q.opcode = o.opcode) && decide (q.param = o.param) && decide (dims (q.inp 0) = dims (o.inp 0)) &&
        decide (o.par 4 1 = 0) && decide (o.out 1 = 0xFFFF) && decide (q.out 1 = 0xFFFF) &&
        decide ((e.p.writers (o.out 0)).length = 2))) e.a]

/-! ### Selection (R287 to R304) -/

/-- R74, R299: another logical cluster's region may be read: the stage waits for ALL, and for every stage that writes it. -/
def OpSite.regionReadOk (e : OpSite) (x : Nat) : Bool :=
  decide (e.s.waitMode = 0) && (e.p.writers x).all (fun w =>
    match e.p.stages[w.1]? with
    | some s => decide (s.doneFlag ≠ 0xFF) && bit e.s.waitMask s.doneFlag
    | none => false)

/-- R287: the formats of Top-k values. -/
def rankFmt (f : Fmt) : Bool := f = .fp32 || f = .fp16 || f = .bf16 || f = .int8

/-- The checks of 0x0500. -/
def OpSite.topk (e : OpSite) : List OpFlaw :=
  let o := e.o
  let sh := e.inShape 0
  let r := dimOf sh 0
  let n := dimOf sh 1
  let k := o.par 4 4
  let idx := bit (o.par 1 1) 2
  let m := if bit (o.par 1 1) 1 then e.p.lcs else 1
  [oflaw (o.reduce = 1) (e.a + 0x18), e.par 0 (decide (o.par 0 1 ≤ 1)), e.par 1 (decide (o.par 1 1 < 8)), e.selector 2] ++
  e.reserved [3] ++ [e.par 4 (decide (1 ≤ k ∧ k ≤ 16384))] ++ e.reserved (blockBytes 0xC 16) ++
  [e.need 0, e.inWant 1 idx, e.lacks 2, e.lacks 3, e.needOut 0, e.needOut 1,
   e.inIs 0 (rankFmt (e.fmt (o.inp 0)) && !(e.desc (o.inp 0)).scaled && e.inSpace (o.inp 0) .scratchpad &&
     decide ((e.desc (o.inp 0)).layout = .canon) && decide (sh.length = 2)),
   e.inIs 0 (decide (1 ≤ r ∧ r ≤ 65536 ∧ 1 ≤ n ∧ n ≤ 16777216)),
   oflaw (e.has 1 = true ∧ (e.isRec (o.inp 1) && decide (e.inShape 1 = sh)) = false) (e.inAt 1),
   e.outRec 0 (fun l => decide (l = [r, k, 2])), e.outRec 1 (fun l => decide (l = [r, 8])),
   e.par 8 (decide (o.par 2 1 ≠ 0xFF) || idx || decide (o.par 8 4 + m * n - 1 ≤ 0xFFFFFFFE))]

/-- The checks of 0x0501. -/
def OpSite.mergeOp (e : OpSite) : List OpFlaw :=
  let o := e.o
  let loc := bit (o.par 1 1) 3
  let sh := e.inShape 0
  let nl := o.par 3 1
  let r := if loc then dimOf sh 1 else dimOf sh 0
  let kin := if loc then dimOf sh 2 else dimOf sh 1
  let k := o.par 4 4
  let pre := if loc then [nl] else []
  [oflaw (o.reduce = 1) (e.a + 0x18), e.par 0 (decide (o.par 0 1 ≤ 1)), e.par 1 (decide (o.par 1 1 = 0 ∨ o.par 1 1 = 1 ∨ o.par 1 1 = 8 ∨ o.par 1 1 = 9)),
   e.par 2 (if loc then decide (o.par 2 1 = 0) else decide (o.par 2 1 + nl ≤ e.p.lcs)),
   e.par 3 (decide (1 ≤ nl ∧ nl ≤ 64))] ++ e.reserved (blockBytes 8 16) ++
  [e.need 0, e.need 1, e.lacks 2, e.lacks 3, e.needOut 0, e.needOut 1,
   e.inRec 0 (fun l => decide (l = pre ++ [r, kin, 2])), e.inRec 1 (fun l => decide (l = pre ++ [r, 8])),
   e.inIs 0 (decide (1 ≤ kin ∧ kin ≤ 16384 ∧ nl * kin ≤ 1048576)), e.par 4 (decide (1 ≤ k ∧ k ≤ kin)),
   e.outRec 0 (fun l => decide (l = [r, k, 2])), e.outRec 1 (fun l => decide (l = [r, 8])),
   e.inIs 0 (loc || e.regionReadOk (o.inp 0)), e.inIs 1 (loc || e.regionReadOk (o.inp 1))]

/-! ### Solver (R309 to R335) -/

/-- R310, R313, R315: the policy and τ of a block; SKIP where `skip` allows it. -/
def OpSite.pivotRules (e : OpSite) (pf tf : Nat) (skip : Bool) : List OpFlaw :=
  let pv := e.o.par pf 1
  [oflaw (e.o.reduce = 1) (e.a + 0x18), e.par pf (decide (pv ≤ 2)), e.par pf (decide (pv ≠ 2) || skip),
   e.par tf (finiteNonNeg (e.o.par tf 4)), e.par pf (decide (pv ≠ 1) || !Val.eq (e.o.parF32 tf) (.zero false))]

/-- R309: a batch count. -/
def batchOk (b : Nat) : Bool := decide (1 ≤ b ∧ b ≤ 65536)

/-- The checks of 0x0600 (R313 to R315). -/
def OpSite.factor (e : OpSite) : List OpFlaw :=
  let o := e.o
  let kind := o.par 0 1
  let sh := e.inShape 0
  let b := dimOf sh 0
  let m := dimOf sh 1
  let n := dimOf sh 2
  e.par 0 (decide (kind ≤ 3)) :: e.pivotRules 1 4 (decide (kind = 0)) ++ e.reserved ([2, 3] ++ blockBytes 8 16) ++
  [e.need 0, e.lacks 1, e.lacks 2, e.lacks 3, e.needOut 0, e.needOut 1,
   e.inRec 0 (fun l => decide (l.length = 3) && batchOk b && decide (1 ≤ n ∧ n ≤ m ∧ m ≤ 64) && (decide (kind = 3) || decide (m = n))),
   e.outRec 0 (fun l => decide (l = sh)), e.outRec 1 (fun l => decide (l = [b, 68]))]

/-- The checks of 0x0601 (R326, R327). -/
def OpSite.solve (e : OpSite) : List OpFlaw :=
  let o := e.o
  let kind := o.par 0 1
  let sh := e.inShape 0
  let b := dimOf sh 0
  let m := dimOf sh 1
  let n := dimOf sh 2
  let r := dimOf (e.inShape 1) 2
  e.par 0 (decide (kind ≤ 5)) :: e.pivotRules 1 4 (decide (kind = 2)) ++
  [e.par 2 (decide (o.par 2 1 ≤ (if kind ≤ 1 then 3 else 0)))] ++ e.reserved (3 :: blockBytes 8 16) ++
  [e.need 0, e.need 1, e.inWant 2 (decide (2 ≤ kind)), e.lacks 3, e.needOut 0, e.needOut 1,
   e.inRec 0 (fun l => decide (l.length = 3) && batchOk b && decide (1 ≤ n ∧ n ≤ m ∧ m ≤ 64) && (decide (kind = 5) || decide (m = n))),
   e.inRec 1 (fun l => decide (l = [b, m, r]) && decide (1 ≤ r ∧ r ≤ 64)),
   oflaw (e.has 2 = true ∧ (e.isRec (o.inp 2) && decide (e.inShape 2 = [b, 68])) = false) (e.inAt 2),
   e.outRec 0 (fun l => decide (l = [b, n, r])), e.outRec 1 (fun l => decide (l = [b, 4]))]

/-- ns_R (R330). -/
def stageWords (nx nu : Nat) : Nat := 2 * nx * nx + 2 * nx * nu + nu * nu + 2 * nx + nu

/-- A dimension of a trajectory problem. -/
def solverDim (n : Nat) : Bool := decide (1 ≤ n ∧ n ≤ 32)

/-- R330: the stage data has N + 1 stages. -/
def horizonOk (sh : List Nat) : Bool := decide (2 ≤ dimOf sh 1 ∧ dimOf sh 1 ≤ 256)

/-- The checks of 0x0602 (R330, R331). -/
def OpSite.riccati (e : OpSite) : List OpFlaw :=
  let o := e.o
  let nx := o.par 0 1
  let nu := o.par 1 1
  let sh := e.inShape 0
  let b := dimOf sh 0
  [e.par 0 (solverDim nx), e.par 1 (solverDim nu)] ++ e.pivotRules 2 4 true ++ e.reserved (3 :: blockBytes 8 16) ++
  [e.need 0, e.need 1, e.lacks 2, e.lacks 3, e.needOut 0, e.needOut 1,
   e.inRec 0 (fun l => decide (l = [b, dimOf l 1, stageWords nx nu]) && batchOk b && horizonOk l),
   e.inRec 1 (fun l => decide (l = [b, nx])), e.outRec 0 (fun l => decide (l = [b, dimOf sh 1, nx + nu])),
   e.outRec 1 (fun l => decide (l = [b, 4]))]

/-- ρ_w (R335). -/
def warmWords (stages nw nc : Nat) : Nat := alignUp (16 + stages * (2 * nw + nc)) 16

/-- The checks of 0x0603 (R333 to R335); `slot` is the store slot size in bytes. -/
def OpSite.refine (e : OpSite) (slot : Nat) : List OpFlaw :=
  let o := e.o
  let nx := o.par 0 1
  let nu := o.par 1 1
  let nc := o.par 2 1
  let nw := nx + nu
  let sh := e.inShape 0
  let b := dimOf sh 0
  let rw := warmWords (dimOf sh 1) nw nc
  let src := o.par 6 1
  let uses := decide (src = 1 ∨ o.par 7 1 = 1)
  [e.par 0 (solverDim nx), e.par 1 (solverDim nu), e.par 2 (decide (nc ≤ 32))] ++ e.pivotRules 3 0x10 true ++
  [e.par 4 (decide (1 ≤ o.par 4 2 ∧ o.par 4 2 ≤ 256)), e.par 6 (decide (src ≤ 2)), e.par 7 (decide (o.par 7 1 ≤ 1)),
   e.par 8 (finiteF32 (o.par 8 4) && Val.lt (.zero false) (o.parF32 8)), e.par 0xC (finiteNonNeg (o.par 0xC 4)),
   e.selector 0x14, e.par 0x14 (uses == decide (o.par 0x14 1 ≠ 0xFF)), e.selector 0x15] ++ e.reserved [0x16, 0x17] ++
  [e.need 0, e.need 1, e.inWant 2 (decide (src = 2)), e.lacks 3, e.needOut 0, e.noneOut 1,
   e.inRec 0 (fun l => decide (l = [b, dimOf l 1, stageWords nx nu + nc * nw + 2 * nc + 2 * nw]) && batchOk b && horizonOk l),
   e.inRec 1 (fun l => decide (l = [b, nx])),
   oflaw (e.has 2 = true ∧ (e.isRec (o.inp 2) && decide (e.inShape 2 = [b, rw])) = false) (e.inAt 2),
   e.outRec 0 (fun l => decide (l = [b, rw])), oflaw (slot < 4 * rw) (e.inAt 0)]

/-! ### Copy, check values, Digest (R561, R612 to R622, R742) -/

/-- The checks of 0x0700. -/
def OpSite.copy (e : OpSite) : List OpFlaw :=
  let o := e.o
  let lc := o.par 2 1
  let ivIn := e.fmt (o.inp 0) = .iv16
  [e.par 0 (decide (o.par 0 1 ≤ 3)), e.par 1 (decide (o.par 1 1 ≤ 1)), e.par 2 (decide (lc < e.p.lcs ∨ lc = 0xFF))] ++
  e.reserved (blockBytes 3 16) ++
  [e.need 0, e.lacks 1, e.lacks 2, e.lacks 3, e.needOut 0, e.noneOut 1, e.inIs 0 (!ivIn || e.fmt (o.out 0) = .iv16),
   e.inIs 0 (decide (e.inShape 0 = e.outShape 0)),
   oflaw (lc ≠ 0xFF ∧ (e.inSpace (o.inp 0) .scratchpad && e.regionReadOk (o.inp 0)) = false) (Min.min (e.inAt 0) (e.b + 2))]

/-- R613: the data bytes of an envelope. -/
def envelopeOk (n : Nat) : Bool := decide (n % 4 = 0 ∧ 4 ≤ n ∧ n ≤ 16777216)

/-- An operand read or written in canonical byte order (R612). -/
def OpSite.notAcc (e : OpSite) (x : Nat) : Bool := !e.inSpace x .accumulator

/-- The checks of 0x0701 and 0x0702. -/
def OpSite.envelopeOp (e : OpSite) : List OpFlaw :=
  let o := e.o
  let wrap := o.opcode = 0x0701
  let n := (e.desc (o.inp 0)).rawBytes
  let m := dimOf (e.inShape 0) 0
  let gap := o.par 6 2
  [e.par 0 (decide (o.par 0 2 < 1024)), e.selector 2] ++ e.reserved [3] ++
  [e.par 6 (if wrap then decide (gap = 0) else decide (1 ≤ gap ∧ gap ≤ 32767))] ++ e.reserved (blockBytes 8 16) ++
  [e.need 0, e.lacks 1, e.lacks 2, e.lacks 3, e.needOut 0, e.outWant 1 (!wrap),
   e.inIs 0 (e.notAcc (o.inp 0)), e.outIs 0 (e.notAcc (o.out 0)), e.outIs 1 (wrap || e.notAcc (o.out 1)),
   e.inIs 0 (if wrap then envelopeOk n else e.isF32 (o.inp 0) && decide (e.inShape 0 = [m]) && envelopeOk (4 * (m - 3))),
   e.outIs 0 (if wrap then e.isF32 (o.out 0) && decide (e.outShape 0 = [n / 4 + 3])
     else decide ((e.desc (o.out 0)).rawBytes = 4 * (m - 3))),
   e.outIs 1 (wrap || (e.isF32 (o.out 1) && decide (e.outShape 1 = [8])))]

/-- The checks of 0x0703. -/
def OpSite.scan (e : OpSite) : List OpFlaw :=
  let o := e.o
  let range := o.par 1 1 = 1
  let word (f : Nat) : OpFlaw := e.par f (if range then decide (o.par f 1 < 32) else decide (o.par f 1 = 0xFF))
  [e.par 0 (decide (o.par 0 1 ≤ 1)), e.par 1 (decide (o.par 1 1 ≤ 1)), word 2, word 3] ++ e.reserved (blockBytes 4 16) ++
  [e.inWant 0 (!range), e.lacks 1, e.lacks 2, e.lacks 3, e.needOut 0, e.noneOut 1,
   e.inIs 0 (range || e.notAcc (o.inp 0)), e.outIs 0 (e.isF32 (o.out 0) && e.notAcc (o.out 0) && decide (e.outShape 0 = [2]))]

/-- The checks of 0x0704. -/
def OpSite.digest (e : OpSite) : List OpFlaw :=
  let o := e.o
  e.par 0 (decide (o.par 0 1 ≤ 1)) :: e.reserved (blockBytes 1 16) ++
  [e.need 0, e.lacks 1, e.lacks 2, e.lacks 3, e.needOut 0, e.noneOut 1,
   e.outIs 0 (e.isF32 (o.out 0) && e.notAcc (o.out 0) && decide (e.outShape 0 = [if o.par 0 1 = 0 then 16 else 2]))]

/-! ### The operations of a plan -/

/-- The checks that an operation's engine makes. -/
def OpSite.engine (e : OpSite) (slot : Nat) : List OpFlaw :=
  match e.o.opcode with
  | 0x0100 => e.orderFlaw :: e.matrix
  | 0x0101 => e.orderFlaw :: e.matrix
  | 0x0102 => e.orderFlaw :: e.attention
  | 0x0103 => e.orderFlaw :: e.matrix
  | 0x0200 => e.elementwise
  | 0x0201 => e.normalisation
  | 0x0202 => e.activation
  | 0x0203 => e.reduceOp
  | 0x0204 => e.moveRows
  | 0x0205 => e.moveRows
  | 0x0206 => e.random
  | 0x0300 => e.fletcher
  | 0x0301 => e.fletcher
  | 0x0500 => e.topk
  | 0x0501 => e.mergeOp
  | 0x0600 => e.factor
  | 0x0601 => e.solve
  | 0x0602 => e.riccati
  | 0x0603 => e.refine slot
  | 0x0700 => e.copy
  | 0x0701 => e.envelopeOp
  | 0x0702 => e.envelopeOp
  | 0x0703 => e.scan
  | 0x0704 => e.digest
  | _ => e.geometry ++ e.pairing

/-- The check of an operation that refuses it: the engine's come after those common to all, which they rest on (log entry 23). -/
def OpSite.fault (e : OpSite) (consts slot : Nat) : Option LoadFault :=
  let named (l : List OpFlaw) : Option LoadFault := firstFlaw 5 (l.map (fun f => (f.1, e.st * 65536 + e.k, f.2)))
  match named (e.common consts) with
  | some f => some f
  | none => named (e.engine slot)

/-- The operations of a plan where they stand; `g` and `c` are the image offsets of the graph and constants sections. -/
def Plan.sites (p : Plan) (g c : Nat) : List OpSite :=
  p.stages.zipIdx.flatMap (fun (s, i) => s.ops.zipIdx.map (fun (o, k) =>
    { p := p, st := i, k := k, s := s, o := o, a := g + s.opOff + 32 * k, b := c + o.paramOff }))

/-- Code 0x05, OPERATION. Of several faulty operations the report names the first in stage order and then in order within its stage,
which R747 leaves open (DESIGN CHOICE, log entry 23). -/
def Plan.opFault (p : Plan) (img : List Byte) (slot : Nat) : Option LoadFault :=
  let (c, n) := imgSection img 0x50
  (p.sites (imgSection img 0x30).1 c).findSome? (fun e => e.fault n slot)

end Sys2Proof.Machine
end

