-- ==== Sys2Proof/Machine/PlanFit.lean ====
section
/-!
DEFINITION. The checks of LOAD_PLAN on tensors, weights and resources (codes 0x06 to 0x0C of R83).
-/
namespace Sys2Proof.Machine

/-! ### TENSOR (R68 to R73, R128, R178, R741, R745, R746) -/

/-- The image offset of the bytes of the persistent area that hold the image copy, counted from the area's start (R741). -/
def Plan.imageCopy (p : Plan) : Nat := p.hbmPersist - alignUp p.imageSize 4096

/-- The bytes of a tensor where it lies: one slice in the regions of logical clusters, else the whole (R72). -/
def Plan.bytesOf (p : Plan) (x : Nat) : Nat := (p.desc false x).footprint

/-- R83: a tensor extends beyond its space. -/
def Plan.beyond (p : Plan) (x : Nat) (t : TensorEnt) : Bool :=
  let n := p.bytesOf x
  match t.sp with
  | .scratchpad => decide (p.spadPerLc < t.offset + n)
  | .accumulator => decide (p.accPerLc < t.offset + n)
  | .hbmPlan => decide (p.imageCopy < t.offset + n)
  | .hbmJob => decide (p.hbmWork < t.offset + n)
  | .host => decide (16 ≤ t.offset / 2 ^ 56) || decide (2 ^ 56 < t.offset % 2 ^ 56 + n)

/-- The distinct tile layouts in which operations read a SCRATCHPAD tensor (R128). -/
def Plan.layouts (p : Plan) (x : Nat) : List Layout := (p.ops.flatMap (fun o => o.layoutsFor p.tensors x)).eraseDups

/-- R178: a tensor that a Fletcher operation reads as a trajectory, with extents that the rule does not allow. -/
def Plan.badTrajectory (p : Plan) (x : Nat) : Bool :=
  p.stages.any (fun s => s.ops.any (fun o => o.isFletcher && decide (o.inp 0 = x) && !trajectoryOk (p.desc (s.placement = 0) x).shape))

/-- R73: an operation of an ALL stage writes a tensor of HBM_JOB or HOST that is not sliced. -/
def Plan.unslicedWrite (p : Plan) (x : Nat) (t : TensorEnt) : Bool :=
  (t.sp = .hbmJob || t.sp = .host) && !t.sliced &&
    p.stages.any (fun s => decide (s.placement = 0) && s.ops.any (fun o => o.outputs.contains x))

/-- The tensors that a plan writes. -/
def Plan.written (p : Plan) : List Nat := (p.ops.flatMap OpRec.outputs).eraseDups

/-- Two tensors hold a byte in common: the same space, and for HOST the same buffer. -/
def Plan.overlap (p : Plan) (x y : Nat) : Bool :=
  match p.tensors[x]?, p.tensors[y]? with
  | some a, some b =>
    let o (t : TensorEnt) : Nat := if t.sp = .host then t.offset % 2 ^ 56 else t.offset
    a.sp = b.sp && (a.sp ≠ .host || decide (a.offset / 2 ^ 56 = b.offset / 2 ^ 56)) &&
      sectionsMeet (o a, p.bytesOf x) (o b, p.bytesOf y)
  | _, _ => false

/-- R746: the staging rows of an operation, as (first byte, bytes) of the accumulator region. -/
def Plan.stagingOf (p : Plan) (o : OpRec) : Nat × Nat :=
  if o.opcode = 0x0102 then (o.par 8 4 * 2048, o.par 0xC 2 * 2048)
  else if o.isMatrix && (p.tensors[o.out 0]?).map (·.sp) ≠ some Space.accumulator then (o.par 4 4 * 2048, o.par 2 2 * 2048)
  else (0, 0)

/-- The checks of the tensor table; `t` is its image offset. The spec names no code for an ACCUMULATOR offset that is no multiple of
2,048 (R131): it is refused here, with its `offset` field. The last extent of a block-scaled tensor is checked on the declared shape
alone, so a sliced one of rank 1 may have slices of a length that is no multiple of 32 (both DESIGN CHOICE, log entry 26). -/
def Plan.tensorFlaws (p : Plan) (t : Nat) : List Flaw :=
  let ents := p.tensors.zipIdx
  let wr := p.written
  ents.flatMap (fun (e, x) =>
    let a := t + 32 * x
    [flaw ((Fmt.ofCode (e.format % 16)).isNone = true ∨ 1 < (p.layouts x).length ∨ (e.scaled = true ∧ e.fmt = .iv16)) x a,
     flaw (e.rank < 1 ∨ 5 < e.rank) x (a + 1), flaw ((Space.ofCode e.space).isNone = true) x (a + 2),
     flaw ((e.dims.drop e.rank).any (fun d => d ≠ 1) = true ∨ (e.scaled = true ∧ e.shape.getLastD 0 % 32 ≠ 0) ∨
       (e.sliced = true ∧ e.shape.headD 0 % p.lcs ≠ 0) ∨ p.badTrajectory x = true) x (a + 4),
     flaw ((e.sp = .accumulator ∧ e.offset % 2048 ≠ 0) ∨ p.beyond x e = true) x (a + 0x18)]) ++
  ents.flatMap (fun (e, x) =>
    let a := t + 32 * x
    [flaw (e.sp = .hbmPlan ∧ wr.contains x = true) x (a + 2), flaw (p.unslicedWrite x e = true) x (a + 4),
     flaw (wr.contains x = true ∧ wr.any (fun y => decide (x < y) && p.overlap x y) = true) x (a + 0x18),
     flaw (e.sp = .accumulator ∧ p.ops.any (fun o => sectionsMeet (p.stagingOf o) (e.offset, p.bytesOf x)) = true) x (a + 0x18)])

/-- Code 0x06, TENSOR. -/
def Plan.tensorFault (p : Plan) (img : List Byte) : Option LoadFault := firstFlaw 6 (p.tensorFlaws (imgSection img 0x40).1)

/-! ### WEIGHTS (R741) -/

/-- Code 0x07, WEIGHTS. -/
def Plan.weightFault (p : Plan) (img blob : List Byte) : Option LoadFault :=
  let w := (imgSection img 0x60).1
  firstFlaw 7 (p.wrefs.zipIdx.flatMap (fun (r, i) =>
    let a := w + 32 * i
    let t := p.tensors[r.tensor]?
    [flaw (blob.length < r.blobOff + r.size) i a,
     flaw (t.map (·.sp) ≠ some Space.hbmPlan ∨ (p.wrefs.drop (i + 1)).any (fun q => q.tensor = r.tensor) = true) i (a + 0x10),
     flaw (t.map (fun e => canonBytes e.fmt e.scaled (elemCount e.shape)) ≠ some r.size) i (a + 8)]) ++
    [flaw (sha512 blob ≠ p.weightsDigest) noIndex 0x80])

/-! ### Resources (codes 0x08 to 0x0C) -/

/-- The persistent areas that plan slots hold, the same on every die: (first offset, bytes). -/
def State.planAreas (s : State) : List (Nat × Nat) :=
  s.plans.filterMap (fun e => match e.2.base, e.2.plan with | some b, some p => some (b, p.hbmPersist) | _, _ => none)

/-- The free plan region of a die. -/
def State.planFree (s : State) : Nat := s.regs.planBytes - (s.planAreas.map Prod.snd).foldl (· + ·) 0

/-- The need of a plan that exceeds what there is. `available` is given where a die is named, for code 0x0C, else 0 (R85). -/
def shortOf (code need have_ : Nat) (die : Nat := 0xFFFF) : Option LoadFault :=
  if have_ < need then
    some { code := code, index := noIndex, off := noOffset, required := need, available := if die = 0xFFFF then 0 else have_, die := die }
  else none

/-- Codes 0x08 to 0x0C. -/
def State.resourceFault (s : State) (p : Plan) : Option LoadFault :=
  match shortOf 8 p.spadPerLc 33554432 with
  | some f => some f
  | none =>
  match shortOf 9 p.accPerLc 2097152 with
  | some f => some f
  | none =>
  match shortOf 0xA p.wsPerSlice (1048576 - 16384 - s.regs.coarseRes * 16384) with
  | some f => some f
  | none =>
  match shortOf 0xB (p.hbmWork + p.lcs * (p.spadPerLc + p.accPerLc)) s.regs.poolBytes with
  | some f => some f
  | none => shortOf 0xC p.hbmPersist s.planFree (s.healthyDies.headD 0)

/-- Codes 0x04 to 0x06, in this order. -/
def Plan.structureFault (p : Plan) (img : List Byte) (slotBytes : Nat) : Option LoadFault :=
  match p.graphFault img with
  | some f => some f
  | none =>
    match p.opFault img slotBytes with
    | some f => some f
    | none => p.tensorFault img

end Sys2Proof.Machine
end

