-- ==== Sys2Proof/Machine/PlanJobs.lean ====
section
/-!
DEFINITION. LOAD_PLAN and DROP_PLAN: the plan slots (R76 to R87).
-/
namespace Sys2Proof.Machine

/-- A slot that holds no plan. -/
def PlanSlot.empty : PlanSlot :=
  { st := .free, owner := (0, 0), dropper := (0, 0), image := [], weights := [], plan := none, digest := [], keySlot := none,
    progress := 0, base := none }

/-- The state with a plan slot changed. -/
def State.modSlot (s : State) (i : Nat) (f : PlanSlot → PlanSlot) : State := { s with plans := s.plans.insert i (f (s.planSlot i)) }

/-- The state with a plan slot FREE. -/
def State.freeSlot (s : State) (i : Nat) : State := { s with plans := s.plans.erase i }

/-- The plan tag of a digest (R49). -/
def planTag (digest : List Byte) : Nat := leNat (digest.take 8)

/-- A job of a kind that runs and has come to a phase. -/
def State.inPhase (s : State) (q n kind phase : Nat) : Option Job :=
  match s.job q n with
  | some j => if j.st = .running && j.kind = kind && j.phase = phase then some j else none
  | none => none

/-- R552, R554: the digests of a job other than a RUN. -/
def State.sealOther (s : State) (j : Job) (plan weights extra : List Byte) (orderSens : Bool) : State :=
  s.modJob j.q j.s (fun k =>
    { k with planDigest := plan, weightsDigest := weights, inDigest := sha512 (slice k.desc 0x40 64 ++ extra),
             config := configWord k.replay orderSens s.n s.ident.stepping })

/-! ### Ends of a load -/

/-- R85: the load report. -/
def loadReport (f : Option LoadFault) (tag : Nat) : List Byte :=
  match f with
  | none => natLE 4 0 ++ natLE 4 noIndex ++ natLE 8 noOffset ++ zeros 16 ++ natLE 2 0xFFFF ++ zeros 6 ++ natLE 8 tag ++ zeros 16
  | some f =>
    natLE 4 f.code ++ natLE 4 f.index ++ natLE 8 f.off ++ natLE 8 f.required ++ natLE 8 f.available ++ natLE 2 f.die ++ zeros 30

/-- R85: the report, where the descriptor asks for one. -/
def State.writeReport (s : State) (j : Job) (f : Option LoadFault) (tag : Nat) : State :=
  if j.f 0x68 8 = 0 then s else s.jobWrite j.q j.s (j.f 0x68 8) (loadReport f tag)

/-- The DROP_PLAN jobs that wait on a slot. -/
def State.waitingDrops (s : State) (i : Nat) : List (Nat × Nat) :=
  (s.jobs.filter (fun j => j.st = .running && j.kind = 3 && j.phase = 1 && j.f 0x40 1 = i)).map (fun j => (j.q, j.s))

/-- R80: what a slot's end of LOADING means for the DROP_PLAN jobs that wait on it. Which of several becomes the recorded dropper of a
READY slot is left open: the first of the job list, which is in order of acceptance (DESIGN CHOICE, log entry 80). -/
def State.afterLoad (s : State) (i : Nat) : State :=
  let l := s.waitingDrops i
  match (s.planSlot i).st, l with
  | .free, l => l.foldl (fun s k => s.complete k.1 k.2 outDone) s
  | .ready, k :: _ => s.modSlot i (fun x => { x with st := .dropping, dropper := k })
  | _, _ => s

/-- R85, R440: the outcome of a refused load. -/
def refusedLoad (f : LoadFault) : CplFields := outErr 7 5 0x48 0xFFFFFFFF f.code f.off

/-- R86: a refusal: the slot returns to FREE, the report is written, the job completes MALFORMED. -/
def State.refuseLoad (s : State) (j : Job) (i : Nat) (f : LoadFault) : State :=
  (((s.freeSlot i).writeReport j (some f) 0).complete j.q j.s (refusedLoad f)).afterLoad i

/-- R86, R407: an image or weight blob that cannot be read. -/
def State.unreadableLoad (s : State) (j : Job) (i : Nat) : State := ((s.freeSlot i).complete j.q j.s outMemory).afterLoad i

/-- The job that fills a slot, while it loads and has come so far. -/
def State.loader (s : State) (i progress : Nat) : Option Job :=
  let x := s.planSlot i
  if x.st = .loading ∧ x.progress = progress then s.inPhase x.owner.1 x.owner.2 2 1 else none

/-! ### The steps of LOAD_PLAN (R81 to R83) -/

/-- LOAD_PLAN (R81, R82 step 1): the slot is checked and becomes LOADING. A replay against its own slot starts the load
again, or, when the slot is READY, completes at once. -/
def execLoadPlan (q n : Nat) (s : State) : Host.Outcome State Fault Refusal :=
  match s.inPhase q n 2 0 with
  | none => s.idle
  | some j =>
    let i := j.f 0x40 1
    let x := s.planSlot i
    let own := x.owner = (q, n)
    let begin_ (s : State) : State :=
      ((s.sealOther j (zeros 64) (zeros 64) [] false).modSlot i (fun _ => { PlanSlot.empty with st := .loading, owner := (q, n), progress := 1 })).setPhase q n 1
    match x.st with
    | .free => .next (begin_ s)
    | .loading =>
      if own then .next (begin_ s)
      else
        let f := LoadFault.at_ 1 noIndex noOffset
        (((s.sealOther j (zeros 64) (zeros 64) [] false).writeReport j (some f) 0).complete q n (refusedLoad f)).done
    | .ready =>
      if own then
        let tag := planTag x.digest
        let w := (x.plan.map (·.weightsDigest)).getD (zeros 64)
        let os := (x.plan.map (·.orderSensitive)).getD false
        (((s.sealOther j x.digest w [] os).writeReport j none tag).complete q n (outDone tag)).done
      else
        let f := LoadFault.at_ 1 noIndex noOffset
        (((s.sealOther j (zeros 64) (zeros 64) [] false).writeReport j (some f) 0).complete q n (refusedLoad f)).done
    | .dropping =>
      let f := LoadFault.at_ 1 noIndex noOffset
      (((s.sealOther j (zeros 64) (zeros 64) [] false).writeReport j (some f) 0).complete q n (refusedLoad f)).done

/-- Codes 0x04 to 0x06 on the image of a slot, which is checked then (R82 step 2). -/
def State.checkStructure (s : State) (j : Job) (i : Nat) (p : Plan) (img : List Byte) : State :=
  match p.structureFault img s.regs.warmSlotBytes with
  | some f => s.refuseLoad j i f
  | none => s.modSlot i (fun x => { x with progress := 3 })

/-- PLAN_IMAGE_FETCHED (R49, R82 step 2, R83): the image and its digest are complete; a signed image waits for its
signature. -/
def execPlanImageFetched (i : Nat) (hv : HostView) (s : State) : Host.Outcome State Fault Refusal :=
  match s.loader i 1 with
  | none => s.idle
  | some j =>
    (s.merge hv).cross [atEgress j.owner 2] fun s =>
    match s.readHost hv (j.f 0x48 8) (j.f 0x50 8) with
    | none => (s.unreadableLoad j i).done
    | some img =>
      let p := parsePlan img
      let digest := sha512 (digestSpan img)
      let s := (s.sealOther j digest p.weightsDigest [] p.orderSensitive).modSlot i (fun x =>
        { x with image := img, plan := some p, digest := digest })
      match imageFault img with
      | some f => (s.refuseLoad j i f).done
      | none =>
        match signatureFault img s.fuse.signRequired with
        | some f => (s.refuseLoad j i f).done
        | none =>
          if p.signed then
            .next (s.modSlot i (fun x => { x with progress := 2, keySlot := some (field img (imgSection img 0x70).1 1) }))
          else (s.checkStructure j i p img).done

/-- R659: the key of customer slot `c` on a die, when it is fused, unrevoked and loaded, in a state that uses customer slots. -/
def State.customerKey (s : State) (d c : Nat) : Option (List Byte) :=
  let x := s.die d
  let lc := s.lifecycle
  if lc = 1 ∨ lc = 2 ∨ lc = 3 then
    if (x.fuse.slotHash.getD c none).isSome && !bit x.fuse.revoked c then x.keys.getD (c + 1) none else none
  else none

/-- SIGNATURE_VERIFIED (R50, R83, R87): the signature over the plan digest is decided; then the rest of the structure. -/
def execSignatureVerified (i : Nat) (s : State) : Host.Outcome State Fault Refusal :=
  match s.loader i 2 with
  | none => s.idle
  | some j =>
    let x := s.planSlot i
    let o := (imgSection x.image 0x70).1
    let ok := match s.customerKey j.owner (x.keySlot.getD 0) with
      | some k => pssVerify k (slice x.image (o + 8) 512) x.digest
      | none => false
    match x.plan with
    | none => s.idle
    | some p =>
      s.cross [atVault j.owner 2] (fun s =>
        if ok then (s.checkStructure j i p x.image).done
        else (s.refuseLoad j i (LoadFault.at_ 3 noIndex o)).done)

/-- The persistent areas moved together at the start of the plan region on every die (log entry 6). -/
def State.compactPlans (s : State) : State :=
  let l := sortBy (fun (a b : Nat × Nat × Nat) => decide (a.2.1 < b.2.1))
    (s.plans.filterMap (fun e => match e.2.base, e.2.plan with | some b, some p => some (e.1, b, p.hbmPersist) | _, _ => none))
  (l.foldl (fun (acc : State × Nat) e =>
    let (s, at_) := acc
    let s := if e.2.1 = at_ then s else s.modDies (fun x => x.moveHbm e.2.1 at_ e.2.2)
    (s.modSlot e.1 (fun x => { x with base := some at_ }), at_ + e.2.2)) (s, s.regs.planBase)).1

/-- The lowest place in the plan region that is free for `n` bytes (log entry 6). -/
def State.planFit (s : State) (n : Nat) : Option Nat :=
  firstFit s.planAreas s.regs.planBase (s.regs.planBase + s.regs.planBytes) n

/-- R82 step 4: `hbm_persist` reserved. -/
def State.reservePlan (s : State) (i n : Nat) : State :=
  if (s.planFit n).isSome then s.modSlot i (fun x => { x with base := s.planFit n })
  else
    let t := s.compactPlans
    t.modSlot i (fun x => { x with base := t.planFit n })

/-- WEIGHT_BLOB_FETCHED (R82 steps 3 and 4): the blob is complete; references, digest and resources are checked, and the
persistent area is reserved. -/
def execWeightBlobFetched (i : Nat) (hv : HostView) (s : State) : Host.Outcome State Fault Refusal :=
  match s.loader i 3, (s.planSlot i).plan with
  | some j, some p =>
    (s.merge hv).cross [atEgress j.owner 2] fun s =>
    match s.readHost hv (j.f 0x58 8) (j.f 0x60 8) with
    | none => (s.unreadableLoad j i).done
    | some blob =>
      match p.weightFault (s.planSlot i).image blob with
      | some f => (s.refuseLoad j i f).done
      | none =>
        match s.resourceFault p with
        | some f => (s.refuseLoad j i f).done
        | none =>
          let s := s.reservePlan i p.hbmPersist
          .next (s.modSlot i (fun x => { x with weights := blob, progress := 5 }))
  | _, _ => s.idle

/-- R82 step 5, R741: the image copy and the weights in a die's persistent area; what no reference targets reads as zero. -/
def Die.storePlan (x : Die) (base : Nat) (p : Plan) (img blob : List Byte) : Die :=
  let x := (x.clearHbm base p.hbmPersist).writeHbm (base + p.imageCopy) img
  p.wrefs.foldl (fun x r =>
    match p.tensors[r.tensor]? with
    | some t => x.writeHbm (base + t.offset) (slice blob r.blobOff r.size)
    | none => x) x

/-- PLAN_REPLICATED (R82 steps 5 to 7): image and weights are on every healthy die; the slot is READY, the report is written,
the job completes. -/
def execPlanReplicated (i : Nat) (s : State) : Host.Outcome State Fault Refusal :=
  let x := s.planSlot i
  match s.loader i 5, x.plan, x.base with
  | some j, some p, some b =>
    let way (d : Nat) : List ArbReq := s.overUmlin j.owner d 1 b ++ atHbm d b p.hbmPersist (if d = j.owner then 2 else 3)
    s.cross (s.healthyDies.flatMap way) (fun s =>
      let s := s.healthyDies.foldl (fun s d => s.modDie d (fun y => y.storePlan b p x.image x.weights)) s
      let s := s.modSlot i (fun y => { y with st := .ready, progress := 0 })
      let tag := planTag x.digest
      (((s.writeReport j none tag).complete j.q j.s (outDone tag)).afterLoad i).done)
  | _, _, _ => s.idle

/-! ### DROP_PLAN (R79, R80) -/

/-- DROP_PLAN: the slot becomes DROPPING, or the job waits, or completes at once. -/
def execDropPlan (q n : Nat) (s : State) : Host.Outcome State Fault Refusal :=
  match s.inPhase q n 3 0 with
  | none => s.idle
  | some j =>
    let i := j.f 0x40 1
    match (s.planSlot i).st with
    | .free => (s.complete q n outDone).done
    | .ready => .next ((s.modSlot i (fun x => { x with st := .dropping, dropper := (q, n) })).setPhase q n 1)
    | _ => .next (s.setPhase q n 1)

/-- A plan slot is pinned (R78). -/
def State.planPinned (s : State) (i : Nat) : Bool :=
  s.jobs.any (fun j => j.pinPlan = some i) || s.unslotted.any (fun r => r.pinPlan = some i)

/-- DROP_PLAN_UNPINNED (R79 steps 2 to 5): no pin remains; the persistent HBM is released, the slot is FREE, and the jobs
that wait on the drop complete. -/
def execDropPlanUnpinned (i : Nat) (s : State) : Host.Outcome State Fault Refusal :=
  let x := s.planSlot i
  if x.st = .dropping ∧ s.planPinned i = false ∧ (s.inPhase x.dropper.1 x.dropper.2 3 1).isSome then
    (((s.freeSlot i)).afterLoad i).done
  else s.idle

end Sys2Proof.Machine
end

