-- ==== Sys2Proof/Machine/WorldBytes.lean ====
section
/-!
DEFINITION. The world region and the warm-start store as bytes of HBM (R174, R213, R215, R221, R245, R341, R358, R359): what a
byte of them holds, what a line written there makes of the structures, and which World Store line a line of HBM belongs to. Where
the device keeps each structure inside its region is its own affair (R359), so a constant without a body says it. The line that HBM
stores is the exclusive or of what the structures hold and of the die's `hbm` there, which is zero but for errors and for written
bytes that no structure has room for (log entry 46); the outer code is linear, so the code word of the sum is the sum of the words.
-/
namespace Sys2Proof.Machine

/-! ### Entries as bytes -/

/-- R213: an L1 entry. -/
def L1Ent.bytes (e : L1Ent) : List Byte :=
  natLE 4 (e.key + 2 ^ 27 * e.state) ++ natLE 2 e.bound ++ zeros 2 ++ natLE 4 e.brick ++ zeros 4 ++ natLE 8 e.vFrom ++ natLE 8 e.vUntil

/-- R215: an L0 entry with the index of the entry before it. -/
def L0Ent.bytes (e : L0Ent) (older : Nat) : List Byte :=
  natLE 2 e.d0 ++ natLE 1 e.kind ++ zeros 1 ++ natLE 4 older ++ natLE 8 e.vFrom

/-- R245: a moving-obstacle entry. -/
def Obstacle.bytes (o : Obstacle) : List Byte :=
  let f (v : Val) : List Byte := natLE 4 (f32.encode v)
  natLE 1 o.kind ++ zeros 1 ++ natLE 2 o.agent ++ f o.radius ++ o.a0.flatMap f ++ o.b0.flatMap f ++ o.vel.flatMap f ++
    f o.tStart ++ f o.tEnd ++ f o.grow ++ zeros 8

/-- R245: a slot beyond a table's count. -/
def unusedSlot : List Byte := 0xFF :: zeros 63

/-- The L0 entries of a cell, newest first, its own and the world-wide ones. -/
def Lattice.history (l : Lattice) (cell : Nat) : List L0Ent :=
  let own := l.l0.getD cell []
  sortBy (fun a b => decide (b.vFrom < a.vFrom)) (own ++ l.l0Base.filter (fun b => own.all (fun a => a.vFrom ≠ b.vFrom)))

/-- R215: byte `i` of a world's L0 history area: 9 entries of 16 bytes a cell, one for each of 8 retained versions and one for a version
under preparation, newest first, each naming the next (log entry 46). -/
def Lattice.l0Byte (l : Lattice) (i : Nat) : Byte :=
  let h := l.history (i / 144)
  let r := i / 16 % 9
  match h[r]? with
  | some e => (e.bytes (if r + 1 < h.length then i / 16 + 1 else 0xFFFFFFFF)).getD (i % 16) 0
  | none => 0

/-- R221: byte `i` of pseudo-channel `k`'s index partition. -/
def Lattice.indexByte (l : Lattice) (k i : Nat) : Byte :=
  match l.l1.get (k * 2 ^ l.indexLog2 * 8 + i / 32) with
  | some e => e.bytes.getD (i % 32) 0
  | none => 0

/-- R221: byte `i` of pseudo-channel `k`'s pool partition. -/
def Lattice.poolByte (l : Lattice) (k i : Nat) : Byte := (l.pool.getD (k * l.poolPart + i / 1024) []).getD (i % 1024) 0

/-- R231: byte `i` of a world's eight obstacle tables: the tables of the retained versions in ascending order. -/
def Lattice.obstacleByte (l : Lattice) (i : Nat) : Byte :=
  match l.tables[i / 262144]? with
  | some t => (((t.2[i % 262144 / 64]?).map Obstacle.bytes).getD unusedSlot).getD (i % 64) 0
  | none => 0

/-- The byte of a structure of a world in pseudo-channel `k`'s part. -/
def Lattice.placeByte (l : Lattice) (k kind i : Nat) : Byte :=
  match kind with
  | 1 => if i < 2 ^ (l.indexLog2 + 8) then l.indexByte k i else 0
  | 2 => if i < 1024 * l.poolPart then l.poolByte k i else 0
  | 3 => l.l0Byte i
  | 4 => l.obstacleByte i
  | _ => 0

/-! ### The world region -/

/-- Byte `o` of pseudo-channel `k` of die `d`, inside the world region: what the structure that lies there holds (R359). A place
that the constant names outside the pseudo-channel's own part of a world holds nothing. -/
def State.worldByte (s : State) (d k o : Nat) : Byte :=
  let (kind, n, i) := Config.worldPlace d k o
  if kind = 5 then (s.bodies.getD n { version := 0, record := [], loading := none }).record.getD i 0
  else match (s.die d).worlds.get n with
    | none => 0
    | some y =>
      y.lat.placeByte k kind i

/-- An HBM line of a die holds part of a World Store line: of a brick, or of a bucket of a probe window. -/
def State.lineUnder (s : State) (d line : Nat) (l : Nat × Nat) : Bool :=
  let (kind, n, i) := Config.worldPlace d l.1 (64 * l.2)
  let b := line % 2 ^ 25
  decide (64 * l.2 < s.regs.worldBytes / 32) && decide (l.1 = lineSlice line) && decide (n = lineWorld line) &&
    (if lineIsBrick line then decide (kind = 2 ∧ i / 1024 = b)
     else kind = 1 &&
      (let m := 2 ^ (((((s.die d).worlds.get n).map (fun y => y.lat.indexLog2))).getD 4)
       decide ((i / 256 + m - b % m) % m < 4)))

/-- What of an L0 cell a read of a version takes from HBM: the places in its history of the entries older than the resident one, up to
the entry found (R217, R248). -/
def DieWorld.l0Reads (y : DieWorld) (cell v : Nat) : List Nat :=
  let h := y.lat.history cell
  let resident := match y.coarse.l0.get cell, y.coarse.l0Base with
    | some e, _ => e.vFrom
    | none, some e => e.vFrom
    | none, none => 0
  (List.range ((h.findIdx (fun e => decide (e.vFrom ≤ v))) + 1)).filter (fun r =>
    match h[r]? with | some e => decide (e.vFrom < resident) | none => false)

/-- An HBM line of a die holds an entry that reads of these cells of a world in a version take from HBM. -/
def State.cellsUnder (s : State) (d w v : Nat) (cells : List Nat) (l : Nat × Nat) : Bool :=
  match (s.die d).worlds.get w with
  | none => false
  | some y => decide (64 * l.2 < s.regs.worldBytes / 32) && (List.range 4).any (fun b =>
      let (kind, n, i) := Config.worldPlace d l.1 (64 * l.2 + 16 * b)
      kind = 3 && n = w && cells.contains (i / 144) && (y.l0Reads (i / 144) v).contains (i / 16 % 9))

/-- The HBM lines under L0 entries that a read of these cells takes wait for a copy, or no read has met them since an injection. -/
def State.cellsWait (s : State) (d w v : Nat) (cells : List Nat) : Bool :=
  let x := s.die d
  (x.repairs.map Prod.fst ++ x.injected).any (s.cellsUnder d w v cells)

/-- A poisoned HBM line lies under such an entry. -/
def State.cellsPoisoned (s : State) (d w v : Nat) (cells : List Nat) : Bool := (s.die d).poison.any (s.cellsUnder d w v cells)

/-- The HBM lines under a World Store line that wait for a copy, or that no read has met since an injection (R280, R366). -/
def State.lineWaits (s : State) (d line : Nat) : Bool :=
  let x := s.die d
  (x.repairs.map Prod.fst ++ x.injected).any (s.lineUnder d line)

/-- A poisoned HBM line lies under a World Store line (R280, R367). -/
def State.linePoisoned (s : State) (d line : Nat) : Bool := (s.die d).poison.any (s.lineUnder d line)

/-- A World Store line written whole to HBM: the lines under it hold no error and no poison (R367). -/
def State.clearUnder (s : State) (d line : Nat) : State :=
  let under := s.lineUnder d line
  s.modDie d (fun x => { x with
    poison := x.poison.filter (fun l => !under l), injected := x.injected.filter (fun l => !under l),
    repairs := x.repairs.filter (fun e => !under e.1), hbm := x.hbm.filter (fun c => !under (lineOf (hbmOwner c.1).1)) })

/-! ### The warm-start store (R341) -/

/-- Byte `o` of the warm-start store of a die: a byte of the current or the previous generation of its slot, where the device keeps it. -/
def State.warmByte (s : State) (d o : Nat) : Byte :=
  let i := o / s.regs.warmSlotBytes
  let (old, b) := Config.warmPlace (o % s.regs.warmSlotBytes)
  let e := (s.die d).warm.getD i ⟨none, none⟩
  match (if old then e.prev else e.cur) with
  | some r => r.bytes.getD b 0
  | none => 0

/-! ### What a read of HBM finds -/

/-- A byte of the usable space lies in the world region or in a slot of the warm-start store. -/
def State.inStructures (s : State) (x : Nat) : Bool :=
  let r := s.regs
  decide (x < r.worldBytes) || decide (r.warmBase ≤ x ∧ x < r.warmBase + r.warmCount * r.warmSlotBytes)

/-- What the structures of a die hold at a byte of the usable space: 0 outside them. -/
def State.structByte (s : State) (d x : Nat) : Byte :=
  let r := s.regs
  if x < r.worldBytes then s.worldByte d (x / 1024 % 32) (x / 32768 * 1024 + x % 1024)
  else if s.inStructures x then s.warmByte d (x - r.warmBase)
  else 0

/-- Byte `x` of the usable space of a die, as its structures have it in the world region and the warm-start store, and as it is stored
elsewhere (R358). -/
def State.hbmByte (s : State) (d x : Nat) : Byte := s.structByte d x ^^^ (s.die d).hbm.get (hbmKey x)

/-! ### A line written over the structures (R362, R391) -/

/-- R213: an L1 entry of 32 bytes. -/
def L1Ent.ofBytes (b : List Byte) : L1Ent :=
  let k := field b 0 4
  ⟨k % 2 ^ 27, bitsOf k 29 27, field b 4 2, field b 8 4, field b 0x10 8, field b 0x18 8⟩

/-- R215: an L0 entry of 16 bytes, in the history of a cell that has an own entry of that version, or makes one. -/
def Lattice.putL0 (l : Lattice) (cell r : Nat) (b : List Byte) : Lattice :=
  match (l.history cell)[r]? with
  | none => l
  | some e => l.setL0 cell e.vFrom (field b 0 2) (field b 2 1)

/-- R245: entry `j` of the `n`-th obstacle table. -/
def Lattice.putObstacle (l : Lattice) (n j : Nat) (b : List Byte) : Lattice :=
  { l with tables := l.tables.zipIdx.map (fun (t, i) =>
      if i ≠ n then t
      else if j < t.2.length then (t.1, t.2.set j (parseObstacle b 0))
      else if field b 0 1 = 0xFF then t
      else (t.1, t.2 ++ List.replicate (j - t.2.length) (parseObstacle unusedSlot 0) ++ [parseObstacle b 0])) }

/-- The size of the entry that a kind of place belongs to. -/
def placeSize (kind : Nat) : Nat :=
  match kind with
  | 1 => 32
  | 3 => 16
  | 4 => 64
  | _ => 1

/-- A lattice with entry `e` of a kind of structure, in pseudo-channel `k`'s part, holding some bytes. -/
def Lattice.putPlace (l : Lattice) (k kind e : Nat) (b : List Byte) : Lattice :=
  match kind with
  | 1 =>
    let p := k * 2 ^ l.indexLog2 * 8 + e
    if 2 ^ (l.indexLog2 + 3) ≤ e then l
    else if bitsOf (field b 0 4) 29 27 = 0 then { l with l1 := l.l1.erase p } else { l with l1 := l.l1.insert p (L1Ent.ofBytes b) }
  | 2 => if 1024 * l.poolPart ≤ e then l else { l with pool := l.pool.update (k * l.poolPart + e / 1024) (fun br => br.set (e % 1024) (b.headD 0)) }
  | 3 => l.putL0 (e / 9) (e % 9) b
  | 4 => l.putObstacle (e / 4096) (e % 4096) b
  | _ => l

/-- The structures of a die take what a line of the world region holds now: each entry that lies in the line its bytes there. -/
def State.absorbWorld (s : State) (d : Nat) (l : Nat × Nat) : State :=
  let now := tabulate 64 (fun j => s.hbmByte d (lineOffset l + j))
  let place (j : Nat) : Nat × Nat × Nat := Config.worldPlace d l.1 (64 * l.2 + j)
  let ents := ((List.range 64).map (fun j => let (kind, n, i) := place j; (kind, n, i / placeSize kind))).eraseDups
  s.modDie d (fun x => { x with worlds := ents.foldl (fun ws (kind, n, e) => ws.update n (fun y =>
    let z := placeSize kind
    let b := tabulate z (fun t => match (List.range 64).find? (fun j => place j = (kind, n, e * z + t)) with
      | some j => now.getD j 0
      | none => y.lat.placeByte l.1 kind (e * z + t))
    { y with lat := y.lat.putPlace l.1 kind e b })) x.worlds })

/-- The warm-start store of a die takes what a line there holds now. -/
def State.absorbWarm (s : State) (d : Nat) (l : Nat × Nat) : State :=
  let o := lineOffset l - s.regs.warmBase
  let now := tabulate 64 (fun j => s.hbmByte d (lineOffset l + j))
  (List.range 64).foldl (fun s j =>
    let i := (o + j) / s.regs.warmSlotBytes
    let (old, b) := Config.warmPlace ((o + j) % s.regs.warmSlotBytes)
    let put (r : WarmRec) : WarmRec := { r with bytes := r.bytes.set b (now.getD j 0) }
    s.modDie d (fun x => { x with warm := x.warm.update i (fun e =>
      if old then { e with prev := e.prev.map put } else { e with cur := e.cur.map put }) })) s

/-- R362: a line that has been written or corrected is what later reads of the structures in it find; what no structure has room for
stays in the die's `hbm`. -/
def State.absorbLine (s : State) (d : Nat) (l : Nat × Nat) : State :=
  let a := lineOffset l
  let now := tabulate 64 (fun j => s.hbmByte d (a + j))
  if (s.die d).hbm.read (lineKey l.1 l.2) 64 = zeros 64 then s
  else if s.inStructures a then
    let t := if a < s.regs.worldBytes then s.absorbWorld d l else s.absorbWarm d l
    t.modDie d (fun x => x.writeLine l.1 l.2 (tabulate 64 (fun j => now.getD j 0 ^^^ t.structByte d (a + j))))
  else s

end Sys2Proof.Machine
end

