-- ==== Sys2Proof/Machine/WorldJobs.lean ====
section
/-!
DEFINITION. World jobs: LATTICE loads, updates, releases, body loads, and the steps of an application (R174 to R177, R223
to R248, R377).
-/
namespace Sys2Proof.Machine

/-! ### Refusals (R238) -/

/-- The descriptor field that a refusal names. -/
def worldField (code : Nat) : Nat :=
  match code with
  | 1 => 0x42 | 2 => 0x48 | 3 => 0x42 | 4 => 0x48 | 8 => 0x68 | 11 => 0x48
  | _ => 0x58

/-- R238, R440: the outcome of a refused world job. -/
def worldRefused (code detail index : Nat) : CplFields := outErr 7 6 (worldField code) index code detail

/-- A refusal with no offset and no index. -/
def worldPlain (code : Nat) : CplFields := worldRefused code 0 0xFFFFFFFF

/-- The model's own code of a die that has read a poisoned line: above every code of R238, so that each of them is reported before it. -/
def worldMemory : Nat := 16

/-- A refusal as (code, record offset, obstacle index). -/
abbrev WorldRefusal := Nat × Nat × Nat

/-- The lower code of two refusals. -/
def lowerRefusal (a b : Option WorldRefusal) : Option WorldRefusal :=
  match a, b with
  | some x, some y => if y.1 < x.1 then some y else some x
  | some x, none => some x
  | none, b => b

/-! ### Slots and versions -/

/-- The state with a world slot changed. -/
def State.modWorld (s : State) (w : Nat) (f : World → World) : State := { s with worlds := s.worlds.insert w (f (s.world w)) }

/-- A die's copy of a world changed; cached lines of pool slots that this frees are invalid (R228). -/
def Die.putWorld (x : Die) (w : Nat) (y : DieWorld) : Die := ({ x with worlds := x.worlds.insert w y } : Die).dropLines w

/-- R225: the versions retained once version `v` is visible. -/
def State.retainedAfter (s : State) (w v : Nat) : List Nat :=
  let x := s.world w
  ((v :: ((x.visible :: x.retained).filter (· ≠ 0)).take x.keep) ++ s.pinnedVersions w).eraseDups

/-- R225: the commit of version `v` keeps the count at 8 or below. -/
def State.versionRoom (s : State) (w v : Nat) : Bool := decide ((s.retainedAfter w v).length ≤ 8)

/-- The obstacle table of an update, over the table it keeps (R234, R245). -/
def WorldUpdate.table (u : WorldUpdate) (kept : List Obstacle) : List Obstacle :=
  if u.obstCount = 0xFFFFFFFF then kept else parseObstacles u.obstCount u.obst

/-- R246: what is wrong with the table. -/
def WorldUpdate.obstacleRefusal (u : WorldUpdate) : Option WorldRefusal :=
  if u.obstCount = 0xFFFFFFFF then none else (obstacleFault u.obstCount u.obst).map (fun i => (0x08, 0, i))

/-- R231: the reservations of a world fit beside those of the other slots. -/
def State.worldFits (s : State) (w : Nat) (h : List Byte) : Bool :=
  let others := s.worlds.filter (fun e => e.1 ≠ w && e.2.st ≠ .empty)
  let region := others.foldl (fun a e => a + worldBytes e.2.header) (worldBytes h)
  decide (region ≤ s.regs.worldBytes) && (List.range 32).all (fun k =>
    decide (others.foldl (fun a e => a + coarseBytes e.2.header e.1 k) (coarseBytes h w k) ≤ s.regs.coarseRes * 16384))

/-- R235, R236, R238: the refusals that a prepared version meets, for a load that is not prepared because it does not fit. -/
def WorldUpdate.dryRefusal (u : WorldUpdate) (w : Nat) : Option WorldRefusal :=
  let rs := u.records
  let (l, er) := rs.foldl (fun (acc : Lattice × PrepErr) r => acc.1.applyRecord acc.2 w u.version r)
    ((Lattice.blank u.header).beginLoad u.version, PrepErr.none)
  (prepRefusal er (l.solidCell u.version rs) none).map (fun e => (e.1, e.2, 0xFFFFFFFF))

/-! ### Application (R239) -/

/-- The GQU that serves a slice of a die. -/
def State.gquServing (s : State) (d k : Nat) : Nat := gquOf (s.die d).spares.gquFail k

/-- The next record of a prepare takes its lock (R375). -/
def State.lockNext (s : State) (d w : Nat) : State :=
  match (s.world w).update, (s.die d).worlds.get w with
  | some u, some y =>
    match u.records[y.applied]? with
    | some r => let pc := r.home w; s.lockPc d pc w (s.gquServing d pc)
    | none => s
  | _, _ => s

/-- How far a die has come, set. -/
def State.setApplied (s : State) (d w k : Nat) : State :=
  s.modWorld w (fun x => { x with update := x.update.map (fun u => { u with dies := u.dies.insert d k }) })

/-- R239 step 3: a die starts to prepare the version. -/
def State.startPrepare (s : State) (d w : Nat) : State :=
  match (s.world w).update with
  | none => s
  | some u =>
    let keep := s.retainedOf w
    let s := (s.setApplied d w 1).modDie d (fun x =>
      let y := x.worlds.getD w ⟨Lattice.blank u.header, Coarse.empty, 0, PrepErr.none, none, 0⟩
      let l := y.lat.reclaim w (u.version :: keep)
      let l := if u.load then l.beginLoad u.version else l
      let l := { l with tables := l.tables.insert u.version (u.table (l.tables.getD u.base [])) }
      x.putWorld w { y with lat := l, applied := 0, err := PrepErr.none, prepared := some u.version })
    s.lockNext d w

/-- R239 steps 1 to 3: the home die sends the data to every other healthy die and prepares its own copy. -/
def State.sendUpdate (s : State) (w : Nat) : State :=
  match (s.world w).update with
  | none => s
  | some u =>
    let home := ((s.job u.job.1 u.job.2).map (·.owner)).getD (s.healthyDies.headD 0)
    let s := s.modWorld w (fun x => { x with waitRoom := none, update := x.update.map (fun u =>
      { u with dies := s.healthyDies.map (fun d => (d, 0)) }) })
    s.startPrepare home w

/-- R225: an update begins application, or waits for room among the versions before it prepares. -/
def State.beginUpdate (s : State) (w : Nat) (u : WorldUpdate) : State :=
  let s := (s.modWorld w (fun x => { x with update := some u })).setPhase u.job.1 u.job.2 1
  if s.versionRoom w u.version then s.sendUpdate w else s.modWorld w (fun x => { x with waitRoom := some u.job })

/-- The delta list and the obstacle table of a job, with the bytes read; none where a read fails (R407). -/
def State.readWorldData (s : State) (hv : HostView) (j : Job) : Option (List Byte × List Byte) :=
  let n := j.f 0x64 4
  match s.readHost hv (j.f 0x58 8) (j.f 0x60 4),
      (if n = 0xFFFFFFFF then some [] else s.readHost hv (j.f 0x68 8) (64 * Min.min n 4096)) with
  | some d, some o => some (d, o)
  | _, _ => none

/-- The digests of a world job (R552). -/
def State.sealWorld (s : State) (j : Job) (extra : List Byte) : State := s.sealOther j (zeros 64) (zeros 64) extra false

/-- A world job that ends at once. -/
def State.endWorld (s : State) (j : Job) (extra : List Byte) (o : CplFields) : State :=
  (s.sealWorld j extra).complete j.q j.s o

/-- A world job under way of a kind and target, not yet begun. -/
def State.worldJob (s : State) (q n kind target phase : Nat) : Option Job :=
  match s.inPhase q n kind phase with
  | some j => if kind = 5 ∨ j.f 0x40 1 = target then some j else none
  | none => none

/-- The list of a world job is malformed: the offset of the first bad record (R232, RECORD). -/
def badRecord (h delta : List Byte) : Option Nat :=
  match parseDelta (fun i => field h (4 + 2 * i) 2) delta with
  | .ok _ => none
  | .error o => some o

/-- A version is discarded on every die (R237, R239). -/
def State.discardUpdate (s : State) (w : Nat) : State :=
  match (s.world w).update with
  | none => s
  | some u =>
    let s := (List.range s.n).foldl (fun s d => (s.unlockWorld d w).modDie d (fun x =>
      ({ x with worlds := x.worlds.update w (fun y =>
          if y.prepared = some u.version then
            { y with lat := y.lat.discard w u.version, prepared := none, applied := 0, err := PrepErr.none }
          else y) } : Die).dropLines w)) s
    s.modWorld w (fun x => { x with update := none, waitRoom := none })

/-! ### LATTICE loads (R229 to R231) -/

/-- A load against an EMPTY slot, or restarted on the slot it fills (R230, R231). -/
def State.loadBase (s : State) (hv : HostView) (j : Job) (w : Nat) : State :=
  let s := s.emptyWorld w
  match s.readHost hv (j.f 0x48 8) 64 with
  | none => s.endWorld j [] outMemory
  | some h =>
    if !headerOk h then s.endWorld j h (worldPlain 4)
    else match s.readWorldData hv j with
      | none => s.endWorld j h outMemory
      | some (delta, obst) =>
        let extra := h ++ delta ++ obst
        match badRecord h delta with
        | some o => s.endWorld j extra (worldRefused 5 o 0xFFFFFFFF)
        | none =>
          let u : WorldUpdate :=
            { job := (j.q, j.s), base := 0, version := j.f 0x50 8, load := true, header := h, delta := delta, obst := obst,
              obstCount := j.f 0x64 4, dies := [], refusal := none, lost := false }
          let u := { u with refusal := u.obstacleRefusal }
          if s.worldFits w h then
            let s := (s.sealWorld j extra).modWorld w (fun x => { x with st := .loading, header := h, owner := (j.q, j.s) })
            s.beginUpdate w u
          else match lowerRefusal (lowerRefusal u.refusal (u.dryRefusal w)) (some (0x0B, 0, 0xFFFFFFFF)) with
            | some r => s.endWorld j extra (worldRefused r.1 r.2.1 r.2.2)
            | none => s

/-- A load of a new version on a READY slot (R230). -/
def State.reload (s : State) (hv : HostView) (j : Job) (w : Nat) : State :=
  let x := s.world w
  match s.readHost hv (j.f 0x48 8) 64 with
  | none => s.endWorld j [] outMemory
  | some h =>
    if h ≠ x.header then s.endWorld j h (worldPlain 4)
    else match s.readWorldData hv j with
      | none => s.endWorld j h outMemory
      | some (delta, obst) =>
        let extra := h ++ delta ++ obst
        match badRecord h delta with
        | some o => s.endWorld j extra (worldRefused 5 o 0xFFFFFFFF)
        | none =>
          let u : WorldUpdate :=
            { job := (j.q, j.s), base := x.visible, version := j.f 0x50 8, load := true, header := h, delta := delta,
              obst := obst, obstCount := j.f 0x64 4, dies := [], refusal := none, lost := false }
          (s.sealWorld j extra).beginUpdate w { u with refusal := u.obstacleRefusal }

/-- LATTICE_LOAD (R230, R234: one application of a slot at a time). -/
def execLatticeLoad (q n : Nat) (hv : HostView) (s : State) : Host.Outcome State Fault Refusal :=
  match s.worldJob q n 4 0 0 with
  | none => s.idle
  | some j =>
    let w := j.f 0x42 2
    let x := s.world w
    let s := s.merge hv
    match x.st with
    | .empty => (s.loadBase hv j w).done
    | .loading =>
      if x.owner = (q, n) then (((s.discardUpdate w)).loadBase hv j w).done else (s.endWorld j [] (worldPlain 3)).done
    | .ready =>
      if j.f 0x50 8 ≤ x.visible then (s.endWorld j [] outDone).done
      else if x.update.isSome then s.idle
      else (s.reload hv j w).done
    | .releasing => (s.endWorld j [] (worldPlain 3)).done

/-! ### Updates (R234) -/

/-- WORLD_UPDATE (R234): the checks at the beginning of its application. -/
def execWorldUpdate (q n : Nat) (hv : HostView) (s : State) : Host.Outcome State Fault Refusal :=
  match s.worldJob q n 5 0 0 with
  | none => s.idle
  | some j =>
    let w := j.f 0x42 2
    let x := s.world w
    let v := j.f 0x50 8
    let s := s.merge hv
    if x.st ≠ .ready then (s.endWorld j [] (worldPlain 1)).done
    else if x.update.isSome then s.idle
    else if v ≤ x.visible then (s.endWorld j [] outDone).done
    else if j.f 0x48 8 ≠ x.visible then (s.endWorld j [] (worldPlain 2)).done
    else match s.readWorldData hv j with
      | none => (s.endWorld j [] outMemory).done
      | some (delta, obst) =>
        match badRecord x.header delta with
        | some o => (s.endWorld j (delta ++ obst) (worldRefused 5 o 0xFFFFFFFF)).done
        | none =>
          let u : WorldUpdate :=
            { job := (q, n), base := x.visible, version := v, load := false, header := x.header, delta := delta, obst := obst,
              obstCount := j.f 0x64 4, dies := [], refusal := none, lost := false }
          ((s.sealWorld j (delta ++ obst)).beginUpdate w { u with refusal := u.obstacleRefusal }).done

/-- R239: the home die of an application: that of its job's queue. -/
def State.homeOf (s : State) (u : WorldUpdate) : Nat := (s.queue u.job.1).entry.homeDie

/-- R241: the home die of an application lives. While it does not, no step that it takes part in happens, until the supervisor has
inspected the survivors. -/
def State.homeLives (s : State) (u : WorldUpdate) : Bool := s.healthy (s.homeOf u)

/-- WORLD_VERSION_ROOM (R225): a pin release has left room; the waiting update proceeds to prepare. -/
def execWorldVersionRoom (w : Nat) (s : State) : Host.Outcome State Fault Refusal :=
  match (s.world w).waitRoom, (s.world w).update with
  | some _, some u => if s.versionRoom w u.version && s.homeLives u then .next (s.sendUpdate w) else s.idle
  | _, _ => s.idle

/-- A die has come to a step of the update of a world. -/
def State.appliedTo (s : State) (d w k : Nat) : Option WorldUpdate :=
  match (s.world w).update with
  | some u => if s.healthy d && u.dies.get d = some k then some u else none
  | none => none

/-- WORLD_DATA_RECEIVED (R239 steps 2, 3): the header, the delta list and the obstacle table arrive, in class DATA. -/
def execWorldDataReceived (d w : Nat) (s : State) : Host.Outcome State Fault Refusal :=
  match s.appliedTo d w 0 with
  | some u => if s.homeLives u then s.cross (s.overUmlin (s.homeOf u) d 1 w) (fun s => .next (s.startPrepare d w)) else s.idle
  | none => s.idle

/-- A step of a prepare meets a poisoned line (R366, R367): the die reports it, and the job will complete MEMORY_ERROR. -/
def State.prepareSpoilt (s : State) (d w : Nat) : State :=
  ((s.unlockWorld d w).setApplied d w 3).modWorld w (fun x => { x with update := x.update.map (fun u =>
    { u with refusal := lowerRefusal u.refusal (some (worldMemory, 0, 0xFFFFFFFF)) }) })

/-- WORLD_RECORD_APPLY (R228, R232, R233, R239 step 3, R348, R366, R367): the next record is applied under its lock. It waits while a line
that it reads waits for a repair or for the read that meets an injection, and a poisoned line spoils the prepare; a brick is written whole.
Where a write of its sequence meets another at one word `hit` of the World Store slice and is discarded, BANK_COLLISION is logged and the
job is replayed as after a lost lock (R377; log entry 11). -/
def execWorldRecordApply (d w : Nat) (s : State) (hit : Option Nat := none) : Host.Outcome State Fault Refusal :=
  match s.appliedTo d w 1, (s.die d).worlds.get w with
  | some u, some y =>
    match (if (s.die d).passDone then u.records[y.applied]? else none) with
    | none => s.idle
    | some r =>
      let pc := r.home w
      let s := if (((s.die d).arb pc).lock).isNone then s.lockPc d pc w (s.gquServing d pc) else s
      let mine : Bool := match ((s.die d).arb pc).lock with | some (o, _) => o / 64 = w | none => false
      let reads := y.lat.recordLines w u.version r
      if !mine || reads.any (s.lineWaits d) then .next s
      else if reads.any (s.linePoisoned d) then .next (s.prepareSpoilt d w)
      else if let some word := hit then
        .next (((s.logErr d 0x0012 (unitCode 7 pc) word (some u.job)).unlockWorld d w).setApplied d w 2)
      else
        let l0 := y.lat.reclaim w (u.version :: s.retainedOf w)
        let (l, er) := l0.applyRecord y.err w u.version r
        let s := s.modDie d (fun x => (x.putWorld w { y with lat := l0 }).putWorld w { y with lat := l, err := er, applied := y.applied + 1 })
        let s := match l.brickPut w u.version r with | some b => s.clearUnder d b | none => s
        .next ((s.unlockWorld d w).lockNext d w)
  | _, _ => s.idle

/-- PREPARED (R235, R239 step 3): every record is applied; the die settles the L0 cells and its report reaches the home die. -/
def execPrepared (d w : Nat) (s : State) : Host.Outcome State Fault Refusal :=
  match s.appliedTo d w 1, (s.die d).worlds.get w with
  | some u, some y =>
    let rs := u.records
    if rs.length ≤ y.applied ∧ s.homeLives u = true then
      let found := (prepRefusal y.err (y.lat.solidCell u.version rs) none).map (fun e => (e.1, e.2, 0xFFFFFFFF))
      let s := s.modDie d (fun x => { x with worlds := x.worlds.insert w { y with lat := y.lat.settle u.version rs } })
      .next ((s.setApplied d w 3).modWorld w (fun x => { x with update := x.update.map (fun u =>
        { u with refusal := lowerRefusal u.refusal found }) }))
    else s.idle
  | _, _ => s.idle

/-- PREPARE_LOST (R377): the die's report of a lost lock reaches the home die. -/
def execPrepareLost (d w : Nat) (s : State) : Host.Outcome State Fault Refusal :=
  match s.appliedTo d w 2 with
  | some u =>
    if s.homeLives u then
      .next ((s.setApplied d w 3).modWorld w (fun x => { x with update := x.update.map (fun u => { u with lost := true }) }))
    else s.idle
  | none => s.idle

/-- Every healthy die has come at least so far. -/
def State.allApplied (s : State) (u : WorldUpdate) (k : Nat) : Bool :=
  s.healthyDies.all (fun d => match u.dies.get d with | some x => decide (k ≤ x) | none => true) && !u.dies.isEmpty

/-- The ports that an ABANDON of an update passes: from its home die to every other healthy one. -/
def State.abandonWay (s : State) (w : Nat) (u : WorldUpdate) : List ArbReq :=
  s.healthyDies.flatMap (fun d => s.overUmlin (s.homeOf u) d 0 w)

/-- R376: a GQU that finds its lock orphaned is refused with LOCK_LOST and its port is reset; the jobs of the tests and fragments that it
held are dispatched again. It goes on with its sequence at once, so this follows the release of the lock in one command (DESIGN CHOICE,
log entry 11). -/
def State.replayHeld (s : State) (d g : Nat) : State :=
  let holds (t : GeoTest) : Bool := decide (1 ≤ t.phase) && (t.gqu = g || t.frags.any (fun k => gquOf t.map (brickHome t.world k) = g) ||
    t.waits.any (fun l => gquOf t.map (lineSlice l.2) = g))
  s.redispatchAll (((s.die d).tests.filter holds).map (fun t => (t.r.q, t.r.s))).eraseDups

/-- LOCK_MAX_HOLD (R375, R376): a lock has been held for ARB_LOCK_MAX cycles of its arbiter's clock. The jobs whose work its owner held are
dispatched again: those of a GQU's tests, an ATTEST that the signing engine signs. -/
def execLockMaxHold (d n : Nat) (s : State) : Host.Outcome State Fault Refusal :=
  let a := (s.die d).arb n
  match a.lock with
  | none => s.idle
  | some (o, t) =>
    if s.healthy d && decide (a.lockMax ≤ arbClock n * (s.now - t)) then
      let s := s.orphanLock d n
      if o < worldOwners then (s.replayHeld d (o % 64)).issueAll.done
      else if o = vaultOwner 2 then
        (s.redispatchAll ((s.jobs.filter (fun j => j.st = .running && j.kind = 10 && j.owner = d)).map (fun j => (j.q, j.s)))).done
      else .next s
    else s.idle

/-- A base load that is not applied leaves its slot EMPTY (R223). -/
def State.unload (s : State) (w : Nat) : State := if (s.world w).st = .loading then s.emptyWorld w else s

/-- ABANDON (R239 step 4, R377): the home die sends it in class CTRL, and the prepared version is discarded on every die. The job completes
with the lowest refusal, or MEMORY_ERROR where a die has read a poisoned line (R366), or, after a lost lock, is dispatched again. -/
def execAbandon (w : Nat) (s : State) : Host.Outcome State Fault Refusal :=
  match (s.world w).update with
  | none => s.idle
  | some u =>
    if !s.homeLives u then s.idle
    else if u.lost then
      s.cross (s.abandonWay w u) fun s => ((s.discardUpdate w).redispatch u.job.1 u.job.2).done
    else match u.refusal with
      | some r =>
        if s.allApplied u 3 then
          s.cross (s.abandonWay w u) fun s =>
            (((s.discardUpdate w).unload w).complete u.job.1 u.job.2
              (if r.1 = worldMemory then outMemory else worldRefused r.1 r.2.1 r.2.2)).done
        else s.idle
      | none => s.idle

/-- COMMIT (R225, R239 step 5): every die is prepared; a die marks the version committed. A RUN that has pinned a version since the prepare
holds each commit back while it would leave more than 8 versions retained. -/
def execCommit (d w : Nat) (s : State) : Host.Outcome State Fault Refusal :=
  match s.appliedTo d w 3 with
  | some u => if s.homeLives u && u.refusal.isNone && !u.lost && s.allApplied u 3 && s.versionRoom w u.version then
      s.cross (s.overUmlin (s.homeOf u) d 0 w) (fun s => .next (s.setApplied d w 4))
    else s.idle
  | none => s.idle

/-- COMMIT_ACK (R239 steps 5, 6). -/
def execCommitAck (d w : Nat) (s : State) : Host.Outcome State Fault Refusal :=
  match s.appliedTo d w 4 with
  | some u => if s.homeLives u then .next (s.setApplied d w 5) else s.idle
  | none => s.idle

/-- R239 step 6: a die makes the version its visible one: the coarse level is refreshed (R248), the GQUs' L0 caches forget the world
(R279). -/
def State.showVersion (s : State) (d w v : Nat) : State :=
  s.modDie d (fun x => ({ x with worlds := x.worlds.update w (fun y =>
    { y with visible := v, prepared := none, applied := 0, coarse := y.lat.coarse v }) } : Die).dropL0 w)

/-- R225, R228, R239 steps 6 and 7, R497: every die shows the version: it is the slot's visible version, what is no longer
retained is reclaimed, the slot's fences are evaluated and the job completes. -/
def State.finishUpdate (s : State) (w : Nat) : State :=
  match (s.world w).update with
  | none => s
  | some u =>
    let s := s.modWorld w (fun x =>
      { x with st := .ready, visible := u.version, retained := ((x.visible :: x.retained).filter (· ≠ 0)).take x.keep,
               update := none })
    let keep := s.retainedOf w
    let s := s.modDies (fun x => ({ x with worlds := x.worlds.update w (fun y => { y with lat := y.lat.reclaim w keep }) } : Die).dropLines w)
    let s := s.noticeWorld w
    match s.job u.job.1 u.job.2 with
    | some j => if j.st = .running && j.phase = 1 then s.complete j.q j.s outDone else s
    | none => s

/-- VISIBLE (R225, R239 steps 6 and 7): a version that a RUN has pinned meanwhile is waited for as at the commit. -/
def execVisible (d w : Nat) (s : State) : Host.Outcome State Fault Refusal :=
  match (s.world w).update with
  | none => s.idle
  | some u =>
    if s.healthy d && s.homeLives u && (u.dies.get d = some 5 || u.dies.get d = some 6) && s.allApplied u 5 && s.versionRoom w u.version then
      s.cross (s.overUmlin (s.homeOf u) d 0 w) (fun s =>
        let s := (s.setApplied d w 6).showVersion d w u.version
        (match (s.world w).update with
         | some u => if s.allApplied u 6 then s.finishUpdate w else s
         | none => s).done)
    else s.idle

/-- R241: the application of a job whose home die has failed: completed where a survivor has committed, once there is room for the
version (R225), else discarded. -/
def State.settleUpdate (s : State) (w : Nat) : State :=
  match (s.world w).update with
  | none => s
  | some u =>
    if s.healthyDies.any (fun d => match u.dies.get d with | some k => decide (4 ≤ k) | none => false) then
      if s.versionRoom w u.version then (s.healthyDies.foldl (fun s d => s.showVersion d w u.version) s).finishUpdate w
      else s.healthyDies.foldl (fun s d => s.setApplied d w 5) s
    else s.discardUpdate w

/-! ### RELEASE (R244) -/

/-- RELEASE. -/
def execRelease (q n : Nat) (s : State) : Host.Outcome State Fault Refusal :=
  match s.worldJob q n 4 2 0 with
  | none => s.idle
  | some j =>
    let w := j.f 0x42 2
    let x := s.world w
    match x.st with
    | .empty => (s.endWorld j [] outDone).done
    | .loading => (s.endWorld j [] (worldPlain 3)).done
    | .ready =>
      if x.update.isSome then s.idle
      else .next (((s.sealWorld j []).modWorld w (fun x => { x with st := .releasing, owner := (q, n) })).setPhase q n 1)
    | .releasing =>
      if x.owner = (q, n) then .next ((s.sealWorld j []).setPhase q n 1) else (s.endWorld j [] (worldPlain 3)).done

/-- RELEASE_UNPINNED (R244 steps 3 to 5): no pins remain. -/
def execReleaseUnpinned (w : Nat) (s : State) : Host.Outcome State Fault Refusal :=
  let x := s.world w
  match s.worldJob x.owner.1 x.owner.2 4 2 1 with
  | some j =>
    if x.st = .releasing ∧ (s.pinnedVersions w).isEmpty then ((s.emptyWorld w).complete j.q j.s outDone).done else s.idle
  | none => s.idle

/-! ### Body models (R174 to R176) -/

/-- The state with a body slot changed. -/
def State.modBody (s : State) (b : Nat) (f : BodySlot → BodySlot) : State := { s with bodies := s.bodies.insert b (f (s.body b)) }

/-- BODY_LOAD (R173, R175): the record is checked; a newer version starts to replicate. -/
def execBodyLoad (q n : Nat) (hv : HostView) (s : State) : Host.Outcome State Fault Refusal :=
  match s.worldJob q n 4 1 0 with
  | none => s.idle
  | some j =>
    let b := j.f 0x42 2
    let x := s.body b
    let v := j.f 0x50 8
    let s := s.merge hv
    if (match x.loading with | some (k, _, _) => decide (k ≠ (q, n)) | none => false) then s.idle
    else match s.readHost hv (j.f 0x48 8) bodyBytes with
      | none => (s.endWorld j [] outMemory).done
      | some r =>
        if !bodyValid r then (s.endWorld j r (outField 0x48 fcContent)).done
        else if !x.record.isEmpty && decide (v ≤ x.version) then (s.endWorld j r outDone).done
        else .next (((s.sealWorld j r).modBody b (fun x => { x with loading := some ((q, n), v, r) })).setPhase q n 1)

/-- BODY_REPLICATED (R176): the new model is on every healthy die. -/
def execBodyReplicated (b : Nat) (s : State) : Host.Outcome State Fault Refusal :=
  match (s.body b).loading with
  | some (k, v, r) =>
    match s.worldJob k.1 k.2 4 1 1 with
    | some j =>
      s.cross (s.healthyDies.flatMap (fun d => s.overUmlin j.owner d 1 b)) (fun s =>
        ((s.modBody b (fun _ => { version := v, record := r, loading := none })).complete j.q j.s outDone).done)
    | none => s.idle
  | none => s.idle

end Sys2Proof.Machine
end

