-- ==== Sys2Proof/Machine/MemoryOps.lean ====
section
/-!
DEFINITION. HBM lines read through their codes (R363 to R367), BAR2 (R390, R391), bank states (R353, R354), the age
limit of DMA requests (R350).
-/
namespace Sys2Proof.Machine

/-! ### Lines (R363 to R367) -/

/-- The symbols and XOR bytes that an injection slot names (R651). -/
def InjSlot.symbols (i : InjSlot) : List (Nat × Nat) :=
  ((List.range 4).map (fun k => (bitsOf i.mask (8 * k + 6) (8 * k), bitsOf i.mask (8 * k + 39) (8 * k + 32)))).filter (fun e => e.1 < 68)

/-- The line that an injection slot names (R651), in a pseudo-channel. -/
def InjSlot.line (i : InjSlot) : Nat × Nat := (i.where_ % 32, i.where_ / 32 % 2 ^ 24)

/-- A word with symbols changed. -/
def flipSymbols (w : List Byte) (es : List (Nat × Nat)) : List Byte := es.foldl (fun w e => rsFlip w e.1 e.2) w

/-- R367, R366: a job that consumes poisoned data completes MEMORY_ERROR. -/
def State.consumePoison (s : State) (job : Option (Nat × Nat)) : State :=
  match job with
  | none => s
  | some (q, n) =>
    match s.job q n with
    | some j => if j.st = .running then s.complete q n outMemory else s
    | none => s

/-- R367: a line enters the poison list of its pseudo-channel; a list that overflows costs the die (R634). -/
def State.poisonLine (s : State) (d : Nat) (l : Nat × Nat) (job : Option (Nat × Nat)) (inj : Bool) : State :=
  let x := s.die d
  if 256 ≤ (x.poison.filter (fun m => m.1 = l.1)).length then
    (s.logErr d 0x0028 (unitCode 8 l.1) l.1 none inj).loseDie d 0x0028 inj
  else
    let s := s.modDie d (fun x => { x with poison := x.poison ++ [l], injected := x.injected.filter (· ≠ l) })
    (s.logErr d 0x0015 (unitCode 8 l.1) (64 * l.2) job inj).consumePoison job

/-- A healthy die whose copy of a line can be read (R366). -/
def State.copyOf (s : State) (d : Nat) (l : Nat × Nat) : Option Nat :=
  s.healthyDies.find? (fun e => e ≠ d && !(s.die e).poison.contains l &&
    rsDecode s.regs.corrDepth ((s.die e).codeword l.1 l.2) ≠ .uncorrectable)

/-- A line that the outer code cannot correct (R366): a replicated structure waits for a healthy die's copy, records of the
trace region are lost, everything else is poisoned. -/
def State.lineFails (s : State) (d : Nat) (l : Nat × Nat) (job : Option (Nat × Nat)) (inj : Bool) : State :=
  let r := s.regs
  let a := lineOffset l
  if r.traceBase ≤ a ∧ a < r.warmBase then
    let (k, s) := s.fresh
    (s.modDie d (fun x => x.writeLine l.1 l.2 (tabulate 64 (Config.undefinedByte k)))).logErr d 0x0009 (unitCode 8 l.1) (64 * l.2) none inj
  else if (r.poolBase ≤ a ∧ a < r.traceBase) ∨ (s.copyOf d l).isNone then s.poisonLine d l job inj
  else s.modDie d (fun x => { x with
    injected := (x.injected.filter (· ≠ l)) ++ (if inj then [l] else []), repairs := (x.repairs.filter (fun e => e.1 ≠ l)) ++ [(l, job)] })

/-- The armed HBM_INNER injection for a line (R651). -/
def Die.innerSlot (x : Die) (l : Nat × Nat) : Option Nat := x.liveInjection 4 (fun y => y.line = l)

/-- What the outer code makes of a line's read: its bytes as stored, the symbols in error, and those of an armed HBM_INNER injection. -/
def State.lineOutcome (s : State) (d : Nat) (l : Nat × Nat) (errs : List (Nat × Nat)) : RsOutcome :=
  let x := s.die d
  rsDecode s.regs.corrDepth (flipSymbols (x.codeword l.1 l.2) (errs ++ ((x.innerSlot l).map (fun i => (x.inj.getD i InjSlot.reset).symbols)).getD []))

/-- A line read: `errs` are the symbols in error as stored, `sev` the stack's severity report. -/
def State.readLineOf (s : State) (d : Nat) (l : Nat × Nat) (errs : List (Nat × Nat)) (sev : Nat) (job : Option (Nat × Nat)) : State :=
  let x := s.die d
  if x.poison.contains l then s.consumePoison job
  else if x.repairs.any (fun e => e.1 = l) then s
  else
    let inner := x.innerSlot l
    let y := (inner.map (fun i => x.inj.getD i InjSlot.reset)).getD InjSlot.reset
    let out := s.lineOutcome d l errs
    let sev := if inner.isSome then (if y.op = 1 then 2 else 1) else sev
    let inj := inner.isSome || x.injected.contains l
    let s := match inner with | some i => s.spendInjection d i | none => s
    let s := s.modDie d (fun x => { x with innerSev :=
      (x.innerSev.filter (fun e => (e.1, e.2.1) ≠ l)) ++ (if sev = 0 then [] else [(l.1, l.2, sev)]) })
    match out with
    | .clean => s.modDie d (fun x => { x with injected := x.injected.filter (· ≠ l) })
    | .corrected v =>
      let s := (s.modDie d (fun x => x.writeLine l.1 l.2 (v.take 64))).absorbLine d l
      if (s.die d).corrLogged.contains l then s
      else (s.modDie d (fun x => { x with corrLogged := x.corrLogged ++ [l] })).logErr d 0x0002 (unitCode 8 l.1) (64 * l.2) job inj
    | .uncorrectable => s.lineFails d l job inj

/-- HBM_READ_OUTCOME (R363, R365, R366): a line is read, for a job or none. -/
def execHbmReadOutcome (d pc line : Nat) (errs : List (Nat × Nat)) (sev : Nat) (job : Option (Nat × Nat)) (s : State) :
    Host.Outcome State Fault Refusal :=
  if s.healthy d && s.boot.memReady then
    s.cross [atPc d pc (if job.isSome then 1 else 2)] (fun s => (s.readLineOf d (pc, line) errs sev job).issueAll.done)
  else s.idle

/-- A line and the read that waits for it repaired from a healthy die's copy (R366); where none is left, the line is
poisoned. -/
def State.repairLine (s : State) (d : Nat) (l : Nat × Nat) : State :=
  match (s.die d).repairs.find? (fun e => e.1 = l) with
  | none => s
  | some (_, job) =>
    let inj := (s.die d).injected.contains l
    let s := s.modDie d (fun x => { x with repairs := x.repairs.filter (fun e => e.1 ≠ l) })
    match s.copyOf d l with
    | some e =>
      let bs := (s.die e).lineData s.regs.corrDepth l.1 l.2
      ((s.modDie d (fun x => x.writeLine l.1 l.2 bs)).absorbLine d l).logErr d 0x0014 (unitCode 8 l.1) (64 * l.2) job inj
    | none => s.poisonLine d l job inj

/-- HBM_REPAIRED (R366): the copy arrives. -/
def execHbmRepaired (d pc line : Nat) (s : State) : Host.Outcome State Fault Refusal :=
  if s.healthy d then (s.repairLine d (pc, line)).issueAll.done else s.idle

/-- The lines of a range that no read has met since an injection are read, and repaired where that is needed. -/
def State.meetLines (s : State) (d x n : Nat) : State :=
  if (s.die d).unread x n then
    (linesOf x n).foldl (fun s l => if (s.die d).injected.contains l || ((s.die d).innerSlot l).isSome then
      (s.readLineOf d l [] 0 none).repairLine d l else s) s
  else s

/-- Bytes written over a range of a die's usable space, whose lines covered in part are read first. -/
def State.mergeHbm (s : State) (d x : Nat) (bs : List Byte) : State :=
  let s := (partLines x bs.length).foldl (fun s a => s.meetLines d a 1) s
  let under := bs.zipIdx.map (fun (b, i) => b ^^^ s.structByte d (x + i))
  let s := s.modDie d (fun y => y.writeHbm x under)
  if s.inStructures x || s.inStructures (x + bs.length - 1) then (linesOf x bs.length).foldl (fun s l => s.absorbLine d l) s else s

/-! ### BAR2 (R390, R391) -/

/-- A BAR2 access is taken: the fuse, a port, firmware, a die of the part. -/
def State.bar2Takes (s : State) (p : Nat) : Bool :=
  s.takes p && s.fuse.bar2Enable && s.healthy s.regs.bar2Die

/-- BAR2_READ (R390): the bytes at an offset, 0 beyond the usable space, all ones for each 32-bit half of a poisoned
line, with one BAR2_POISON record a poisoned read. -/
def execBar2Read (p off n : Nat) (s : State) : Host.Outcome State Fault Refusal :=
  if s.bar2Takes p then
    let d := s.regs.bar2Die
    s.cross (atHbm d off (Min.min n (hbmUsable - off)) 2) fun s =>
    let s := s.meetLines d off (Min.min n (hbmUsable - off))
    let x := s.die d
    let bs := tabulate n (fun i =>
      if hbmUsable ≤ off + i then (0 : Byte)
      else if x.poison.any (fun l => l = lineOf (off + i)) then 0xFF else s.hbmByte d (off + i))
    let s := if x.poisoned off (Min.min n (hbmUsable - off)) then
        s.logErr d 0x000A (unitCode 8 (lineOf off).1) off else s
    .next (s.modRegs (fun r => { r with readData := bs }))
  else s.idle

/-- BAR2_WRITE (R391): into the job pool and the trace region, in FIELD_DEBUG anywhere; the outer code is computed and
a full line leaves the poison list (R367); a line covered in part is read first; elsewhere BAR2_REFUSED. -/
def execBar2Write (p off : Nat) (bytes : List Byte) (s : State) : Host.Outcome State Fault Refusal :=
  if s.bar2Takes p then
    let bs := bytes.take (hbmUsable - off)
    let r := s.regs
    if s.sec.debug || (decide (r.poolBase ≤ off) && decide (off + bs.length ≤ r.warmBase)) || bs.isEmpty then
      s.cross (atHbm r.bar2Die off bs.length 2) fun s => .next (s.mergeHbm r.bar2Die off bs)
    else .next ((s.modRegs (fun r => { r with bar2Refused := true })).raised 1)
  else s.idle

/-! ### Banks (R353, R354) and DMA (R350) -/

/-- The flips of the scratchpad of a cluster's banks that lose their contents are gone. -/
def Die.bankOff (x : Die) (c : Nat) : Die :=
  { x with clusters := x.clusters.modify c (fun k => { k with banks := List.replicate 66 2 })
           flips := x.flips.filter (fun f => !(f.mem = 0 && f.cl = c)) }

/-- BANK_IDLE (R354): the banks of an idle cluster go to Retention while it holds a region, else Off, where they are free for
Tinker and their test intervals start again (R356, R596). -/
def execBankIdle (d c : Nat) (s : State) : Host.Outcome State Fault Refusal :=
  let k := (s.die d).cluster c
  let waited := s.now - k.idleSince
  if !s.healthy d || s.clusterBusy d c then s.idle
  else if s.clusterHeld d c then
    if s.regs.retIdle * countsPerUs ≤ waited then
      .next (s.modDie d (fun x => { x with clusters := x.clusters.modify c (fun k =>
        { k with banks := (x.spares.mappedBanks c).foldl (fun l b => if l.getD b 2 = 0 then l.set b 1 else l) k.banks }) }))
    else s.idle
  else if s.regs.offIdle * countsPerUs ≤ waited then
    .next (s.modDie d (fun x =>
      let y := x.bankOff c
      { y with units := y.units.map (fun e => if e.1 / 4096 = 5 && unitCluster e.1 = c && (x.cluster c).banks.getD (e.1 % 4096 / 8) 2 ≠ 2 then
          (e.1, { e.2 with since := e.2.since.map (fun _ => x.gtc) }) else e) }))
  else s.idle

/-- BANK_EXIT (R353): a bank has left Retention or Off. -/
def execBankExit (d c b : Nat) (s : State) : Host.Outcome State Fault Refusal :=
  if ((s.die d).cluster c).banks.getD b 2 = 3 then .next (s.modCluster d c (fun k => { k with banks := k.banks.set b 0 })) else s.idle

/-- DMA_AGE (R350): a DMA request to a cluster has waited 4,096 ACLK (1,024 CCLK periods): no new operation starts on the cluster
until it is granted. -/
def execDmaAge (d c : Nat) (s : State) : Host.Outcome State Fault Refusal :=
  if s.healthy d && ((s.die d).cluster c).dmaWaits.any (fun e => decide (e.2 + 1024 ≤ s.now)) then
    .next (s.modCluster d c (fun k => { k with dmaBlock := true }))
  else s.idle

end Sys2Proof.Machine
end

