-- ==== Sys2Proof/Machine/Errors.lean ====
section
/-!
DEFINITION. The events of the error ring and of the supervisor's internal log (R639 to R644).
-/
namespace Sys2Proof.Machine

/-- ERROR_RECORD (R640, R642): the next record of a die reaches the supervisor, over Umlin in class MGMT: written to the ring after every record held
before it, or held. -/
def execErrorRecord (d : Nat) (s : State) : Host.Outcome State Fault Refusal :=
  let x := s.die d
  match x.unacked[x.sent]?, s.sup.logDie with
  | some r, some k =>
    s.cross (s.overUmlin d k 2 0) (fun s =>
      let s := s.modDie d (fun x => { x with sent := x.sent + 1 })
      (s.drainLog.holdError r).drainLog.done)
  | _, _ => s.idle

/-- ERR_CONSUMED_ADVANCE (R640, R641): software has read records; held ones take their slots. -/
def execErrConsumedAdvance (p v : Nat) (s : State) : Host.Outcome State Fault Refusal :=
  if s.portUp p && !s.overtaken p 0x0800004C then
    (({ s with sup := { s.sup with errConsumed := v % 2 ^ 32 } } : State).noteWrite p 0x0800004C).drainLog.done
  else s.idle

/-- ERROR_RING_ENABLE (R639, R642): the ring's base is written; a non-zero one takes the held records, 0 disables the
ring; another base is ignored while it is enabled (R733). -/
def execErrorRingEnable (p v : Nat) (s : State) : Host.Outcome State Fault Refusal :=
  if s.portUp p then (s.setRingBase v).done else s.idle

end Sys2Proof.Machine
end

