-- ==== Sys2Proof/Machine/Links.lean ====
section
/-!
DEFINITION. Host links and ports (R378, R379, R400, R406 to R410, R445, R473), Umlin links (R40, R44), heartbeats and presumed
failure (R29 to R32).
-/
namespace Sys2Proof.Machine

/-! ### A host port fails (R406 to R410) -/

/-- Whether an armed KILL injection holds down host port `k` (R651). -/
def State.portKilled (s : State) (k : Nat) : Bool :=
  s.dies.any (fun x => x.inj.any (fun i => i.arm && i.live && i.target = 2 && i.op = 3 && i.where_ % 4 = k))

/-- R408 step 4: a die's writes on the failed port that no completed ordering read covers, issued again in order. -/
def State.reissue (s : State) (d : Nat) : State := (s.die d).ldg.unstable.foldl (fun s e => s.writeHost e.2.1 e.2.2) s

/-- R408 step 5: the surviving port takes the active lines of the failed port, reads and delivers each. -/
def State.takeLines (s : State) (hv : HostView) (lines : List Nat) : State := lines.foldl (fun s q => s.rereadLine hv q) s

/-- R408, R410: a host port fails: cause 1 retrain, 2 timeout, 3 link error. Its work moves to the surviving port (R473: completion
slots included), or the package stops. -/
def State.failPort (s : State) (k cause : Nat) (hv : HostView) : State :=
  let inj := s.portKilled k
  let used := s.healthyDies.filter (fun d => s.portOf d = some k)
  let lines := s.watched k
  let vec := (s.port k).vec
  let s := (s.modPort k (fun p => { p with st := .failed, trained := decide (cause = 2), downSince := none, lines := [], taking := [], vec := [] })).modDies
    (fun x => { x with stays := false })
  if s.anyPort then
    let s := s.logErr (if s.healthy k then k else 1 - k) 0x0021 (unitCode 11 k) cause none inj
    let s := used.foldl (fun s d => s.reissue d) s
    let s := (s.takeLines hv lines)
    let vs := (vec.map Prod.fst ++ (s.port (1 - k)).vec.map Prod.fst).eraseDups
    let s := vs.foldl (fun s v => (s.modPort (1 - k) (fun p => { p with vec := p.vec.erase v })).sendVector v) s
    s.settle
  else (s.logErr (if s.healthy k then k else 1 - k) 0x0041 (unitCode 11 k) 0 none inj).packageFatal.settle

/-- LINK_DOWN (R406): a host link leaves the active state and starts retraining; within the limit this changes only
timing (R380). -/
def execLinkDown (k : Nat) (s : State) : Host.Outcome State Fault Refusal :=
  match (s.port k).st with
  | .inService =>
    if (s.port k).downSince.isSome then s.idle else .next (s.modPort k (fun p => { p with downSince := some s.now }))
  | .failed => .next (s.modPort k (fun p => { p with trained := false }))
  | _ => s.idle

/-- A link as it has trained (R378, R393): at the highest rate that both ends support and HPT_MAX_RATE allows. -/
def State.trainPort (s : State) (k rate : Nat) (x32 cache : Bool) : State :=
  s.modPort k (fun p => { p with
    trained := true, x32 := x32, cache := cache, rate := Min.min rate s.regs.maxRate, coherent := cache && !bit s.pins.straps 1 })

/-- LINK_RETRAINED (R378 to R380, R406, R409): the link is active again, or the link of a failed port is trained. `rate` is the highest
rate code that both ends support, at most 5; a link that has fallen to x32 logs LANE_DEGRADED. -/
def execLinkRetrained (k : Nat) (s : State) (rate : Nat := 5) (x32 cache : Bool := true) : Host.Outcome State Fault Refusal :=
  if s.portKilled k || decide (5 < rate) then s.idle
  else match (s.port k).st with
    | .inService =>
      let s' := (s.trainPort k rate x32 (s.port k).cache).modPort k (fun p => { p with downSince := none })
      .next (if x32 && !(s.port k).x32 then s'.logErr k 0x0023 (unitCode 11 k) 32 else s')
    | .failed => .next (s.trainPort k rate x32 cache)
    | _ => s.idle

/-- RETRAIN_LIMIT_EXPIRY (R406). -/
def execRetrainLimitExpiry (k : Nat) (hv : HostView) (s : State) : Host.Outcome State Fault Refusal :=
  match (s.port k).downSince with
  | some t =>
    if s.portUp k && decide (t + s.regs.retrainLimit * countsPerUs ≤ s.now) then ((s.merge hv).failPort k 1 hv).done else s.idle
  | none => s.idle

/-- COMPLETION_TIMEOUT (R406): a device read on the port gets no completion in time; the read is issued again on the
surviving port (R408 step 3). -/
def execCompletionTimeout (k : Nat) (hv : HostView) (s : State) : Host.Outcome State Fault Refusal :=
  if s.portUp k then ((s.merge hv).failPort k 2 hv).done else s.idle

/-- LINK_ERROR (R406): an uncorrectable link error. -/
def execLinkError (k : Nat) (hv : HostView) (s : State) : Host.Outcome State Fault Refusal :=
  if s.portUp k then ((s.merge hv).failPort k 3 hv).done else s.idle

/-- PORT_ENABLE (R392, R409, R737): software returns a failed, trained port to service; it takes its lines again, and
records held for want of a port are written (R642). A die that will use it stays on the port it has been using until its next
ordering read there has completed. -/
def execPortEnable (p k : Nat) (s : State) : Host.Outcome State Fault Refusal :=
  if s.portUp p && decide (k < 2) && (s.port k).st = .failed && (s.port k).trained then
    let was := s.portUp (1 - k)
    let s := s.modPort k (fun x => { x with st := .inService, downSince := none })
    let s : State := { s with dies := s.dies.zipIdx.map (fun e => { e.1 with stays := was && e.1.ldg.inUse && decide (nearPort s.n e.2 = k) }) }
    let qs := s.watched k
    let s : State := { s with ports := s.ports.map (fun x => { x with lines := x.lines.filter (fun e => !qs.contains e.1), taking := x.taking.filter (fun q => !qs.contains q) }) }
    (((s.modPort k (fun x => { x with taking := qs })).settle).egressOpens).done
  else s.idle

/-! ### Umlin (R40, R44) -/

/-- R28, R44: the dies that every path has failed to from the supervisor, or without one from the lowest-numbered healthy die, are
lost. -/
def State.loseCutOff (s : State) (inj : Bool) : State :=
  let ok := s.spread s.n ((s.electSupervisor.orElse (fun _ => s.healthyDies.head?)).toList)
  (s.healthyDies.filter (fun d => !ok.contains d)).foldl (fun s d => s.loseDie d 0x0022 inj) s

/-- R44: a link fails at both of its ends. -/
def State.loseLink (s : State) (d k : Nat) (inj : Bool) : State :=
  let (e, j) := linkPeer s.n d k
  let s := ((s.retryCtrl [(d, k), (e, j)]).modDie d (fun x => { x with linksUp := x.linksUp.set k false })).modDie e (fun x => { x with linksUp := x.linksUp.set j false })
  ((s.logErr d 0x0022 (unitCode 10 k) e none inj).loseCutOff inj).issueAll

/-- UMLIN_LINK_LOST (R44): traffic moves to the twin link or the other way round the ring; a die that no path reaches is
lost (R634). -/
def execUmlinLinkLost (d k : Nat) (s : State) : Host.Outcome State Fault Refusal :=
  if s.healthy d && decide (k < 4) && (s.die d).linksUp.getD k false then (s.loseLink d k false).done else s.idle

/-- LANE_REPAIR (R379, R624): a host port (`port`) or an Umlin port of die `d` repairs its lanes: with 64 lanes nothing else
happens; with fewer it runs at x32 and LANE_DEGRADED is logged; with fewer than 32 it has failed. -/
def execLaneRepair (port : Bool) (d k lanes : Nat) (s : State) : Host.Outcome State Fault Refusal :=
  if port then
    if !s.portUp k then s.idle
    else if 64 ≤ lanes then s.idle
    else if 32 ≤ lanes then .next ((s.modPort k (fun p => { p with x32 := true })).logErr k 0x0023 (unitCode 11 k) 32)
    else (s.failPort k 1 HostView.quiet).done
  else if !s.healthy d || 4 ≤ k || !(s.die d).linksUp.getD k false then s.idle
  else if 64 ≤ lanes then s.idle
  else if 32 ≤ lanes then
    let (e, j) := linkPeer s.n d k
    .next (((s.modDie d (fun x => { x with lanesUmlin := x.lanesUmlin.set k 32 })).modDie e (fun x =>
      { x with lanesUmlin := x.lanesUmlin.set j 32 })).logErr d 0x0023 (unitCode 10 k) 32)
  else (s.loseLink d k false).done

/-- MSIX_HOLDOFF (R400): the holdoff since a vector's first pending event has passed. -/
def execMsixHoldoff (k v : Nat) (s : State) : Host.Outcome State Fault Refusal :=
  match (s.port k).vec.get v with
  | none => s.idle
  | some (_, t) =>
    if s.portUp k && decide (t + s.regs.vecHoldoff v ≤ s.now) then
      ((s.modPort k (fun p => { p with vec := p.vec.erase v })).sendVector v).done
    else s.idle

/-! ### Reads that fail (R407, R445, R476) -/

/-- HOST_READ_ERROR (R86, R407, R440, R445, R476): a device read returns an error completion or poison. `what`: 0 data of job
(q, n), 1 the descriptor slot of serial `n` of queue `q`, 2 the doorbell line of queue `q`, 3 the Ledger segment of die `d`. -/
def execHostReadError (d what q n : Nat) (s : State) : Host.Outcome State Fault Refusal :=
  match what with
  | 0 =>
    match s.job q n with
    | none => s.idle
    | some j =>
      if j.st ≠ .running then s.idle
      else if j.kind = 2 ∧ j.phase = 1 then
        let i := j.f 0x40 1
        if (s.planSlot i).st = .loading ∧ (s.planSlot i).owner = (q, n) then (s.unreadableLoad j i).done else s.idle
      else if (j.kind = 4 ∨ j.kind = 5) ∧ j.phase = 0 then (s.endWorld j [] outMemory).done
      else if j.kind = 1 then (if j.cancelBy.isSome then s.idle else (s.complete q n outMemory).done)
      else s.idle
  | 1 =>
    if (s.queue q).reading.contains n then
      execDescriptorArrival q { writes := [], bad := [((s.queue q).descAddr n, 128)] } s
    else s.idle
  | 2 =>
    match s.watchPort q with
    | some k => if s.lineActive q then .next (s.logErr k 0x0004 (unitCode 11 k) q) else s.idle
    | none => s.idle
  | 3 =>
    if s.healthy d && (s.die d).ldg.inUse && (s.die d).ldg.retries.isNone then
      .next (s.modDie d (fun x => { x with ldg := x.ldg.retry s.now }))
    else s.idle
  | _ => s.idle

/-! ### Heartbeats (R29 to R32) -/

/-- A peer of a die as it knows it, changed. -/
def State.modPeer (s : State) (d a : Nat) (f : Peer → Peer) : State :=
  s.modDie d (fun x => { x with peers := x.peers.modify a f })

/-- What a die knows of a peer. -/
def State.peer (s : State) (d a : Nat) : Peer := (s.die d).peers.getD a ⟨0, none, 0⟩

/-- HEARTBEAT_SEND (R29): a die manager sends a heartbeat to every other die. -/
def execHeartbeatSend (d : Nat) (s : State) : Host.Outcome State Fault Refusal :=
  if s.healthy d && s.boot.fwReady then
    .next ((s.healthyDies.filter (fun a => a ≠ d && (s.spread s.n [d]).contains a)).foldl (fun s a => s.sendCtrl d a .heartbeat) s)
  else s.idle

/-- HEARTBEAT (R29, R43): a heartbeat of die `a` arrives at die `d`. -/
def execHeartbeat (a d : Nat) (s : State) : Host.Outcome State Fault Refusal :=
  if s.healthy d && a ≠ d then
    s.arrive a d .heartbeat (fun s => .next (s.modPeer d a (fun p => { p with lastBeat := s.now, presumed := none })))
  else s.idle

/-- R30, R456: the liveness word of a die has not advanced for 300 µs; before the die's
segment is in use the word says nothing, and the time runs from the presumption. -/
def State.livenessStale (s : State) (d a : Nat) : Bool :=
  if (s.die a).ldg.inUse then decide ((s.die a).ldg.liveFrom + 300 * countsPerUs ≤ s.now)
  else match (s.peer d a).presumed with | some t => decide (t + 300 * countsPerUs ≤ s.now) | none => false

/-- HEARTBEAT_ABSENCE (R30, R31): no heartbeat of die `a` for 50 µs: die `d` presumes that it has failed and watches its liveness
word. Where the word goes on advancing, the two cannot reach each other, and the higher-numbered withdraws. -/
def execHeartbeatAbsence (d a : Nat) (s : State) : Host.Outcome State Fault Refusal :=
  let p := s.peer d a
  if s.healthy d && s.healthy a && d ≠ a && s.boot.fwReady && s.anyPort && decide (p.lastBeat + 50 * countsPerUs ≤ s.now) then
    let w := s.livenessWord a
    match p.presumed with
    | none => .next (s.modPeer d a (fun p => { p with presumed := some s.now, liveSeen := w }))
    | some _ => if w = p.liveSeen || s.livenessStale d a then s.idle else ((s.loseDie (Max.max d a) 0x0101).issueAll).done
  else s.idle

/-- LIVENESS_STALL (R28, R30, R32, R469): the liveness word of a presumed peer has not advanced for 300 µs: the peer is
fenced, by the supervisor or the die that assumes office. -/
def execLivenessStall (d a : Nat) (s : State) : Host.Outcome State Fault Refusal :=
  if s.healthy d && s.healthy a && d ≠ a && (s.peer d a).presumed.isSome && s.livenessStale d a then
    ((s.dropDie a true).issueAll).done
  else s.idle

end Sys2Proof.Machine
end

