-- ==== Sys2Proof/Machine/Inject.lean ====
section
/-!
DEFINITION. Fault injection (R648 to R653): arming a slot, and what an injection does when it fires.
-/
namespace Sys2Proof.Machine

/-- A line changed without new check bytes (R651, HBM_OUTER). -/
def Die.corruptLine (x : Die) (l : Nat × Nat) (es : List (Nat × Nat)) : Die :=
  let w := flipSymbols (x.codeword l.1 l.2) es
  { x with hbm := (x.hbm.write (lineKey l.1 l.2) (w.take 64)).write (checkKey l.1 l.2) (w.drop 64),
           injected := x.injected.filter (· ≠ l) ++ [l] }

/-- The word and bits that an SRAM injection names (R651). -/
def InjSlot.flip (i : InjSlot) : Flip :=
  let b (v : Nat) : Nat := if v < 72 then 2 ^ v else 0
  { mem := i.where_ % 16, cl := bitsOf i.where_ 6 4, bank := bitsOf i.where_ 13 7, word := bitsOf i.where_ 33 16,
    bits := b (i.mask % 256) ^^^ b (i.mask / 256 % 256) }

/-- Bits of a stored word inverted: on top of those that are. -/
def Die.flipWord (x : Die) (f : Flip) : Die :=
  let same (g : Flip) : Bool := g.mem = f.mem && g.cl = f.cl && g.bank = f.bank && g.word = f.word
  let old := ((x.flips.find? same).map (·.bits)).getD 0
  let bits := old ^^^ f.bits
  { x with flips := x.flips.filter (fun g => !same g) ++ (if bits = 0 then [] else [{ f with bits := bits }]) }

/-- A slot disarmed; what a KILL holds down may come back (R651). -/
def State.disarm (s : State) (d i : Nat) : State :=
  let y := (s.die d).inj.getD i InjSlot.reset
  let s := s.modDie d (fun x => { x with inj := x.inj.modify i (fun y => { y with arm := false, live := false, left := 0 }) })
  if y.arm && y.live && y.target = 1 && y.op = 3 then
    let (e, j) := linkPeer s.n d (y.where_ % 4)
    (s.modDie d (fun x => { x with linksUp := x.linksUp.set (y.where_ % 4) true })).modDie e (fun x => { x with linksUp := x.linksUp.set j true })
  else s

/-- An injection on HBM fires: the symbols of its line are flipped, as often as an odd count asks. -/
def State.corruptHbm (s : State) (d : Nat) (y : InjSlot) : State :=
  if y.line.2 < 11796480 then
    s.modDie d (fun x => (List.range (y.left % 2)).foldl (fun x _ => x.corruptLine y.line y.symbols) x)
  else s

/-- R650, R651: an armed slot's trigger: an injection on a memory changes the stored value, once for each of `count`; a KILL takes
its link down until the slot is disarmed; another flit injection is spent on flits, which changes only timing (R380); the
other targets wait for their events. -/
def State.fire (s : State) (d i : Nat) : State :=
  let y := (s.die d).inj.getD i InjSlot.reset
  let s := s.modDie d (fun x => { x with inj := x.inj.modify i (fun y => { y with live := true }) })
  match y.target with
  | 1 =>
    if y.op ≠ 3 then s.disarm d i
    else if (s.die d).linksUp.getD (y.where_ % 4) false then s.loseLink d (y.where_ % 4) true
    else s
  | 2 =>
    if y.op ≠ 3 then s.disarm d i
    else if s.portUp (y.where_ % 4) && (s.port (y.where_ % 4)).downSince.isNone then
      s.modPort (y.where_ % 4) (fun p => { p with downSince := some s.now })
    else s
  | 3 =>
    (s.corruptHbm d y).disarm d i
  | 5 =>
    let f := y.flip
    if f.mem = 0 && (s.die d).bankState f.cl f.bank = 2 then s.disarm d i
    else (s.modDie d (fun x => (List.range (y.left % 2)).foldl (fun x _ => x.flipWord f) x)).disarm d i
  | _ => s

/-- INJECT_ARM (R648 to R651): a write of INJ_CTL of slot `i`: ignored while injection is unavailable; arming is refused in FIELD
while a group-0 queue is enabled. -/
def execInjectArm (p d i v : Nat) (s : State) : Host.Outcome State Fault Refusal :=
  (s.inWindow p d fun s =>
  if !s.injAvailable d || 8 ≤ i then s
  else
    let y := (s.die d).inj.getD i InjSlot.reset
    let z : InjSlot := { y with target := v % 16, op := bitsOf v 7 4, count := bitsOf v 15 8, atGtc := bit v 17, charge := bit v 18 }
    let s1 := if y.arm && !bit v 16 then s.disarm d i else s
    let y1 := (s1.die d).inj.getD i InjSlot.reset
    let z : InjSlot := { z with arm := y1.arm, live := y1.live, left := y1.left }
    let s2 := s1.modDie d (fun x => { x with inj := x.inj.set i z })
    if !bit v 16 || y.arm then s2
    else if s.lifecycle = 2 && s.queues.any (fun e => e.2.st = .enabled && e.2.entry.group = 0) then
      (s2.modDie d (fun x => { x with injRefused := true })).raised (8 + d)
    else
      let s3 := s2.modDie d (fun x => { x with inj := x.inj.set i { z with arm := true, live := false, left := Max.max 1 z.count } })
      if z.atGtc then s3 else (s3.fire d i).issueAll).done

/-- AT_GTC_INJECTION (R650): the GTC has reached INJ_AT of an armed slot. -/
def execAtGtcInjection (d i : Nat) (s : State) : Host.Outcome State Fault Refusal :=
  let y := (s.die d).inj.getD i InjSlot.reset
  if s.healthy d && decide (i < 8) && y.arm && y.atGtc && !y.live && decide (y.at_ ≤ s.gtc d) then (s.fire d i).issueAll.done else s.idle

end Sys2Proof.Machine
end

