-- ==== Sys2Proof/Machine/Recovery.lean ====
section
/-!
DEFINITION. Ledger recovery (R241, R468 to R473, R475, R476, R480): a failed die's segment, start-up, failed segment reads.
-/
namespace Sys2Proof.Machine

/-- R471: the new home of a queue. -/
def State.newHome (s : State) (q : Nat) : Nat := s.healthyDies.getD (q / 4 % Max.max s.healthyDies.length 1) 0

/-- The sequence number of the last ACCEPT record that covers a job. -/
def acceptOf (l : List LedgerRec) (q n : Nat) : Option Nat :=
  (l.reverse.find? (fun r => r.type = 1 && r.queue = q && decide (serialAhead n r.serial < r.count))).map (·.seq)

/-- One past the highest of some serials of a queue, at or after `a` (R470). -/
def pastSerials (a : Nat) (l : List Nat) : Nat := l.foldl (fun m n => if serialAtOrAfter n m then serialAdd n 1 else m) a

/-- The lowest of some serials, or `a`. -/
def lowSerial (a : Nat) (l : List Nat) : Nat := l.foldl (fun m n => if serialAtOrAfter m n then n else m) a

/-- The queue as recovery leaves it: its home, its counters; it accepts nothing new before its open jobs are complete (R419). -/
def State.takeQueue (s : State) (q h : Nat) (open_ : List Nat) : State :=
  let e := s.entryOf q
  let x := s.queue q
  let acc := if x.everEnabled then x.accepted else s.host.readLE (s.qtbAddr q + 0x18) 8 % serials
  let acc := pastSerials acc open_
  s.modQueue q (fun x =>
    { x with entry := { e with homeDie := h }, everEnabled := true, accepted := acc, taken := acc,
             post := if x.everEnabled then x.post else acc, low := lowSerial acc open_, reading := [], moving := none, recovered := [],
             kept := if open_.isEmpty then x.kept else some (pastSerials (lowSerial acc open_) open_) })

/-- An open job as recovery takes it over, with the pins recorded for it (R464): those of the lost die's job, or of a job that an earlier
recovery held without a slot (R472). -/
def recoveredOf (q n : Nat) (held : Bool) (old : List Job) (waiting : List Recovered) : Recovered :=
  match old.find? (fun k => k.q = q && k.s = n), waiting.find? (fun r => r.serial = n) with
  | some k, _ => ⟨n, held, k.pinPlan, k.pinBodies, k.pinWorld, 0, 0⟩
  | none, some r => { r with held := held }
  | none, none => ⟨n, held, none, [], none, 0, 0⟩

/-- R480: after a reset of the package the state of sync objects is lost: an open job that changes one is aborted. -/
def Job.afterReset (j : Job) : Job := if j.kind = 6 && j.outcome.isNone then { j with outcome := some outAborted } else j

/-- The open jobs that recovery takes over: in slots while the home has any free, the rest held by their records (R472). Before
LDG_STATUS.READY they come from before a reset of the package (R480). -/
def State.takeJobs (s : State) (hv : HostView) (q : Nat) (rs : List Recovered) : State :=
  let room := 4096 - s.jobsHomed (s.queue q).entry.homeDie
  let job (r : Recovered) : Job :=
    let j := { s.recoveredAs (arrivedJob s hv q r.serial) r with acceptSeq := r.acceptSeq }
    if s.regs.ldgReady then j else j.afterReset
  let lost := if s.regs.ldgReady then [] else ((rs.drop room).filter (fun r => (job r).kind = 6)).map (fun r => (q, r.serial))
  ({ s with jobs := s.jobs ++ (rs.take room).map job, openAborts := s.openAborts ++ lost } : State).modQueue q (fun x => { x with recovered := rs.drop room })

/-- R470 to R472: one queue of a failed die goes to its new home, with its open jobs; `accepted` and `home_die` are written once the records
of the open jobs are durable. -/
def State.recoverQueue (s : State) (hv : HostView) (held : List (Nat × Nat)) (old : List Job) (q : Nat) (open_ : List Nat) : State :=
  let h := s.newHome q
  let rs := open_.map (fun n => recoveredOf q n (held.contains (q, n)) old (s.queue q).recovered)
  let s := (s.takeQueue q h open_).takeJobs hv q rs
  let s := (serialRuns (open_.map (fun n => (q, n)))).foldl (fun s r => s.ledgerWrite h (.accept r.1 r.2.1 r.2.2 1)) s
  let s := ((open_.filter (fun n => held.contains (q, n))).map (fun n => (q, n))).foldl (fun s k => s.ledgerWrite h (.suspend k.1 k.2)) s
  if open_.isEmpty then
    let s := (s.modQueue q (fun x => { x with due := setBit x.due 2 })).publishAccepted q (s.queue q).accepted
    let s := if (s.queue q).st = .enabled then s.rereadLine hv q else s
    s.settleQueue q
  else s

/-- Serials in ascending order. -/
def sortSerials (l : List Nat) : List Nat :=
  sortBy (fun a b => decide (0 < serialAhead b a ∧ serialAhead b a < 2 ^ 47)) l

/-- The control jobs of other dies that wait on jobs of a lost die are executed anew. -/
def State.restartControls (s : State) (old : List Job) : State :=
  { s with jobs := s.jobs.map (fun j =>
      if (j.kind = 7 || j.kind = 8 || j.kind = 9) && old.any (fun o => (o.q, o.s) = j.target) then { j with phase := 0 } else j) }

/-- R241: the applications and loads under way of lost jobs. -/
def State.settleLostLoads (s : State) (old : List Job) : State :=
  let mine (k : Nat × Nat) : Bool := old.any (fun j => j.q = k.1 && j.s = k.2)
  let ws := (s.worlds.filter (fun e => match e.2.update with | some u => mine u.job | none => false)).map Prod.fst
  let s := ws.foldl (fun s w => s.settleUpdate w) s
  { s with bodies := s.bodies.map (fun e => (e.1, { e.2 with loading := match e.2.loading with
      | some l => if mine l.1 then none else some l
      | none => none })) }

/-- R470: recovery of die `d`, after its fence, up to its `finish`; a segment that is not in use names no job, and no queue is re-homed. -/
def State.recoverDie (s : State) (hv : HostView) (d : Nat) (log : Bool) : State :=
  let (op, held) := s.openOf d
  let s := s.dropComplete d
  let old := s.jobs.filter (fun j => j.owner = d)
  let s := s.settleLostLoads old
  let s := ({ s with jobs := s.jobs.filter (fun j => j.owner ≠ d) } : State).restartControls old
  let s := old.foldl (fun s j => s.releaseFlow j.q j.s) s
  let mine (k : Nat × Nat) : Bool := (s.entryOf k.1).homeDie = d
  let gone := s.openAborts.filter mine
  let qs := if s.segUsed d then ((s.queues.map Prod.fst) ++ op.map Prod.fst).eraseDups.filter (fun q => (s.entryOf q).homeDie = d) else []
  let s := qs.foldl (fun s q => s.recoverQueue hv held old q (sortSerials ((op.filter (fun k => k.1 = q)).map Prod.snd))) s
  { s with openAborts := s.openAborts.filter (fun k => !gone.contains k || (s.queue k.1).recovered.any (fun e => e.serial = k.2)),
           sup := { s.sup with recovering := s.sup.recovering ++ [(d, log, qs)] } }

/-- R470: the recoveries end whose queues' records are durable at the new homes: `state` becomes RECOVERED, PART_LOST is logged, the next fence
begins. -/
def State.settleRecovery (s : State) : State :=
  match s.sup.recovering with
  | [] => s
  | (d, log, qs) :: rest =>
    if qs.any s.recordsPending || !s.supReaches then s
    else
      let s := s.writeSegState d 2
      let s := if log then s.logErr (s.sup.die.getD d) 0x0031 (unitCode 15 d) 0 else s
      ({ s with sup := { s.sup with recovering := rest, owes := if s.sup.owes = some d then none else s.sup.owes } } : State).nextFence

/-- The segment of a die can be read (R476): its header and its record area, not the reserved bytes between (R455). -/
def State.segReadable (s : State) (hv : HostView) (d : Nat) : Bool :=
  let a := s.regs.segBase.getD d 0
  (s.readHost hv a 64).isSome && (s.readHost hv (a + 4096) (2 ^ s.regs.segSize - 4096)).isSome

/-- A read of a segment has failed: the die that reads it retries (R476). -/
def State.segRetry (s : State) (d : Nat) : State := s.modDie d (fun x => { x with ldg := x.ldg.retrySeg s.now })

/-! ### Start-up (R473, R480) -/

/-- The open jobs of a queue, kept by the die whose records hold them: in slots while any are free (R472). -/
def State.keepOpen (s : State) (hv : HostView) (d : Nat) (recs : List LedgerRec) (held : List (Nat × Nat)) (q : Nat) (open_ : List Nat) :
    State :=
  let s := (s.takeQueue q d open_).takeJobs hv q
    (open_.map (fun n => { recoveredOf q n (held.contains (q, n)) [] [] with acceptSeq := (acceptOf recs q n).getD 0 }))
  open_.foldl (fun s n => s.becomeAccepted q n) (s.publishAccepted q (s.queue q).accepted)

/-- The sequence number after the highest valid record of a segment (R473). -/
def nextSeq (l : List LedgerRec) (base : Nat) : Nat := match l.getLast? with | some r => r.seq + 1 | none => base

/-- R473: a die reconciles its own segment: it keeps the open jobs, counts a new life and goes on after the highest valid
record; an empty segment is initialised. -/
def State.reconcile (s : State) (hv : HostView) (d : Nat) : State :=
  let a := s.regs.segBase.getD d 0
  if s.host.readLE a 4 ≠ 0x4744454C then
    (s.modDie d (fun x => { x with ldg := { x.ldg with next := 0, base := 0, epoch := 0, liveFrom := s.now } })).writeHeader d 0 (s.livenessWord d)
  else
    let base := s.host.readLE (a + 0x10) 8
    let epoch := s.host.readLE (a + 0x18) 8
    let recs := s.segRecords d base
    let (op, held) := s.openOf d
    let s := s.modDie d (fun x => { x with ldg := { x.ldg with next := nextSeq recs base, base := base, epoch := (epoch + 1) % 2 ^ 64, liveFrom := s.now } })
    let s := s.writeHeader d 0 (s.livenessWord d)
    ((op.map Prod.fst).eraseDups).foldl (fun s q => s.keepOpen hv d recs held q (sortSerials ((op.filter (fun k => k.1 = q)).map Prod.snd))) s

/-- R473: LDG_STATUS.READY is set when every segment is reconciled or recovered. -/
def State.settleLedger (s : State) : State :=
  if s.regs.ldgStarted && !s.regs.ldgReady && s.healthyDies.all (fun d => (s.die d).ldg.inUse) && s.sup.fence.isNone && s.sup.fenceQueue.isEmpty &&
      s.sup.recovering.isEmpty then
    (s.modRegs (fun r => { r with ldgReady := true })).settle
  else s

/-- A die reconciles its segment, or starts to retry the read of it. -/
def State.reconcileOr (s : State) (hv : HostView) (d : Nat) : State :=
  if s.segReadable hv d then s.reconcile hv d else s.segRetry d

/-- LDG_CTL_START (R473): every healthy die reconciles its own segment; the supervisor recovers those of the dies that are absent or lost, each
after its fence. -/
def execLdgCtlStart (p : Nat) (hv : HostView) (s : State) : Host.Outcome State Fault Refusal :=
  if !s.takes p || s.regs.ldgStarted then s.idle
  else
    let s := (s.merge hv).modRegs (fun r => { r with ldgStarted := true })
    let out := ((List.range s.n).filter (fun d => !s.healthy d)).map (fun d => (d, false))
    let s := s.healthyDies.foldl (fun s d => s.reconcileOr hv d) s
    (({ s with sup := { s.sup with fenceQueue := s.sup.fenceQueue ++ out } } : State).nextFence.settleLedger.issueAll).done

/-- R475: a die that returns to service takes its segment into use again, once it has been recovered: it goes on after the highest valid record. -/
def State.rejoinLedger (s : State) (d : Nat) : State :=
  if s.regs.ldgStarted then
    let a := s.regs.segBase.getD d 0
    let base := s.host.readLE (a + 0x10) 8
    let next := if s.segUsed d then nextSeq (s.segRecords d base) base else 0
    let epoch := if s.segUsed d then (s.host.readLE (a + 0x18) 8 + 1) % 2 ^ 64 else 0
    (s.modDie d (fun x => { x with ldg := { Ledger.reset with next := next, base := next, epoch := epoch, liveFrom := s.now } })).writeHeader d 0 (s.livenessWord d)
  else s

end Sys2Proof.Machine
end

