-- ==== Sys2Proof/Machine/Returns.lean ====
section
/-!
DEFINITION. A die's return to service (R242, R343, R475, R546, R686, R702, R729, R735), and the ends of Tinker slices (R598, R604 to
R607).
-/
namespace Sys2Proof.Machine

/-- An application under way as a die that returns takes part in it: it prepares the version from the start, or has come as far
as the die it copies (R239, R242). -/
def World.joined (w : World) (d e : Nat) : World :=
  { w with update := w.update.map (fun u =>
      match u.dies.get e with
      | some k => { u with dies := u.dies.insert d (if k < 4 then 0 else k) }
      | none => u) }

/-- A die's copy of a world as a returning die takes it: a version under preparation left out unless it is committed. -/
def DieWorld.joined (x : DieWorld) (w : Nat) (committed : Bool) : DieWorld :=
  match x.prepared with
  | none => x
  | some v => if committed then x else { x with lat := x.lat.discard w v, prepared := none, applied := 0, err := PrepErr.none }

/-- A store write under way as a die that copies die `e` takes part in it: it has yet to apply what that die has (R343). -/
def StoreWrite.joined (w : StoreWrite) (d e : Nat) : StoreWrite :=
  { w with dies := w.dies.filter (· ≠ d) ++ (if w.dies.contains e then [d] else []) }

/-- The structures replicated on every die, copied from die `e` to die `d` (R242, R343, R366). -/
def State.copyReplicas (s : State) (d e : Nat) : State :=
  let y := s.die e
  let committed (w : Nat) : Bool := match (s.world w).update with
    | some u => (match u.dies.get e with | some k => decide (4 ≤ k) | none => false)
    | none => false
  let s : State := { s with
    worlds := s.worlds.map (fun k => (k.1, k.2.joined d e))
    storeWrites := (s.storeWrites.map (fun w => w.joined d e)).filter (fun w => !w.dies.isEmpty) }
  s.modDie d (fun x =>
    let z := x.storeRegion s.regs.planBase s.regs.planBytes (y.loadRegion s.regs.planBase s.regs.planBytes)
    { z with worlds := y.worlds.map (fun k => (k.1, k.2.joined k.1 (committed k.1))), warm := y.warm, keys := y.keys, gtc := y.gtc })

/-- R475: the `state` of a die's segment is RECOVERED. -/
def State.segRecovered (s : State) (d : Nat) : Bool := s.host.readLE (s.regs.segBase.getD d 0 + 5) 1 = 2

/-- The die has done what must come before its return: its initial pass, its segment recovered (R475, R702). -/
def State.mayReturn (s : State) (d : Nat) : Bool :=
  let x := s.die d
  x.returning && x.passDone && x.units.all (fun e => e.2.suspect.isNone) &&
    (!s.regs.ldgStarted || (s.segRecovered d && s.sup.fenceQueue.all (fun f => f.1 ≠ d) && s.sup.recovering.all (fun e => e.1 ≠ d) &&
      (match s.sup.fence with | some (f, _, _) => f ≠ d | none => true)))

/-- A die is back in service. -/
def State.finishReturn (s : State) (d : Nat) : State :=
  if !s.mayReturn d then s
  else
    let s := match (s.healthyDies.filter (· ≠ d)).head? with | some e => s.copyReplicas d e | none => s
    let s := s.modDie d (fun x =>
      { x with returning := false, gtcRun := true, peers := List.replicate 8 ⟨s.now, none, 0⟩,
               power := { x.power with change := none }, units := x.units.map (fun e => (e.1, { e.2 with since := some x.gtc })) })
    let s := s.modDies (fun x => { x with peers := x.peers.set d ⟨s.now, none, 0⟩ })
    let s := (s.rejoinLedger d).renewHolders.resumeFails d
    let s := s.modRegs (fun r => if r.rstBusy && r.rstCmd % 4 = 2 && r.rstCmd / 4 % 8 = d then { r with rstBusy := false, rstResult := 0 } else r)
    s.settleLedger.settle

/-- Every die that may return does. -/
def State.settleReturns (s : State) : State := ((List.range s.n).filter s.mayReturn).foldl (fun s d => s.finishReturn d) s

/-- What follows when records have become durable (R470, R473, R475). -/
def State.settleDurable (s : State) : State := s.settleRecovery.nextFence.settleLedger.settleReturns.drainLog.settle

/-- ORDERING_READ_COMPLETE (R409, R450, R457, R461): the ordering read of a die returns. -/
def execOrderingReadComplete (d : Nat) (hv : HostView) (s : State) : Host.Outcome State Fault Refusal :=
  if s.healthy d && (s.die d).ldg.inUse && (s.portOf d).isSome && !(s.die d).ldg.stopped then
    (s.merge hv).cross [atEgress d 0] (fun s => (s.orderingRead hv d).settleDurable.done)
  else s.idle

/-- R469 step 5: every healthy die whose segment is in use issues an ordering read. -/
def State.fenceReads (s : State) (hv : HostView) : State :=
  s.healthyDies.foldl (fun s d => if s.healthy d && (s.die d).ldg.inUse then s.orderingRead hv d else s) s

/-- The ordering reads of R469 step 5 return without error. -/
def State.fenceRead (s : State) (hv : HostView) : Bool :=
  s.healthyDies.all (fun d => !(s.die d).ldg.inUse || (s.readHost hv (s.regs.segBase.getD d 0) 64).isSome)

/-- R469 step 5 to R471: the ordering reads, then the recovery of the fenced die; what cannot be read is retried (R476). -/
def State.endFence (s : State) (hv : HostView) (d k : Nat) (log : Bool) : State :=
  let ok := s.fenceRead hv
  let s := s.fenceReads hv
  if !ok || s.sup.die ≠ some k then s
  else if !s.segReadable hv d then (if s.pins.fatal then s else s.segRetry k)
  else ((({ s with sup := { s.sup with fence := none } } : State).recoverDie hv d log).settleDurable).issueAll

/-- FENCE_WAIT_END (R469 to R471): the wait is over: every healthy die issues its ordering read, and the failed die's segment is recovered. -/
def execFenceWaitEnd (hv : HostView) (s : State) : Host.Outcome State Fault Refusal :=
  match s.sup.fence, s.sup.die with
  | some (d, t, log), some k =>
    if s.now < t then s.idle
    else (s.merge hv).cross (((s.healthyDies.filter (fun d => (s.die d).ldg.inUse)).map (fun d => atEgress d 0))) (fun s => (s.endFence hv d k log).done)
  | _, _ => s.idle

/-- A die's retries of a failed read set: those of a segment to reconcile or recover (`seg`), or those of its ordering reads. -/
def State.setRetries (s : State) (d : Nat) (seg : Bool) (n : Option Nat) : State :=
  s.modDie d (fun x => { x with ldg := if seg then { x.ldg with segRetries := n, retryAt := s.now } else { x.ldg with retries := n, retryAt := s.now } })

/-- R476: the read that a die retried has succeeded: its segment is reconciled, the segment of the fenced die is recovered, or its ordering read
has returned. -/
def State.readAtLast (s : State) (d : Nat) (seg : Bool) : State :=
  if !seg then (s.orderingRead HostView.quiet d).settleDurable
  else if s.regs.ldgStarted && !(s.die d).ldg.inUse then (s.reconcile HostView.quiet d).settleLedger
  else match s.sup.fence with
    | some (x, t, log) => if s.sup.die = some d && decide (t ≤ s.now) then s.endFence HostView.quiet x d log else s
    | none => s

/-- LEDGER_IO_RETRY (R476): a retry of a failed read of a segment, 100 µs after the last attempt, succeeds, or is the last of three, and then
the die logs LEDGER_IO and the device stops consuming descriptors and dispatching. -/
def execLedgerIoRetry (d : Nat) (ok : Bool) (s : State) : Host.Outcome State Fault Refusal :=
  let l := (s.die d).ldg
  let seg := l.segRetries.isSome
  match (if seg then l.segRetries else l.retries) with
  | none => s.idle
  | some k =>
    if s.now < l.retryAt + 100 * countsPerUs then s.idle
    else if ok then ((s.setRetries d seg none).readAtLast d seg).done
    else if 1 < k then .next (s.setRetries d seg (some (k - 1)))
    else .next (((s.setRetries d seg none).logErr d 0x0040 (unitCode 15 d) 0).packageFatal.settle)

/-- TINKER_SLICE_END (R598, R604 to R607): a slice ends with its exit and passes, or fails at the unit named, with the first
differing value. -/
def execTinkerSliceEnd (d unit : Nat) (ok : Bool) (diff : Nat) (s : State) : Host.Outcome State Fault Refusal :=
  match testUnitOf unit with
  | none => s.idle
  | some t =>
    match ((s.die d).unit t).running with
    | none => s.idle
    | some (slice, _) =>
      let s :=
        if ok then s.modUnit d t (fun x => x.pass (slicesOf t) (s.gtc d) slice)
        else s.sliceFails d unit slice diff
      ((s.zeroBank d t).settlePass.settleReturns.settleClusters.issueAll).done

end Sys2Proof.Machine
end

