-- ==== Sys2Proof/Machine/Power.lean ====
section
/-!
DEFINITION. Die power states (R36, R679 to R687), the power cap and thermal limits (R688 to R694), the fallback of AVSBus (R722).
-/
namespace Sys2Proof.Machine

/-! ### PWR_DIE_CTL (R680 to R686) -/

/-- R683: a change would leave no die in D0, or fewer than two while a group-0 queue is enabled. -/
def State.lastD0 (s : State) (d : Nat) : Bool :=
  let k := (s.healthyDies.filter (fun e => e ≠ d && (s.die e).power.state = 0)).length
  decide (k = 0) || (decide (k < 2) && s.queues.any (fun e => e.2.st = .enabled && e.2.entry.group = 0))

/-- R683: a die carries the only host port in service. -/
def State.onlyPort (s : State) (d : Nat) : Bool := decide (d < 2) && s.portUp d && !s.portUp (1 - d)

/-- The result of a power command. -/
def State.powerResult (s : State) (d r : Nat) : State := s.modDie d (fun x => { x with power := { x.power with result := r } })

/-- Clusters are to leave service (R681): nothing more is placed on them, and under WITHDRAW the jobs there leave at their next
stage boundary. -/
def State.leaveClusters (s : State) (d mode : Nat) (cs : List Nat) : State :=
  let s := s.modDie d (fun x => { x with clusters := x.clusters.zipIdx.map (fun e =>
    if cs.contains e.2 && !e.1.off then { e.1 with draining := true } else e.1) })
  if mode = 0 then s
  else { s with jobs := s.jobs.map (fun j =>
    if j.st = .running && j.regions.any (fun l => l.die = d && cs.contains l.cl) then { j with parking := true } else j) }

/-- Clusters whose island powers up: the intervals of their units have stood still (R684). A failed cluster stays off. -/
def State.powerUp (s : State) (d : Nat) (cs : List Nat) (test : Bool) : State :=
  let x := s.die d
  let up (c : Nat) : Bool := cs.contains c && (x.cluster c).off && !(x.cluster c).failed
  s.modDie d (fun x => { x with
    clusters := x.clusters.zipIdx.map (fun e => if up e.2 then { e.1 with off := false, draining := false, idleSince := s.now }
      else if cs.contains e.2 then { e.1 with draining := false } else e.1)
    units := x.units.map (fun e =>
      if e.1 / 4096 ≠ 6 && up (unitCluster e.1) then
        (e.1, { e.2 with since := e.2.since.map (fun t => t + (s.now - (x.cluster (unitCluster e.1)).idleSince)),
                         suspect := if test && !e.2.failed && !e.2.quarantined then some 0 else e.2.suspect, named := if test then [] else e.2.named, running := none })
      else e) })

/-- The clusters of a mask, and the others. -/
def maskClusters (mask : Nat) (on : Bool) : List Nat := (List.range 5).filter (fun c => bit mask c = on)

/-- A `go` of PWR_DIE_CTL is taken in the window of a die that is not lost, while no change is in progress: its RW fields take the
values written. -/
def State.powerGo (s : State) (p d target mode mask : Nat) (f : State → State) : State :=
  s.inWindow p d (fun s =>
    if (s.die d).power.change.isSome || (s.die d).returning then s
    else f (s.modDie d (fun x => { x with power := { x.power with
      ctl := target + at' (mode % 2) 2 + at' (mask % 32) 3, clDisable := mask % 32 } })))

/-- A change of power state begins. -/
def State.beginChange (s : State) (d target mode mask : Nat) : State :=
  (s.powerResult d 0).modDie d (fun x => { x with power := { x.power with change := some (target, mode, mask) } })

/-- The cluster set of a die in D0 follows `cl_disable` (R680, R682). -/
def State.setClusters (s : State) (d mode mask : Nat) : State :=
  (((s.beginChange d 0 mode mask).powerUp d (maskClusters mask false) false).leaveClusters d mode (maskClusters mask true)).settleClusters

/-- DIE_POWER_D0 (R684, R686): from D1 the cluster islands power up and every cluster is tested before it is placed on; from D3 it
is a return to service. -/
def execDiePowerD0 (p d mode mask : Nat) (s : State) : Host.Outcome State Fault Refusal :=
  (s.powerGo p d 0 mode mask (fun s =>
    match (s.die d).power.state with
    | 0 => s.setClusters d mode mask
    | 3 => (s.beginChange d 0 mode mask).startReturn d (mask % 32)
    | _ => ((s.beginChange d 0 mode mask).powerUp d (maskClusters mask false) true).settleClusters)).issueAll.done

/-- DIE_POWER_D1 (R36, R681, R683): the clusters are drained or withdrawn and their islands turned off. -/
def execDiePowerD1 (p d mode mask : Nat) (s : State) : Host.Outcome State Fault Refusal :=
  (s.powerGo p d 1 mode mask (fun s =>
    match (s.die d).power.state with
    | 3 => s.powerResult d 1
    | 1 => s.powerResult d 0
    | _ =>
      if s.lastD0 d then s.powerResult d 2
      else ((s.beginChange d 1 mode mask).leaveClusters d mode (List.range 5)).settleClusters)).done

/-- R685: the die to which a queue of a die on its way to D3 goes. -/
def State.homeWithout (s : State) (d q : Nat) : Nat :=
  let hs := s.healthyDies.filter (· ≠ d)
  hs.getD (q / 4 % Max.max hs.length 1) 0

/-- DIE_POWER_D3 (R683, R685): only from D1; the die's queues move away, then its roles, and it turns off. -/
def execDiePowerD3 (p d mode mask : Nat) (s : State) : Host.Outcome State Fault Refusal :=
  (s.powerGo p d 3 mode mask (fun s =>
    match (s.die d).power.state with
    | 1 =>
      if s.lastD0 d then s.powerResult d 2
      else if s.onlyPort d then s.powerResult d 3
      else
        let s := s.beginChange d 3 mode mask
        let s := ((s.queues.filter (fun e => e.2.entry.homeDie = d && e.2.everEnabled && e.2.moving.isNone)).map Prod.fst).foldl
          (fun s q => s.startMove q (s.homeWithout d q)) s
        s.settleD3
    | 3 => s.powerResult d 0
    | _ => s.powerResult d 1)).done

/-- CLUSTER_DISABLE (R680, R682): the cluster set of a die in D0. -/
def execClusterDisable (p d mode mask : Nat) (s : State) : Host.Outcome State Fault Refusal :=
  (s.powerGo p d 0 mode mask (fun s =>
    if (s.die d).power.state = 0 then s.setClusters d mode mask else s.powerResult d 1)).issueAll.done

/-! ### The cap and the limits (R689 to R694) -/

/-- R691: an estimate joins those of the last 100 ms, and the oldest leaves them. -/
def DiePower.takeEstimate (p : DiePower) (est : Nat) : DiePower :=
  match p.hist with
  | (v, k) :: rest =>
    { p with est := est, histSum := p.histSum - v + est, hist := (if k ≤ 1 then rest else (v, k - 1) :: rest) ++ [(est, 1)] }
  | [] => { p with est := est, histSum := est, hist := [(est, 1)] }

/-- POWER_ESTIMATE (R689, R691): a die's estimate of the last 10 µs, in 0.125 W; `idle` tells whether it has inserted idle cycles
in at least 1 % of its cycles over the last 1 ms. The average over 100 ms takes the estimate in; idle cycles are owed while it,
or the estimate against 1.25 times the share, is too high. -/
def execPowerEstimate (d est : Nat) (idle : Bool) (s : State) : Host.Outcome State Fault Refusal :=
  if s.healthy d then
    .next ((s.modDie d (fun x =>
      let p := x.power.takeEstimate est
      let owed := decide (p.share * 10000 < p.histSum) || decide (5 * p.share < 4 * est)
      { x with power := { p with lastMs := p.lastMs + est, idleShare := idle, owed := owed } })).settleAlert)
  else s.idle

/-- The share multiplier of R693 in 1/1,000: `t` is the excess over the throttle threshold in 0.25 degrees. -/
def throttleFactor (t : Int) : Nat :=
  if t ≤ 0 then 1000 else Max.max 250 (1000 - (t.toNat * 75) / 4)

/-- R690: the shares of the dies, in 0.125 W. -/
def State.divide (s : State) : State :=
  let hs := s.healthyDies
  let cap := s.regs.pwrCap * 8
  let base := 480
  let above (d : Nat) : Nat := (s.die d).power.lastMs / 100 - base
  let total := (hs.map above).foldl (· + ·) 0
  let rest := cap - base * hs.length
  let share (d : Nat) : Nat :=
    let v := base + (if total = 0 then rest / Max.max hs.length 1 else rest * above d / total)
    let x := s.die d
    if x.power.throttled then v * throttleFactor (tempOf x.power.temp - s.throttleAt) / 1000 else v
  { s with dies := s.dies.zipIdx.map (fun e =>
      { e.1 with power := { e.1.power with share := if hs.contains e.2 then share e.2 else 0, lastMs := 0 } }) }

/-- POWER_DIVISION (R32, R690): the supervisor divides the cap; one that has taken over first recovers the failed supervisor's die. -/
def execPowerDivision (s : State) : Host.Outcome State Fault Refusal :=
  if s.sup.die.isSome && s.sup.owes.isNone then .next s.divide else s.idle

/-- THERMAL_SAMPLE (R693): a die's hottest point, in 0.25 degrees, two's complement: it throttles, stops throttling, or
withdraws itself. A die that does not sense its temperature now is left as it is. -/
def execThermalSample (d temp : Nat) (s : State) : Host.Outcome State Fault Refusal :=
  if s.n ≤ d || !s.boot.pll then s.idle
  else
    let t := tempOf temp
    let s := s.modDie d (fun x => { x with power := { x.power with temp := temp % 65536 } })
    if s.shutdownAt ≤ t && !(s.die d).lost then
      let s := s.loseDie d 0x0100
      ((s.modDie d (fun x => { x with
        power := { x.power with thermalStop := true, throttled := false }
        clusters := x.clusters.map (fun k => { k with off := true }) })).settle.issueAll).done
    else
      let was := (s.die d).power.throttled
      let now_ := !(s.die d).lost && (decide (s.throttleAt ≤ t) || (was && decide (s.throttleEnd ≤ t)))
      (s.modDie d (fun x => { x with power := { x.power with throttled := now_ } })).settle.done

/-- ALERT_RELEASE (R694): 10 ms after neither condition holds, ALERT_N is released. -/
def execAlertRelease (s : State) : Host.Outcome State Fault Refusal :=
  match s.pins.alertFrom with
  | some t =>
    if t + 10000 * countsPerUs ≤ s.now then .next { s with pins := { s.pins with alertN := true, alertFrom := none } } else s.idle
  | none => s.idle

end Sys2Proof.Machine
end

