-- ==== Sys2Proof/Machine/Security.lean ====
section
/-!
DEFINITION. Security (chapter 19): the key table (R659, R660), firmware checks and boot (R655, R657, R661, R662), the security
commands (R663 to R668), the Vault (R669, R670), tamper and glitch (R674, R675), the fallback of AVSBus (R722).
-/
namespace Sys2Proof.Machine

/-! ### Fuses (R655, R657) -/

/-- R655: a healthy die that holds a less advanced lifecycle state than another blows its own fuses to match. -/
def State.settleLife (s : State) : State :=
  let m := (s.healthyDies.map (fun d => (s.die d).fuse.life)).foldl Max.max 0
  s.healthyDies.foldl (fun s d => s.modDie d (fun x => { x with fuse := { x.fuse with life := Max.max x.fuse.life m } })) s

/-- R657: a die whose key fuses differ from the package values is lost. -/
def State.settleKeyFuses (s : State) : State :=
  let f := s.fuse.keyFuses
  (s.healthyDies.filter (fun d => (s.die d).fuse.keyFuses ≠ f)).foldl (fun s d => s.loseDie d 0x0103) s

/-! ### The Vault (R669) -/

/-- Every Vault is wiped: working key, firmware digest, challenge, the working area of a key operation in progress, which ends. -/
def State.wipeVaults (s : State) : State :=
  let s : State := { s with sec := { s.sec with challenge := none } }
  s.modDies (fun x => { x.endVault with keyReady := false, fw := x.fw.map (fun f => { f with digest := zeros 64 }) })

/-- R674: the response to a tamper input or a glitch. -/
def State.alarm (s : State) : State :=
  let s : State := { s.wipeVaults with sec := { s.wipeVaults.sec with debug := false } }
  (s.modDies (fun x => { x with injUnlocked := false })).settle

/-- TAMPER (R674): a filtered TAMPER_N input. -/
def execTamper (i : Nat) (s : State) : Host.Outcome State Fault Refusal :=
  if s.boot.held || 2 ≤ i then s.idle
  else (({ s with sec := { s.sec with tamper := true } } : State).alarm).done

/-- A glitch has been detected. -/
def State.glitched (s : State) : State := ({ s with sec := { s.sec with glitch := true } } : State).alarm

/-- GLITCH (R674, R678). -/
def execGlitch (s : State) : Host.Outcome State Fault Refusal := if s.boot.held then s.idle else s.glitched.done

/-- AVS_FALLBACK (R713, R722): three failed frames: the die requests nothing further; a read-back (in mV) more than 15 mV from
0.75 V is a voltage glitch. -/
def execAvsFallback (d readback : Nat) (s : State) : Host.Outcome State Fault Refusal :=
  if s.boot.held || s.n ≤ d then s.idle
  else
    let s := s.modDie d (fun x => { x with power := { x.power with avsFallback := true } })
    if readback + 15 < 750 ∨ 765 < readback then s.glitched.done else .next s

/-- KEY_UNWRAP (R670, R675): a die unwraps its device key into its Vault, a locked sequence of the Vault port (R375), which may begin in
an earlier command (`held`). -/
def execKeyUnwrap (d : Nat) (s : State) (held : Bool := false) : Host.Outcome State Fault Refusal :=
  let x := s.die d
  if s.n ≤ d || x.lost || !s.boot.pll || s.sec.tamper || s.sec.glitch || x.fuse.devKey.d.isNone then s.idle
  else s.vaultOp d 0 held (fun s => .next (s.modDie d (fun x => { x with keyReady := true })))

/-! ### Firmware (R661, R662) -/

/-- The firmware digest of an image of `n` bytes. -/
def fwDigest (img : List Byte) (n : Nat) : List Byte := sha512 (img.take (n - 1024))

/-- The countersigning slot. -/
def cosignSlot (img : List Byte) : Nat := field img 0x214 1

/-- The checks of one die, in the order of the result codes: 2 when the image runs. -/
def Fuses.checkImage (f : Fuses) (lc n : Nat) (img : List Byte) : Nat :=
  let c := cosignSlot img
  let root := slice img 0x10 516
  let cosign := slice img 0x220 516
  if field img 0 4 ≠ 0x4D524946 ∨ field img 4 2 ≠ 1 ∨ field img 8 8 ≠ n ∨ slice img 0x215 11 ≠ zeros 11 ∨ slice img 0x424 28 ≠ zeros 28 then 3
  else if sha512 root ≠ f.rootHash ∨
      (f.cosigned lc = true ∧ (bit f.revoked c = true ∨ f.slotHash.getD c none ≠ some (sha512 cosign))) then 4
  else if pssVerify root (slice img (n - 1024) 512) (fwDigest img n) = false ∨
      (f.cosigned lc = true ∧ pssVerify cosign (slice img (n - 512) 512) (fwDigest img n) = false) then 5
  else if field img 6 2 < f.rollback then 6
  else if lc = 5 then 8
  else 2

/-- What a die keeps of the image that it runs. -/
def firmwareOf (img : List Byte) (n : Nat) : Firmware :=
  { digest := fwDigest img n, svn := field img 6 2, slot := cosignSlot img, keyHash := sha512 (slice img 0x220 516),
    signed := pssVerify (slice img 0x220 516) (slice img (n - 512) 512) (fwDigest img n) }

/-- R659: the keys that an image brings. -/
def Die.takeKeys (x : Die) (img : List Byte) : Die :=
  let c := cosignSlot img
  let keys := x.keys.set 0 (some (slice img 0x10 516))
  { x with keys := if c < 4 ∧ x.fuse.slotHash.getD c none = some (sha512 (slice img 0x220 516)) then keys.set (c + 1) (some (slice img 0x220 516)) else keys }

/-- Every healthy die takes the keys of an image and runs it; heartbeats are awaited from now on. -/
def State.takeImage (s : State) (img : List Byte) (fw : Firmware) : State :=
  let s := s.healthyDies.foldl (fun s d => s.modDie d (fun x => { (x.takeKeys img) with fw := some fw })) s
  s.modDies (fun x => { x with peers := x.peers.map (fun p => { p with lastBeat := s.now, presumed := none }) })

/-- RP_RST_N is released where the trace memory is fitted. -/
def State.releaseTracePort (s : State) : State :=
  if bit s.pins.straps 0 then { s with pins := { s.pins with rpReset := false, rpFrom := s.now, rpTried := false } } else s

/-- R662 step 4, R606, R718: firmware runs on every healthy die; the initial pass starts; RP_RST_N is released. -/
def State.startFirmware (s : State) (img : List Byte) (n : Nat) : State :=
  let s := s.takeImage img (firmwareOf img n)
  let s : State := { s with boot := { s.boot with fwReady := true }, sec := { s.sec with bootStatus := 2 } }
  s.releaseTracePort.settleLife.settle

/-- A boot has failed with a code. -/
def State.bootFails (s : State) (code : Nat) : State := { s with sec := { s.sec with bootStatus := code } }

/-- R662: the image is fetched, checked on every die, and started: a die whose check fails while another passes is lost. -/
def State.bootImage (s : State) (hv : HostView) : State :=
  let n := s.sec.bootSize
  if n % 64 ≠ 0 ∨ n < 4096 ∨ 16777216 < n then s.bootFails 3
  else
    match s.readHost hv s.sec.bootAddr n with
    | none => s.bootFails 7
    | some img =>
      let lc := s.lifecycle
      let r := s.healthyDies.map (fun d => (d, (s.die d).fuse.checkImage lc n img))
      if r.any (fun e => e.2 = 2) then
        ((r.filter (fun e => e.2 ≠ 2)).foldl (fun s e => s.loseDie e.1 0x0104) s).startFirmware img n
      else s.bootFails (((r.map Prod.snd).head?).getD 7)

/-- SEC_BOOT_GO (R662, R701): before MEM_READY it is held. -/
def execSecBootGo (p : Nat) (hv : HostView) (s : State) : Host.Outcome State Fault Refusal :=
  if !s.portUp p || s.boot.fwReady then s.idle
  else if !s.boot.memReady then .next { s with boot := { s.boot with goHeld := true } }
  else ((s.merge hv).bootImage hv).done

/-- MEM_READY (R700, R701): the stacks are initialised, every line zero; the boot mailbox opens, which ends a package warm reset; a held
SEC_BOOT_GO acts. -/
def execMemReady (hv : HostView) (s : State) : Host.Outcome State Fault Refusal :=
  if s.boot.held || !s.boot.pll || s.boot.memReady then s.idle
  else
    let go := s.boot.goHeld
    let s : State := { s with boot := { s.boot with memReady := true, goHeld := false }, pins := { s.pins with driven := true } }
    let s := (s.merge hv).modRegs (fun r => { r with rstBusy := false })
    (if go then s.bootImage hv else s).done

/-! ### Security commands (R664 to R668) -/

/-- The result of a security command. -/
def State.secResult (s : State) (r : Nat) : State := { s with sec := { s.sec with result := r } }

/-- The GTC that the package's security functions read. -/
def State.secGtc (s : State) : Nat := s.gtc (s.healthyDies.headD 0)

/-- A `go` of SEC_CMD with code `op` is taken (R389). -/
def State.secGo (s : State) (p op : Nat) (f : State → State) : State :=
  if s.takes p then f { s with sec := { s.sec with cmd := op } } else s

/-- CHALLENGE (R668): 64 bytes to SEC_CMD_ADDR, once the management controller may write there (R374, R457); they are the pending challenge. -/
def execChallenge (p : Nat) (s : State) : Host.Outcome State Fault Refusal :=
  let k := s.healthyDies.headD 0
  if s.takes p && !s.mayReach k then .next (s.queued [atEgress k 4])
  else ((s.secGo p 1 (fun s =>
    let s := s.granted [atEgress k 4]
    let (r, s) := s.randomBytes 32
    let c := r ++ s.packageId ++ natLE 1 s.lifecycle ++ zeros 7 ++ natLE 8 s.secGtc ++ zeros 8
    let s : State := { s with sec := { s.sec with challenge := some (c, s.secGtc) } }
    (s.writeHost s.sec.cmdAddr c).secResult 0))).done

/-- Who must sign a command in the present state (R667). -/
inductive SecSigner where
  | nobody | customer | rootOrCustomer
  deriving DecidableEq, Repr

/-- The key of a signer that the command allows: a customer slot that is fused, unrevoked and loaded, or the vendor root. -/
def State.signerKey (s : State) (k : SecSigner) (signer : Nat) : Option (List Byte) :=
  let d := s.healthyDies.headD 0
  if signer < 4 then s.customerKey d signer
  else if signer = 0xFF ∧ k = .rootOrCustomer then (s.die d).keys.getD 0 none
  else none

/-- R668: the token of a block signs the pending challenge, which is not older than 60 s, and the block. -/
def State.tokenOk (s : State) (k : SecSigner) (blk : List Byte) : Bool :=
  match s.sec.challenge, s.signerKey k (field blk 1 1) with
  | some (c, t), some key =>
    decide (s.secGtc ≤ t + 19200000000) && pssVerify key (slice blk 0x280 512) (c ++ blk.take 0x280)
  | _, _ => false

/-- R666: the block is broken: another `op`, a reserved byte, a slot that does not exist. -/
def blockBroken (op : Nat) (blk : List Byte) : Bool :=
  decide (field blk 0 1 ≠ op) || decide (slice blk 3 61 ≠ zeros 61) || decide (slice blk 0x244 60 ≠ zeros 60) || decide (4 ≤ field blk 2 1)

/-- A command of R667: its code, the states that allow it, whether it is a transition, who signs it, its effect on the block read.
The first signed command consumes the challenge, whatever its result (R668). -/
def State.secCommand (s : State) (p op : Nat) (allowed : List Nat) (transition : Bool) (k : SecSigner) (hv : HostView)
    (f : List Byte → State → State) : State :=
  s.secGo p op (fun s =>
    let spent (t : State) : State := if k = .nobody then t else { t with sec := { t.sec with challenge := none } }
    if !allowed.contains s.lifecycle then spent (s.secResult 1)
    else if transition && s.anyAccepted then spent (s.secResult 4)
    else
      let s := s.merge hv
      match s.readHost hv s.sec.cmdAddr 1152 with
      | none => spent (s.secResult 7)
      | some blk =>
        if blockBroken op blk then spent (s.secResult 9)
        else if k ≠ .nobody && !s.tokenOk k blk then spent (s.secResult 2)
        else f blk (spent s))

/-- R667: fuses are blown on each healthy die in ascending order; die `bad` fails its blow: it is lost, and the command gives
FUSE_FAIL. -/
def State.blow (s : State) (bad : Option Nat) (f : Fuses → Fuses) : State :=
  let hit := match bad with | some d => s.healthy d | none => false
  let s := s.healthyDies.foldl (fun s d => if bad = some d then s else s.modDie d (fun x => { x with fuse := f x.fuse })) s
  let s := match bad with | some d => if hit then s.loseDie d 0x0103 else s | none => s
  s.secResult (if hit then 8 else 0)

/-- A slot and key of a block. -/
def blockSlot (blk : List Byte) : Nat := field blk 2 1
/-- The hash of the key of a block. -/
def blockKeyHash (blk : List Byte) : List Byte := sha512 (slice blk 0x40 516)

/-- Fused, unrevoked slots. -/
def Fuses.liveSlots (f : Fuses) : List Nat := (List.range 4).filter (fun c => (f.slotHash.getD c none).isSome && !bit f.revoked c)

/-- KEY_LOAD (R659, R667). -/
def execKeyLoad (p : Nat) (hv : HostView) (s : State) : Host.Outcome State Fault Refusal :=
  (s.secCommand p 2 [0, 1, 2, 3, 4] false .nobody hv (fun blk s =>
    let c := blockSlot blk
    if s.fuse.slotHash.getD c none = some (blockKeyHash blk) then
      (s.healthyDies.foldl (fun s d => s.modDie d (fun x => { x with keys := x.keys.set (c + 1) (some (slice blk 0x40 516)) })) s).secResult 0
    else s.secResult 3)).done

/-- KEY_FUSE (R667): unsigned in PROVISIONED with no slot fused. -/
def execKeyFuse (p : Nat) (hv : HostView) (bad : Option Nat) (s : State) : Host.Outcome State Fault Refusal :=
  let k : SecSigner := if s.lifecycle = 1 ∧ s.fuse.slotHash.all Option.isNone then .nobody else .customer
  (s.secCommand p 3 [1, 2] false k hv (fun blk s =>
    let c := blockSlot blk
    if (s.fuse.slotHash.getD c none).isSome then s.secResult 5
    else s.blow bad (fun f =>
      if (f.slotHash.getD c none).isSome then f else { f with slotHash := f.slotHash.set c (some (blockKeyHash blk)) }))).issueAll.done

/-- KEY_REVOKE (R660, R667). -/
def execKeyRevoke (p : Nat) (hv : HostView) (bad : Option Nat) (s : State) : Host.Outcome State Fault Refusal :=
  (s.secCommand p 4 [1, 2] false .customer hv (fun blk s =>
    let c := blockSlot blk
    if s.fuse.liveSlots = [c] then s.secResult 6
    else s.blow bad (fun f => { f with revoked := setBit f.revoked c }))).issueAll.done

/-- ROLLBACK_COMMIT (R663): the counter rises to the running image's `svn`. -/
def execRollbackCommit (p : Nat) (hv : HostView) (bad : Option Nat) (s : State) : Host.Outcome State Fault Refusal :=
  (s.secCommand p 5 [1, 2] false .customer hv (fun _ s =>
    let v := (((s.die (s.healthyDies.headD 0)).fw).map (·.svn)).getD 0
    s.blow bad (fun f => { f with rollback := Max.max f.rollback v }))).issueAll.done

/-- SIGN_REQUIRE (R667). -/
def execSignRequire (p : Nat) (hv : HostView) (bad : Option Nat) (s : State) : Host.Outcome State Fault Refusal :=
  (s.secCommand p 6 [1, 2] false .customer hv (fun _ s => s.blow bad (fun f => { f with signRequired := true }))).issueAll.done

/-- LC_FIELD (R656, R667). -/
def execLcField (p : Nat) (hv : HostView) (bad : Option Nat) (s : State) : Host.Outcome State Fault Refusal :=
  (s.secCommand p 7 [1] true .customer hv (fun _ s => (s.blow bad (fun f => { f with life := Max.max f.life 2 })).wipeVaults)).issueAll.done

/-- DEBUG_UNLOCK (R656, R667). -/
def execDebugUnlock (p : Nat) (hv : HostView) (s : State) : Host.Outcome State Fault Refusal :=
  (s.secCommand p 8 [2] true .customer hv (fun _ s =>
    (({ s with sec := { s.sec with debug := true } } : State).wipeVaults).secResult 0)).done

/-- RELOCK (R656, R667). -/
def execRelock (p : Nat) (hv : HostView) (s : State) : Host.Outcome State Fault Refusal :=
  (s.secCommand p 9 [3] true .nobody hv (fun _ s =>
    (({ s with sec := { s.sec with debug := false } } : State).wipeVaults).secResult 0)).done

/-- INJECT_UNLOCK (R648, R667). -/
def execInjectUnlock (p : Nat) (hv : HostView) (s : State) : Host.Outcome State Fault Refusal :=
  (s.secCommand p 10 [2] false .customer hv (fun _ s => (s.modDies (fun x => { x with injUnlocked := true })).secResult 0)).done

/-- LC_RETURN (R656, R667). -/
def execLcReturn (p : Nat) (hv : HostView) (bad : Option Nat) (s : State) : Host.Outcome State Fault Refusal :=
  (s.secCommand p 11 [2, 3] true .customer hv (fun _ s =>
    (({ s with sec := { s.sec with debug := false } } : State).blow bad (fun f => { f with life := Max.max f.life 4 })).wipeVaults)).issueAll.done

/-- LC_SCRAP (R656, R667, R671): unsigned in BLANK; the wrapped device key and the certificate are gone. -/
def execLcScrap (p : Nat) (hv : HostView) (bad : Option Nat) (s : State) : Host.Outcome State Fault Refusal :=
  let k : SecSigner := if s.lifecycle = 0 then .nobody else .rootOrCustomer
  (s.secCommand p 12 [0, 1, 2, 3, 4] true k hv (fun _ s =>
    (({ s with sec := { s.sec with debug := false } } : State).blow bad (fun f =>
      { f with life := Max.max f.life 5, devKey := { f.devKey with d := none }, cert := zeros 2048 })).wipeVaults)).issueAll.done

end Sys2Proof.Machine
end

