-- ==== Sys2Proof/Machine/Startup.lean ====
section
/-!
DEFINITION. Power-on and start-up (R378, R393, R546, R677, R692, R696, R701, R712), the resets (R633, R687, R696 to R700, R702, R716).
-/
namespace Sys2Proof.Machine

/-! ### Start-up -/

/-- R655, R657, R692: the fuses are read and settled, and the power averages filled. -/
def State.readFuses (s : State) : State :=
  let share := s.evenShare
  ((s.modDies (fun x => { x with power := x.power.afterReset share (x.power.clDisable) })).settleLife).settleKeyFuses

/-- R712: the majority of three samples of the straps. -/
def majority (a b c : Nat) : Nat := (a &&& b) ||| (a &&& c) ||| (b &&& c)

/-- POWER_ON_RESET (R701 steps 1 and 2, R712): PORST_N is released; the straps are sampled, three times; the fuses are read and settled. -/
def execPowerOnReset (straps : Nat) (s : State) (second third : Nat := straps) : Host.Outcome State Fault Refusal :=
  if !s.boot.held then s.idle
  else
    let s : State := { s with boot := { s.boot with held := false, released := s.now }, pins := { s.pins with straps := majority straps second third % 16, driven := true } }
    s.readFuses.done

/-- ROOT_PLL_LOCK (R677, R701): the dividers start; the links begin to train. -/
def execRootPllLock (s : State) : Host.Outcome State Fault Refusal :=
  if s.boot.held || s.boot.pll then s.idle
  else
    let s : State := { s with boot := { s.boot with pll := true }, ports := s.ports.map (fun p => { p with st := .training }) }
    s.settle.done

/-- R546: die 0, or the lowest-numbered healthy die where die 0 is lost, starts its GTC at 0. -/
def State.startGtc (s : State) : State :=
  if s.boot.gtcStarted || s.ports.any (fun p => p.st = .training) then s
  else
    let s := s.modDie (s.healthyDies.headD 0) (fun x => { x with gtc := 0, gtcRun := true })
    { s with boot := { s.boot with gtcStarted := true } }

/-- LINK_TRAINING_DONE (R378, R379, R393, R701): host port `k` has trained at rate code `rate`, at most HPT_MAX_RATE, or, with a
rate code above 5, cannot train. When the links have finished, die 0 starts the GTC. -/
def execLinkTrainingDone (k rate : Nat) (x32 cache : Bool) (s : State) : Host.Outcome State Fault Refusal :=
  if s.boot.held || (s.port k).st ≠ .training then s.idle
  else if 5 < rate then
    let s := s.modPort k (fun p => { p with st := .failed, trained := false })
    let s := if (s.port (1 - k)).st = .failed then (s.logErr k 0x0041 (unitCode 11 k) 0).packageFatal else s.logErr k 0x0021 (unitCode 11 k) 1
    (s.startGtc.settle).done
  else
    let s := (s.trainPort k rate x32 cache).modPort k (fun p => { p with st := .inService })
    let s := if x32 then s.logErr k 0x0023 (unitCode 11 k) 32 else s
    (s.startGtc.settle).done

/-- GTC_START (R546): every other die loads the message's count. -/
def execGtcStart (s : State) : Host.Outcome State Fault Refusal :=
  if !s.boot.gtcStarted then s.idle
  else
    match s.healthyDies.find? (fun d => (s.die d).gtcRun) with
    | none => s.idle
    | some e =>
      let g := s.gtc e
      .next (s.modDies (fun x => if x.healthy && !x.gtcRun then { x with gtc := g, gtcRun := true } else x))

/-- PORST_N_ASSERT (R696, R710, R721): everything is lost but the fuses and host memory. -/
def execPorstNAssert (s : State) : Host.Outcome State Fault Refusal :=
  .next (State.powerOff s.ident (s.dies.map (·.fuse)) s.host s.now s.free s.pending)

/-! ### Package warm reset (R480, R633, R659, R687, R696, R699, R700, R735) -/

/-- A die through a package warm reset: fuses, repairs, quarantines, keys and training stay; one that has shut itself down stays lost (R693), and
so does one that cannot serve its slices (R21). -/
def Die.warm_ (x : Die) : Die :=
  { Die.reset x.fuse with
    lost := (x.lost && x.power.thermalStop) || x.unservable
    keys := x.keys, spares := x.spares, lanesUmlin := x.lanesUmlin, linksUp := x.linksUp, gtc := x.gtc, gtcRun := x.gtcRun
    units := x.units.map (fun e => (e.1, e.2.anew))
    clusters := x.clusters.zipIdx.map (fun e =>
      { Cluster.reset with failed := e.1.failed, off := e.1.failed || bit x.power.keptDisable e.2 || x.power.thermalStop })
    power := { DiePower.reset with clDisable := x.power.keptDisable, thermalStop := x.power.thermalStop, temp := x.power.temp, avsFallback := x.power.avsFallback } }

/-- A trained port serves again after a package warm reset; its pending work is gone. -/
def Port.warm (p : Port) : Port :=
  { Port.reset with
    st := if p.st = .inService || p.trained then .inService else p.st
    trained := p.trained, x32 := p.x32, cache := p.cache, rate := p.rate, coherent := p.coherent, downSince := p.downSince }

/-- A package warm reset: start-up from step 2 with the PHYs trained and the GTC running. -/
def State.warmReset (s : State) : State :=
  let t := State.powerOff s.ident (s.dies.map (·.fuse)) s.host s.now s.free s.pending
  let t : State := { t with
    dies := s.dies.map Die.warm_, ports := s.ports.map Port.warm, testPort := s.testPort
    sec := { Security.reset with tamper := s.sec.tamper, glitch := s.sec.glitch }
    boot := { s.boot with memReady := false, goHeld := false, fwReady := false, warmArm := none, sbArm := none }
    pins := { t.pins with owner := s.pins.owner, straps := s.pins.straps }
    regs := { t.regs with rstBusy := true } }
  t.readFuses.settle

/-- The window of R699 in CCLK. -/
def armWindow : Nat := 1000 * countsPerUs

/-- An arming time is still in its window. -/
def State.armedAt (s : State) (t : Option Nat) : Bool := match t with | some a => decide (s.now ≤ a + armWindow) | none => false

/-- The RW fields of RST_CMD (R698) as a write gives them. -/
def rstWord (level die cl queue : Nat) : Nat := level % 4 + at' (die % 8) 2 + at' (cl % 8) 5 + at' (queue % 16384) 8

/-- A `go` of RST_CMD below level PACKAGE: it disarms a package reset. -/
def State.resetGo (s : State) (p v : Nat) (f : State → State) : State :=
  if s.takes p then
    let s := s.modRegs (fun r => { r with rstCmd := v })
    f { s with boot := { s.boot with warmArm := none } }
  else s

/-- The result of a reset command. -/
def State.resetResult (s : State) (r : Nat) : State := s.modRegs (fun x => { x with rstResult := r })

/-- A reset takes place: a pending challenge is discarded (R668). -/
def State.resets (s : State) : State := ({ s with sec := { s.sec with challenge := none } } : State).resetResult 0

/-- PACKAGE_WARM_RESET (R699): the first `go` arms; one within 1 ms of it resets the package. -/
def execPackageWarmReset (p : Nat) (s : State) (die cl queue : Nat := 0) : Host.Outcome State Fault Refusal :=
  if !s.takes p then s.idle
  else if s.armedAt s.boot.warmArm then s.warmReset.done
  else
    let s := s.modRegs (fun r => { r with rstCmd := rstWord 3 die cl queue, rstResult := 3 })
    .next { s with boot := { s.boot with warmArm := some s.now } }

/-- PACKAGE_RESET_ARM_EXPIRY (R699, R716): an arming lapses. -/
def execPackageResetArmExpiry (s : State) : Host.Outcome State Fault Refusal :=
  let keep (t : Option Nat) : Option Nat := if s.armedAt t then t else none
  .next { s with boot := { s.boot with warmArm := keep s.boot.warmArm, sbArm := keep s.boot.sbArm } }

/-! ### The narrower resets -/

/-- QUEUE_RESET (R696, R700): the context of a disabled, empty queue. -/
def execQueueReset (p q : Nat) (s : State) (die cl : Nat := 0) : Host.Outcome State Fault Refusal :=
  .next (s.resetGo p (rstWord 0 die cl q) (fun s =>
    if 16384 ≤ q || (s.queue q).st ≠ .disabled || s.jobs.any (fun j => j.q = q) || !(s.queue q).recovered.isEmpty then s.resetResult 1
    else ((s.dropLine q).resets).modQueue q (fun _ => Queue.reset)))

/-- A cluster's storage is gone: banks, accumulator memory, slices under way on its units (R696). -/
def Die.clearCluster (x : Die) (c now : Nat) : Die :=
  { x with
    clusters := x.clusters.modify c (fun k => { k with banks := List.replicate 66 2, idleSince := now, dmaWaits := [], dmaBlock := false })
    flips := x.flips.filter (fun f => !(decide (f.mem ≤ 1) && f.cl = c))
    units := x.units.map (fun e => if e.1 / 4096 ≠ 6 && unitCluster e.1 = c then (e.1, { e.2 with running := none }) else e) }

/-- R687: a power-state change that a reset of a cluster meets is abandoned: the die is in D0, its cluster set follows
`cl_disable`. -/
def State.abandonChange (s : State) (d : Nat) : State :=
  let p := (s.die d).power
  if p.change.isNone then s
  else
    let keep := p.keptDisable
    let s := s.modDie d (fun x => { x with power := { x.power with change := none, state := 0, clDisable := keep, ctl := keep * 8 } })
    s.setClusters d 1 keep

/-- CLUSTER_RESET (R687, R697, R700): the cluster's jobs are ended and re-dispatched, its storage lost. -/
def execClusterReset (p d c : Nat) (s : State) (queue : Nat := 0) : Host.Outcome State Fault Refusal :=
  (s.resetGo p (rstWord 1 d c queue) (fun s =>
    if s.n ≤ d || 5 ≤ c then s.resetResult 2
    else if !s.healthy d then s.resets
    else
      let s := (s.redispatchAll (s.jobsOnCluster d c)).modDie d (fun x => x.clearCluster c s.now)
      ((s.abandonChange d).resets).settleClusters)).issueAll.done

/-- R693: a die that has shut itself down returns only once it is cool. -/
def State.coolEnough (s : State) (d : Nat) : Bool :=
  !(s.die d).power.thermalStop || decide (tempOf (s.die d).power.temp < s.throttleAt)

/-- DIE_RESET (R376, R687, R696, R697, R700, R702): the die's jobs are recovered and it returns to service, unless something bars
it (State.returnBar). -/
def execDieReset (p d : Nat) (s : State) (cl queue : Nat := 0) : Host.Outcome State Fault Refusal :=
  (s.resetGo p (rstWord 2 d cl queue) (fun s =>
    if s.n ≤ d then s.resetResult 2
    else if (s.die d).returning then s
    else if (s.healthy d && (s.die d).power.state = 0 && s.lastD0 d) || !s.coolEnough d then s.resetResult 1
    else
      let keep := (s.die d).power.keptDisable
      let s := s.resets
      let s := s.dropDie d false
      if s.healthyDies.isEmpty then s
      else (s.modRegs (fun r => { r with rstBusy := (s.returnBar d).isNone })).startReturn d keep)).issueAll.done

/-! ### The sideband's reset (R716) -/

/-- A value written to `sb_reset`. -/
def State.sidebandReset (s : State) (v : Nat) : State :=
  if v % 256 ≠ 0xA5 then { s with boot := { s.boot with sbArm := none } }
  else if s.armedAt s.boot.sbArm then s.warmReset
  else { s with boot := { s.boot with sbArm := some s.now } }

end Sys2Proof.Machine
end

