-- ==== Sys2Proof/Machine/Beats.lean ====
section
/-!
DEFINITION. The host heartbeat and HEALTHY (R588 to R592), PPS (R547), declared windows (R570), TIME records (R531), the trace
memory's initialisation (R717, R718).
-/
namespace Sys2Proof.Machine

/-! ### Heartbeat and HEALTHY -/

/-- A beat. -/
def State.beat (s : State) : State :=
  (s.modRegs (fun r => { r with hbLast := s.now, hbGtc := s.gtc (s.healthyDies.headD 0), hbAlive := true })).settle

/-- BEAT (R588, R589): a write to HPT_HB_VALUE with a value that differs from the one held, or a write of HPT_HB_TIMEOUT. -/
def execBeat (p : Nat) (timeout : Bool) (v : Nat) (s : State) : Host.Outcome State Fault Refusal :=
  if !s.portUp p then s.idle
  else if timeout then ((s.modRegs (fun r => { r with hbTimeout := clampZero 10 1000000 (v % 2 ^ 32) })).beat).done
  else if s.regs.hbValue = v % 2 ^ 32 then s.idle
  else ((s.modRegs (fun r => { r with hbValue := v % 2 ^ 32 })).beat).done

/-- HEARTBEAT_LOST (R590): an armed heartbeat is no longer alive. -/
def execHeartbeatLost (s : State) : Host.Outcome State Fault Refusal :=
  let r := s.regs
  if r.hbTimeout ≠ 0 && r.hbAlive && decide (r.hbLast + r.hbTimeout * countsPerUs < s.now) then
    let s := s.logErr (s.sup.die.getD (s.healthyDies.headD 0)) 0x0024 0 r.hbGtc
    ((s.modRegs (fun r => { r with hbAlive := false })).settle).done
  else s.idle

/-- HEALTHY_RISE (R592): every condition has held for 10 µs. -/
def execHealthyRise (s : State) : Host.Outcome State Fault Refusal :=
  match s.pins.healthyFrom with
  | some t =>
    if s.healthHolds && decide (t + 10 * countsPerUs ≤ s.now) then .next { s with pins := { s.pins with healthy := true, healthyFrom := none } }
    else s.idle
  | none => s.idle

/-! ### PPS (R547) -/

/-- Counts in a second. -/
def secondCounts : Nat := 320000000

/-- A GTC at an edge is plausible. -/
def Pps.valid (x : Pps) (g : Nat) : Bool :=
  x.first || (match x.last with
    | none => true
    | some l => decide (l + secondCounts ≤ g + x.window ∧ g ≤ l + secondCounts + x.window))

/-- A time on the old count as the new count has it. -/
def shiftTime (g v t : Nat) : Nat := t + v - g

/-- Every GTC is loaded with `v` in place of `g`; times kept as GTC counts move with it; trace begins again with a TIME record (R545). -/
def State.loadGtc (s : State) (g v : Nat) : State :=
  let mv := shiftTime g v
  let s := (s.modRegs (fun r => { r with rsvAt := r.rsvAt.map mv })).modDies (fun x => { x with
    gtc := if x.gtcRun then v else x.gtc
    trace := { x.trace with timeDue := true }
    units := x.units.map (fun e => (e.1, { e.2 with
      since := e.2.since.map mv, mismatchAt := e.2.mismatchAt.map (fun m => (m.1, mv m.2)), running := e.2.running.map (fun r => (r.1, mv r.2)) })) })
  { s with sec := { s.sec with challenge := s.sec.challenge.map (fun c => (c.1, mv c.2)) } }

/-- The load of CLK_PPS_VALUE at an edge that is armed (R545, R547). -/
def State.ppsLoad (s : State) : State :=
  let s := s.loadGtc (s.gtc (s.healthyDies.headD 0)) s.pps.value
  { s with pps := { s.pps with arm := false, first := false, last := some s.pps.value, latched := s.pps.value, lost := false, edgeAt := none } }

/-- PPS_ARM: refused while a job is accepted; the next edge counts as a first one, or a valid one of the same CCLK period is armed (R734). -/
def execPpsArm (p : Nat) (s : State) : Host.Outcome State Fault Refusal :=
  if !s.takes p then s.idle
  else if s.anyAccepted then .next (({ s with pps := { s.pps with busy := true } } : State).raised 4)
  else if s.pps.edgeAt = some s.now then .next s.ppsLoad
  else .next { s with pps := { s.pps with arm := true, first := true } }

/-- PPS_EDGE (R545, R547): a valid edge latches the GTC, and loads it when armed and no job is accepted: one that was accepted after the
arming write leaves the load to a later edge (DESIGN CHOICE, log entry 66). Another edge is logged. -/
def execPpsEdge (s : State) : Host.Outcome State Fault Refusal :=
  if !s.boot.gtcStarted then s.idle
  else
    let g := s.gtc (s.healthyDies.headD 0)
    if !s.pps.valid g then .next (s.logErr s.pins.owner 0x0007 0 g)
    else if s.pps.arm && !s.anyAccepted then .next s.ppsLoad
    else .next { s with pps := { s.pps with first := false, last := some g, latched := g, lost := false, edgeAt := some s.now } }

/-- PPS_LOST (R547): no valid edge for 640,000,000 counts after the previous one. -/
def execPpsLost (s : State) : Host.Outcome State Fault Refusal :=
  match s.pps.last with
  | some l =>
    if l + 2 * secondCounts ≤ s.gtc (s.healthyDies.headD 0) then .next { s with pps := { s.pps with lost := true, first := true } } else s.idle
  | none => s.idle

/-! ### Windows, TIME records -/

/-- SAFETY_WINDOW_CLOSE (R570): a window is no longer open, and the values written before this GTC count take effect; they do so of
themselves at the first such count (State.tick). -/
def execSafetyWindowClose (i : Nat) (s : State) : Host.Outcome State Fault Refusal :=
  if s.regs.windowDue (s.gtc (s.healthyDies.headD 0)) i then .next (s.modRegs (fun r => r.settleWindow (s.gtc (s.healthyDies.headD 0)) i)) else s.idle

/-- TIME_RECORD (R531): GTC bits [63:40] have changed on a die, or a TIME record is due. -/
def execTimeRecord (d : Nat) (s : State) : Host.Outcome State Fault Refusal :=
  if s.healthy d && s.regs.rcdDest ≠ 0 then .next (s.modDie d (fun x => x.pushTrace d s.regs.rcdEventMask none)) else s.idle

/-! ### The trace memory (R717, R718) -/

/-- TRACE_MEMORY_INIT (R718): 400 µs after RP_RST_N is released: the Read ID and the configuration succeed (`ok`) and the device has
`density` Mib, or RP_ERROR is set. Of a larger device 64 MiB are used. -/
def execTraceMemoryInit (ok : Bool) (density : Nat) (s : State) : Host.Outcome State Fault Refusal :=
  if s.boot.fwReady && bit s.pins.straps 0 && !s.pins.rpReset && !s.pins.rpTried && !s.regs.rpReady && decide (s.pins.rpFrom + 400 * countsPerUs ≤ s.now) then
    let s : State := { s with pins := { s.pins with rpTried := true } }
    if ok && decide (64 ≤ density) then
      let s := s.modRegs (fun r => { r with rpReady := true })
      .next { s with traceMem := { s.traceMem with size := Min.min density 512 * 131072 } }
    else .next ((s.modRegs (fun r => { r with rpError := true })).raised 5)
  else s.idle

end Sys2Proof.Machine
end

