-- ==== Sys2Proof/Machine/TestPort.lean ====
section
/-!
DEFINITION. The test port (R720, R721): the TAP controller of IEEE 1149.1, its chain over the dies, and the low-speed outputs (R708 to
R710) as the state and the boundary scan drive them.
-/
namespace Sys2Proof.Machine

/-- The TAP controller's next state. -/
def Tap.next : Tap → Bool → Tap
  | .reset, m => if m then .reset else .idle
  | .idle, m => if m then .selDR else .idle
  | .selDR, m => if m then .selIR else .capDR
  | .capDR, m => if m then .ex1DR else .shDR
  | .shDR, m => if m then .ex1DR else .shDR
  | .ex1DR, m => if m then .upDR else .pauDR
  | .pauDR, m => if m then .ex2DR else .pauDR
  | .ex2DR, m => if m then .upDR else .shDR
  | .upDR, m => if m then .selDR else .idle
  | .selIR, m => if m then .reset else .capIR
  | .capIR, m => if m then .ex1IR else .shIR
  | .shIR, m => if m then .ex1IR else .shIR
  | .ex1IR, m => if m then .upIR else .pauIR
  | .pauIR, m => if m then .ex2IR else .pauIR
  | .ex2IR, m => if m then .upIR else .shIR
  | .upIR, m => if m then .selDR else .idle

/-- R720: the IDCODE of a die. -/
def Ident.idcode (i : Ident) : Nat :=
  i.stepping * 2 ^ 28 + (if i.dieCount = 2 then 0x5802 else if i.dieCount = 4 then 0x5804 else 0x5808) * 2 ^ 12 + 0x4D5 * 2 + 1

/-- The low-speed balls in the boundary register of dies 0 and 1, in the order of R707 (log entry 17): PORST_N 0, HEALTHY 1,
FAULT_N 2, ALERT_N 3, TAMPER_N 4 and 5, PPS_IN 6, STRAP 7 to 10, I3C 11 and 12, the Recorder port from 13. -/
def boundaryBalls : Nat := 26

/-- The length of a die's boundary register: the AVS balls come last. -/
def boundaryLength (d : Nat) : Nat := if d < 2 then boundaryBalls + 3 else 3

/-- The instruction in force in a die. -/
def TestPort.instr (t : TestPort) (d : Nat) : Nat := t.ir.getD d 1

/-- R721, R654: in FIELD and FIELD_DEBUG the cell of HEALTHY drives only low. -/
def State.healthyClamped (s : State) : Bool := s.lifecycle = 2 || s.lifecycle = 3

/-- R708, R710, R720: an output ball of the pin owner: what the block drives, unless the boundary scan drives it (EXTEST, CLAMP) or
releases it (HIGHZ), when the board's resistor sets it. -/
def State.outBall (s : State) (cell : Nat) (own pull : Bool) : Bool :=
  let o := s.pins.owner
  let ir := s.testPort.instr o
  if !s.pins.driven || s.pins.gapEnd.isSome then pull
  else if ir = 0 ∨ ir = 4 then ((s.testPort.boundary.getD o []).getD cell pull)
  else if ir = 5 then pull
  else own

/-- HEALTHY as driven. -/
def State.healthyBall (s : State) : Bool :=
  let o := s.pins.owner
  let v := s.outBall 1 s.pins.healthy false
  if (s.testPort.instr o = 0 || s.testPort.instr o = 4) && s.healthyClamped then false else v
/-- FAULT_N as driven. -/
def State.faultBall (s : State) : Bool := s.outBall 2 s.pins.faultN true
/-- ALERT_N as driven. -/
def State.alertBall (s : State) : Bool := s.outBall 3 s.pins.alertN true

/-- The level of a ball as a boundary cell captures it; `n` numbers the look at balls that only the board knows. -/
def State.ballLevel (s : State) (n cell : Nat) : Bool :=
  if cell = 0 then !s.boot.held
  else if cell = 1 then s.healthyBall
  else if cell = 2 then s.faultBall
  else if cell = 3 then s.alertBall
  else if 7 ≤ cell ∧ cell < 11 then bit s.pins.straps (cell - 7)
  else Config.pinLevel n cell

/-- The cells of a die's boundary register as they capture. -/
def State.captureCells (s : State) (d n : Nat) : List Bool :=
  if d < 2 then tabulate boundaryBalls (s.ballLevel n) ++ tabulate 3 (fun i => Config.pinLevel n (64 + 3 * d + i))
  else tabulate 3 (fun i => Config.pinLevel n (64 + 3 * d + i))

/-- What the data register of a die captures under its instruction: the boundary cells, the IDCODE, or a zero for a bypass. -/
def State.captureDr (s : State) (d n : Nat) : List Bool :=
  match s.testPort.instr d with
  | 0 => s.captureCells d n
  | 2 => s.captureCells d n
  | 1 => tabulate 32 (fun i => bit s.ident.idcode i)
  | _ => [false]

/-- A bit shifted through the data registers of the chain: the registers after it, and what leaves the last. -/
def shiftChain : List (List Bool) → Bool → List (List Bool) × Bool
  | [], b => ([], b)
  | r :: rest, b =>
    let (rs, o) := shiftChain rest (r.headD b)
    ((r.drop 1 ++ [b]) :: rs, o)

/-- A bit shifted through the instruction registers of the chain. -/
def shiftIr : List Nat → Bool → List Nat
  | [], _ => []
  | r :: rest, b => (r / 2 + 128 * bit01 b) :: shiftIr rest (bit r 0)

/-- The instruction that a code selects: codes that name none, and debug instructions, whose codes the spec does not give, select
BYPASS (log entry 17). -/
def tapSelect (code : Nat) : Nat :=
  let v := Config.tapInstruction (code % 256)
  if v < 6 then v else 3

/-- What a TCK cycle does in the controller's state, before it leaves it. -/
def State.tapAct (s : State) (tdi : Bool) : State :=
  let t := s.testPort
  match t.tap with
  | .capDR =>
    let (n, s) := s.fresh
    { s with testPort := { t with dr := tabulate s.n (fun d => s.captureDr d n) } }
  | .shDR => { s with testPort := { t with dr := (shiftChain t.dr tdi).1 } }
  | .capIR =>
    { s with testPort := { t with irShift := tabulate s.n (fun d => 1 + 4 * (Config.unstated 0x1149 d % 64)) } }
  | .shIR => { s with testPort := { t with irShift := shiftIr t.irShift tdi } }
  | _ => s

/-- What entering a state does: updates, and the reset of the controller. -/
def State.tapEnter (s : State) (a : Tap) : State :=
  let t := s.testPort
  match a with
  | .upDR =>
    { s with testPort := { t with boundary := tabulate s.n (fun d =>
        if t.instr d = 0 ∨ t.instr d = 2 then t.dr.getD d [] else t.boundary.getD d []) } }
  | .upIR => { s with testPort := { t with ir := t.irShift.map tapSelect } }
  | .reset => { s with testPort := { TestPort.reset s.n with boundary := t.boundary } }
  | _ => s

/-- TDO (R710): driven in Shift-DR and Shift-IR by the last die's register. -/
def TestPort.drive (t : TestPort) : TestPort :=
  match t.tap with
  | .shDR => { t with tdo := some ((t.dr.getLastD []).headD false) }
  | .shIR => { t with tdo := some (bit (t.irShift.getLastD 0) 0) }
  | _ => { t with tdo := none }

/-- TEST_PORT_CYCLE (R720, R721): a TCK cycle with TMS and TDI, or TRST_N low; the TAPs are held in reset while PORST_N is low. -/
def execTestPortCycle (tms tdi trst : Bool) (s : State) : Host.Outcome State Fault Refusal :=
  if s.boot.held || trst then .next { s with testPort := TestPort.reset s.n }
  else
    let a := s.testPort.tap.next tms
    let s := (s.tapAct tdi).tapEnter a
    .next { s with testPort := ({ s.testPort with tap := a } : TestPort).drive }

end Sys2Proof.Machine
end

