-- ==== Sys2Proof/Machine/Sideband.lean ====
section
/-!
DEFINITION. The management sideband (R713 to R716, R719) and the read timeout of the Recorder memory port (R713).
-/
namespace Sys2Proof.Machine

/-- R714: the target answers from 2 ms after PORST_N is released. -/
def State.sidebandUp (s : State) : Bool := !s.boot.held && decide (s.boot.released + 2000 * countsPerUs ≤ s.now)

/-- R709, R712, R714: the 7-bit static address, which the straps choose. -/
def State.staticAddr (s : State) : Nat := 0x30 + bitsOf s.pins.straps 3 2

/-- The target answers a transfer to an address: the static one or the dynamic one that the controller has assigned. A transfer that names none
is one to either. -/
def State.sidebandAt (s : State) (at_ : Option Nat) : Bool :=
  s.sidebandUp && (match at_ with | none => true | some a => a = s.staticAddr || s.pins.dynAddr = some a)

/-- The record at `sb_log_index`, as the ring would hold it; its ring sequence number is not yet given. -/
def State.sidebandRecord (s : State) : List Byte :=
  match s.sup.log[s.sideband.logIndex]? with
  | some r => if s.boot.fwReady then r.bytes (Config.unstated 0x715 s.sideband.logIndex % 2 ^ 32) else zeros 32
  | none => if s.boot.fwReady then List.replicate 32 0xFF else zeros 32

/-- 64 bytes of trace memory from an address. -/
def State.traceBytes (s : State) (a : Nat) : List Byte :=
  if s.boot.fwReady then tabulate 64 (fun i => s.traceMem.mem.getD (a + i) (Config.undefinedByte s.traceMem.epoch (a + i))) else zeros 64

/-- R715: the field that covers an offset: its first offset and its bytes. -/
def State.sidebandField (s : State) (o : Nat) : Nat × List Byte :=
  let w (v : Nat) : Nat := if s.boot.fwReady then v else 0
  if o < 0x04 then (0, natLE 4 0x4E544B53)
  else if o = 0x04 then
    (4, natLE 1 (bit01 s.healthyBall + 2 * bit01 s.boot.fwReady + 4 * bit01 s.regs.ldgReady + 8 * bit01 s.regs.tnkInitDone +
      16 * bit01 s.heartbeatOk + 32 * bit01 s.pins.fatal + 64 * bit01 s.sec.tamper + 128 * bit01 s.sec.glitch))
  else if o = 0x05 then (5, natLE 1 s.lifecycle)
  else if o = 0x06 then (6, natLE 1 (s.healthyDies.foldl (fun m d => setBit m d) 0))
  else if o = 0x07 then (7, natLE 1 s.pins.owner)
  else if o < 0x18 then (8, (tabulate 8 (fun d => natLE 2 (if d < s.n then (s.die d).power.temp else 0))).flatten)
  else if o < 0x28 then (0x18, (tabulate 8 (fun d => natLE 2 (if d < s.n then Min.min (s.die d).power.est 65535 else 0))).flatten)
  else if o < 0x2C then (0x28, natLE 4 (w s.sup.log.length))
  else if o < 0x30 then (0x2C, natLE 4 (w s.sup.errDropped))
  else if o < 0x34 then (0x30, natLE 4 (w s.sideband.logIndex))
  else if o < 0x40 then (o, [0])
  else if o < 0x60 then (0x40, s.sidebandRecord)
  else if o < 0x64 then (0x60, natLE 4 (w s.sideband.rpAddr))
  else if o < 0x80 then (o, [0])
  else if o < 0xC0 then (0x80, s.traceBytes s.sideband.rpAddr)
  else (o, [0])

/-- A byte read at the index: the first byte of a field captures it; the index advances. -/
def State.sidebandByte (s : State) : Byte × State :=
  let o := s.sideband.index
  let f := s.sidebandField o
  let cap := if o = f.1 then f else if s.sideband.capture.1 = f.1 ∧ s.sideband.capture.2.length = f.2.length then s.sideband.capture else f
  let b := cap.2.getD (o - f.1) 0
  let rp := if o = 0xBF then (s.sideband.rpAddr + 64) % 2 ^ 32 else s.sideband.rpAddr
  let s := if o = 0x80 then { s with traceMem := { s.traceMem with reading := true } } else s
  (b, { s with sideband := { s.sideband with index := (o + 1) % 256, capture := cap, rpAddr := rp } })

/-- Bytes read from the index on. -/
def State.sidebandBytes : Nat → State → List Byte × State
  | 0, s => ([], s)
  | n + 1, s =>
    let (b, s) := s.sidebandByte
    let (bs, s) := State.sidebandBytes n s
    (b :: bs, s)

/-- SIDEBAND_READ (R714, R715, R719): a read transfer of `n` bytes from the target at address `to`. -/
def execSidebandRead (n : Nat) (s : State) (at_ : Option Nat := none) : Host.Outcome State Fault Refusal :=
  if s.sidebandAt at_ then
    let (bs, s) := State.sidebandBytes n s
    .next { s with sideband := { s.sideband with data := bs } }
  else s.idle

/-- A byte of a 32-bit value replaced. -/
def putByte (v k : Nat) (b : Byte) : Nat := v - (v / 256 ^ k % 256) * 256 ^ k + b.toNat * 256 ^ k

/-- A byte written at the index. Before FW_READY the log and trace-memory fields are not there. -/
def State.sidebandStore (s : State) (b : Byte) : State :=
  let o := s.sideband.index
  let s :=
    if 0x30 ≤ o ∧ o < 0x34 then { s with sideband := { s.sideband with logIndex := putByte s.sideband.logIndex (o - 0x30) b } }
    else if 0x60 ≤ o ∧ o < 0x64 then
      { s with sideband := { s.sideband with rpAddr := putByte s.sideband.rpAddr (o - 0x60) b / 64 * 64 } }
    else if o = 0xF0 then s.sidebandReset b.toNat
    else s
  { s with sideband := { s.sideband with index := (o + 1) % 256 } }

/-- R714: the controller assigns a dynamic address (SETDASA, ENTDAA). -/
def State.assignAddr (s : State) (assign : Option Nat) : State :=
  match assign with
  | some a => if s.sidebandUp then { s with pins := { s.pins with dynAddr := some (a % 128) } } else s
  | none => s

/-- SIDEBAND_WRITE (R714 to R716): a dynamic address assigned, if any, and an index byte, then data bytes, to the target at address `to`. -/
def execSidebandWrite (bytes : List Byte) (s : State) (at_ assign : Option Nat := none) : Host.Outcome State Fault Refusal :=
  let s := s.assignAddr assign
  match bytes with
  | [] => s.idle
  | i :: bs =>
    if s.sidebandAt at_ then
      (bs.foldl State.sidebandStore { s with sideband := { s.sideband with index := i.toNat } }).done
    else s.idle

/-- SB_RESET (R716): a write of `v` to `sb_reset` of the target at address `to`. -/
def execSbReset (v : Nat) (s : State) (at_ : Option Nat := none) : Host.Outcome State Fault Refusal :=
  if s.sidebandAt at_ then (s.sidebandReset v).done else s.idle

/-- SIDEBAND_BUS_TIMEOUT (R713): the target releases both lines and resets its interface: its index, what it has captured, its dynamic address. -/
def execSidebandBusTimeout (s : State) : Host.Outcome State Fault Refusal :=
  .next { s with sideband := { s.sideband with index := 0, capture := (0, []) }, pins := { s.pins with dynAddr := none } }

/-- RP_READ_TIMEOUT (R713): the read of trace memory issued last finds no strobe edge: it is abandoned, its bytes are undefined, and
RP_ERROR is set. -/
def execRpReadTimeout (s : State) : Host.Outcome State Fault Refusal :=
  if s.traceMem.reading then
    let (n, s) := s.fresh
    let s := (s.modRegs (fun r => { r with rpError := true })).raised 5
    let cap := if s.sideband.capture.1 = 0x80 then (0x80, tabulate 64 (Config.undefinedByte n)) else s.sideband.capture
    .next { s with traceMem := { s.traceMem with reading := false }, sideband := { s.sideband with capture := cap } }
  else s.idle

end Sys2Proof.Machine
end

