-- ==== Sys2Proof/Machine/Clock.lean ====
section
/-!
DEFINITION. A CCLK period without a command (log entry 3): every running GTC counts (R545), and each die's trace records go to
their destination (R531 to R533).
-/
namespace Sys2Proof.Machine

/-- A running GTC counts (R545). -/
def Die.tick (x : Die) : Die := if x.gtcRun then { x with gtc := (x.gtc + 1) % 2 ^ 64 } else x

/-- The records of a trace part (R532): its share of the destination, in records of 16 bytes. -/
def State.tracePart (s : State) : Nat :=
  match s.regs.rcdDest with
  | 1 => 2 ^ s.regs.rcdHostSize / Max.max s.n 1 / 16
  | 2 => s.regs.traceBytes / 16
  | 3 => if bit s.pins.straps 0 && s.regs.rpReady then s.traceMem.size / Max.max s.n 1 / 16 else 0
  | _ => 0

/-- One record written at a die's index, circularly. -/
def State.putTrace (s : State) (d : Nat) (r : List Byte) : State :=
  let part := s.tracePart
  let i := (s.die d).trace.wrIndex % Max.max part 1
  let s :=
    match s.regs.rcdDest with
    | 1 => s.writeHost (s.regs.rcdHostBase + 16 * (d * part + i)) r
    | 2 => s.mergeHbm d (s.regs.traceBase + 16 * i) r
    | 3 =>
      { s with traceMem := { s.traceMem with mem := ((List.range 16).zip r).foldl (fun m (e : Nat × Byte) => m.insert (16 * (d * part + i) + e.1) e.2) s.traceMem.mem } }
    | _ => s
  s.modDie d (fun x => { x with trace := { x.trace with wrIndex := (x.trace.wrIndex + 1) % 2 ^ 64 } })

/-- R533: the records that a record which is lost itself stands for: a LOST record those that it counts. -/
def lostCount (r : List Byte) : Nat := if field r 5 1 = 0x1F then field r 8 4 else 1

/-- The records buffered on a die go to the destination, those for the trace memory over Umlin in class MGMT to the pin owner: all counted lost where there is nowhere to write them; kept while the
die may not write host memory; under STOP as many as the part still takes. A LOST record that is due follows as soon as there is room (R533). -/
def State.drainTrace (s : State) (d : Nat) : State :=
  let t := (s.die d).trace
  let part := s.tracePart
  let way := if s.regs.rcdDest = 1 then [atEgress d 3]
    else if s.regs.rcdDest = 3 then s.overUmlin d s.pins.owner 2 t.wrIndex
    else if s.regs.rcdDest = 2 then atHbm d (s.regs.traceBase + 16 * (t.wrIndex % Max.max part 1)) (16 * t.buf.length) 4 else []
  if t.buf.isEmpty || (s.regs.rcdDest = 1 && !s.mayWrite d) then s
  else if part ≠ 0 && !s.arbOpen way then s.queued way
  else if part = 0 then
    s.modDie d (fun x => { x with trace := { x.trace with buf := [], timeDue := true
                                                          dropped := Min.min (x.trace.buf.foldl (fun n r => n + lostCount r) x.trace.dropped) 0xFFFFFFFF } })
  else
    let k := if s.regs.rcdWrap then t.buf.length else part - t.wrIndex
    let s := (t.buf.take k).foldl (fun s r => s.putTrace d r) (s.granted way)
    s.modDie d (fun x =>
      let x : Die := { x with trace := { x.trace with buf := x.trace.buf.drop k } }
      if 0 < x.trace.dropped then x.pushTrace d s.regs.rcdEventMask none else x)

/-- One CCLK period with no command: time passes, every running GTC counts, trace is written, a new pin owner enables its outputs (R709), values written to
declared windows take effect where they are due (R570). Nothing else happens of itself: what
a time brings about is a command. A write to a host address that does not exist stops the block here (log entry 13). -/
def State.tick (s : State) : Host.Outcome State Fault Refusal :=
  match s.badWrite with
  | some a => .fault (.hostAddress a)
  | none =>
    let s := (List.range s.n).foldl State.drainTrace s
    let gap := match s.pins.gapEnd with
      | some t => if t ≤ s.now + 1 then none else some t
      | none => none
    let s : State := { s with now := s.now + 1, dies := s.dies.map Die.tick, pins := { s.pins with gapEnd := gap } }
    .next (s.modRegs (fun r => (List.range 8).foldl (fun r i => r.settleWindow (s.gtc (s.healthyDies.headD 0)) i) r))

end Sys2Proof.Machine
end

