-- ==== Sys2Proof/Machine/ControlJobs.lean ====
section
/-!
DEFINITION. SUSPEND, RESUME, CANCEL and ATTEST (R446 to R448, R466, R520 to R526, R672 to R675).
-/
namespace Sys2Proof.Machine

/-! ### Targets (R430, R447) -/

/-- A control job ends without effect: DONE_FLAGGED with NO_EFFECT (R447). -/
def State.noEffect (s : State) (q n : Nat) : State := (s.advise q n advNoEffect).complete q n outDone

/-- The target as a control job finds it: `gone` where it is not accepted, or its outcome is decided; `later` where
recovery has not placed it in a slot yet (R472). -/
inductive Target where
  | gone
  | later
  | job (t : Job)
  deriving DecidableEq, Repr

/-- The target of a control job as it stands. -/
def State.targetOf (s : State) (j : Job) : Target :=
  let (tq, tn) := j.target
  match s.job tq tn with
  | some t => if !t.accepted || t.st = .finished then .gone else .job t
  | none => if (s.queue tq).recovered.any (fun e => e.serial = tn) then .later else .gone

/-! ### SUSPEND (R520 to R522) -/

/-- R521: a target with no work in progress is suspended at once; its SUSPEND record is written (R466), and the SUSPEND waits for it
(phase 2). -/
def State.suspendNow (s : State) (t : Job) (q n : Nat) : State :=
  let s := s.leaveReady t.q t.s
  let s := (s.modJob t.q t.s (fun x => { x with st := .suspended })).setPhase q n 2
  ((s.traceEv t.owner 0x0A t.q t.s ((t.run.map (·.nextStage)).getD 0) 0).ledgerWrite t.owner (.suspend t.q t.s)).settleQueue t.q

/-- SUSPEND: the target stops at its next stage boundary, or is suspended at once; one that ends first, or that is suspended
already, leaves the SUSPEND without effect (R447, R522). -/
def execSuspend (q n : Nat) (s : State) : Host.Outcome State Fault Refusal :=
  match s.job q n with
  | none => s.idle
  | some j =>
    if j.st ≠ .running ∨ j.kind ≠ 7 then s.idle
    else match s.targetOf j with
      | .gone => if j.phase = 2 then s.idle else (s.noEffect q n).done
      | .later => s.idle
      | .job t =>
        if j.phase ≠ 0 then s.idle
        else if t.st = .suspended then (s.noEffect q n).done
        else if t.suspending then s.idle
        else if t.st = .running then
          if t.kind = 1 then
            .next ((s.modJob t.q t.s (fun x => { x with suspending := true })).setPhase q n 1)
          else s.idle
        else (s.suspendNow t q n).done

/-! ### RESUME (R521, R523) -/

/-- R521, R523: a suspended target is eligible again: where its waits put it, or at the tail of its group's list; in a
queue that is withdrawn it is parked. The RESUMED event of a dispatched one comes with its new placement. -/
def State.resumeTarget (s : State) (t : Job) : State :=
  let x := s.queue t.q
  let s := if t.dispatched then s else s.traceEv t.owner 0x0B t.q t.s 0 0
  if x.st = .withdrawing ∨ x.st = .withdrawn then s.modJob t.q t.s (fun x => { x with st := .parked })
  else if t.dispatched ∨ t.met then
    if !t.dispatched && t.flow ≠ 0 && (s.flowState t.flow).holder ≠ some (t.q, t.s) then
      s.modJob t.q t.s (fun x => { x with st := .flowWait })
    else s.becomeReady t
  else s.modJob t.q t.s (fun x => { x with st := .waiting })

/-- RESUME: the RESUME record is written (R466); the job completes when it is durable. -/
def execResume (q n : Nat) (s : State) : Host.Outcome State Fault Refusal :=
  match s.job q n with
  | none => s.idle
  | some j =>
    if j.st ≠ .running ∨ j.kind ≠ 8 ∨ j.phase ≠ 0 then s.idle
    else match s.targetOf j with
      | .gone => (s.noEffect q n).done
      | .later => s.idle
      | .job t =>
        if t.st = .suspended then
          (((s.resumeTarget t).ledgerWrite t.owner (.resume t.q t.s)).setPhase q n 1).done
        else (s.noEffect q n).done

/-! ### CANCEL (R446 to R448, R525, R526) -/

/-- The target ends CANCELLED and the CANCEL completes. -/
def State.cancelNow (s : State) (t : Job) (q n : Nat) : State :=
  ((s.undefOutputs t).complete t.q t.s outCancelled).complete q n outDone

/-- A prefetched operation of a job is discarded (R525). -/
def State.dropPrefetched (s : State) (q n : Nat) : State :=
  let drop (v : Slot) : Slot :=
    match v.pre with
    | some r => if r.q = q && r.s = n then ⟨v.cur, none⟩ else v
    | none => v
  s.modDies (fun x =>
    let l : KMap Slot := x.slots.map (fun e => (e.1, drop e.2))
    { x with slots := l.filter (fun e => e.2.cur.isSome || e.2.pre.isSome) })

/-- R526: the ports that the ABANDON of a cancelled load or update passes. -/
def State.cancelWay (s : State) (t : Job) : List ArbReq :=
  let w := t.f 0x42 2
  match (s.world w).update with
  | some u => if (t.kind = 5 || (t.kind = 4 && t.f 0x40 1 = 0)) && u.job = (t.q, t.s) then s.abandonWay w u else []
  | none => []

/-- R526: what a CANCEL of a running world job does; none where the target runs on. -/
def State.cancelWorld (s : State) (t : Job) : Option State :=
  let w := t.f 0x42 2
  if t.phase = 0 then some s
  else if t.kind = 4 ∧ t.f 0x40 1 = 1 then some (s.modBody w (fun x => { x with loading := none }))
  else if t.kind = 4 ∧ t.f 0x40 1 = 2 then some (s.modWorld w (fun x => { x with st := .ready }))
  else match (s.world w).update with
    | some u =>
      if u.job = (t.q, t.s) && u.dies.all (fun e => decide (e.2 < 4)) then some ((s.discardUpdate w).unload w) else none
    | none => none

/-- R526: the outcome of a CANCEL of a target that runs; none where the target runs on to its own end. -/
def State.cancelRunning (s : State) (t : Job) : Option State :=
  let i := t.f 0x40 1
  match t.kind with
  | 2 => some (if t.phase = 1 then (s.freeSlot i).afterLoad i else s)
  | 3 =>
    let x := s.planSlot i
    if t.phase = 1 ∧ x.st = .dropping ∧ x.dropper = (t.q, t.s) then
      some (((s.setPhase t.q t.s 2).modSlot i (fun x => { x with st := .ready })).afterLoad i)
    else some s
  | 4 => s.cancelWorld t
  | 5 => s.cancelWorld t
  | 6 => none
  | _ => some s

/-- CANCEL: the target ends at its next operation boundary, or at once; one that has ended, or that runs on to its own
end, leaves the CANCEL without effect. An outcome of higher code decided in the same GTC count gives way to it (R448). -/
def execCancel (q n : Nat) (s : State) : Host.Outcome State Fault Refusal :=
  match s.job q n with
  | none => s.idle
  | some j =>
    if j.st ≠ .running ∨ j.kind ≠ 9 then s.idle
    else match s.targetOf j with
      | .later => s.idle
      | .gone =>
        let (tq, tn) := j.target
        match s.job tq tn with
        | some t =>
          match t.outcome with
          | some o =>
            if t.st = .finished && o.gtcDone = s.gtc t.owner && decide (3 < o.status) && j.phase = 0 then
              let s := s.modJob tq tn (fun x => { x with outcome := some { outCancelled with gtcDone := o.gtcDone, die := o.die } })
              ((s.complete q n outDone).writeCompletions tq).done
            else (s.noEffect q n).done
          | none => (s.noEffect q n).done
        | none => (s.noEffect q n).done
      | .job t =>
        if !t.dispatched && s.expired t then ((s.complete t.q t.s outExpired).noEffect q n).done
        else if t.st = .running then
          if t.kind = 1 then
            let s := (s.dropPrefetched t.q t.s).modJob t.q t.s (fun x =>
              { x with cancelBy := some (x.cancelBy.getD (q, n)), cancelAt := if x.cancelBy.isSome then x.cancelAt else s.gtc t.owner })
            (((s.setPhase q n 1).settleCancel t.q t.s).issueAll).done
          else s.cross (s.cancelWay t) fun s =>
            match s.cancelRunning t with
            | some s => (s.cancelNow t q n).done
            | none => .next (s.setPhase q n 1)
        else (s.cancelNow t q n).done

/-! ### ATTEST (R672 to R675) -/

/-- ATTEST: the quote captured at dispatch is signed by the home die's key and written; signing waits while the key is
not unwrapped (R670), and is a locked sequence of the Vault port (R375), which may begin in an earlier command (`held`); but for tamper and glitch, which leave the quote unsigned (R675). -/
def execAttest (q n : Nat) (s : State) (held : Bool := false) : Host.Outcome State Fault Refusal :=
  match s.inPhase q n 10 0 with
  | none => s.idle
  | some j =>
    if (s.die j.owner).keyReady || s.sec.tamper || s.sec.glitch then
      s.vaultOp j.owner 2 held fun s =>
        let (quote, s) := s.signQuote j.owner j.quote
        ((s.jobWrite q n (j.f 0x60 8) quote).complete q n (outDone quoteBytes)).done
    else s.idle

end Sys2Proof.Machine
end

