-- ==== Sys2Proof/Machine/GeometryPath.lean ====
section
/-!
DEFINITION. Routing and reordering of tests and queries (R276 to R280, R352): query packets, fragments, partial results,
result records, World Store line fills. They decide when an operation is complete, and no bit of its result (R270).
-/
namespace Sys2Proof.Machine

/-- The first `k` elements of a list that satisfy a condition, changed. -/
def updateFirst {α : Type} (p : α → Bool) (f : α → α) : Nat → List α → List α
  | _, [] => []
  | 0, l => l
  | k + 1, x :: l => if p x then f x :: updateFirst p f k l else x :: updateFirst p f (k + 1) l

/-- A list without its first `k` elements that satisfy a condition. -/
def removeFirst {α : Type} (p : α → Bool) : Nat → List α → List α
  | _, [] => []
  | 0, l => l
  | k + 1, x :: l => if p x then removeFirst p k l else x :: removeFirst p (k + 1) l

/-- The tests of a die changed. -/
def State.modTests (s : State) (d : Nat) (f : List GeoTest → List GeoTest) : State :=
  s.modDie d (fun x => { x with tests := f x.tests })

/-- The lines of a slice's brick cache (R249). -/
def Regs.cacheLines (r : Regs) : Nat := (1048576 - 16384 - r.coarseRes * 16384) / 1024

/-- QUERY_PACKET_SEND (R277): the emitter sends a packet of up to 8 tests of one operation bound for one GQU. -/
def execQueryPacketSend (d c g : Nat) (s : State) : Host.Outcome State Fault Refusal :=
  let bound (t : GeoTest) : Bool := t.phase = 0 && t.cl = c && t.gqu = g
  match (s.die d).tests.find? bound with
  | some z => .next (s.modTests d (updateFirst (fun t => bound t && t.r = z.r) (fun t => { t with phase := 1 }) 8))
  | none => s.idle

/-! ### The reorder window (R279, R579) -/

/-- The GQU that serves a line under the mapping of a test's stage (R22). -/
def GeoTest.server (t : GeoTest) (line : Nat) : Nat := gquOf t.map (lineSlice line)

/-- The tests and fragments of a GQU's reorder window that are of DIVERSE stages, or those that are not; a test that waits for a line of
its own anchor brick is one entry. -/
def Die.windowUse (x : Die) (g : Nat) (diverse : Bool) : Nat :=
  (x.tests.filter (fun t => t.diverse = diverse)).foldl (fun a t =>
    a + (if t.phase = 2 ∧ t.gqu = g then 1 else 0) + (t.waits.filter (fun w => w.1 ≠ t.anchor && t.server w.2 = g)).length) 0

/-- R579: the entries free for tests and fragments of a kind: 32 of the 256 are held for DIVERSE stages, which use the rest as well. -/
def Die.windowRoom (x : Die) (g : Nat) (diverse : Bool) : Nat :=
  let v := x.windowUse g true
  let n := x.windowUse g false
  if diverse then 256 - (n + v) else 224 - (n + (v - 32))

/-! ### Reading a brick (R278 step 4, R279) -/

/-- A test whose bricks have all been read and combined has its verdict (R278 step 4). -/
def GeoTest.settle (t : GeoTest) : GeoTest :=
  if t.phase = 2 && t.frags.isEmpty && t.waits.isEmpty && t.parts.isEmpty then { t with phase := 3 } else t

/-- R598: a GQU under test takes the tests and fragments of group-0 jobs only; those of other jobs wait until its slice has ended. -/
def State.gquServes (s : State) (d g : Nat) (r : OpRef) : Bool := s.group r.q = 0 || ((s.die d).unit (gquUnit g)).running.isNone

/-- A brick of a test has been walked: at the anchor itself, or at its home GQU, which returns a partial result. -/
def GeoTest.walked (t : GeoTest) (key : Nat) : GeoTest :=
  if key = t.anchor then t.settle else { t with parts := t.parts ++ [key] }

/-- The line of a brick's probe window (R221). -/
def Die.windowOf (x : Die) (t : GeoTest) (key : Nat) : Nat :=
  windowLine t.world (brickHome t.world key) (bucketOf (((x.worlds.get t.world).map (fun y => y.lat.indexLog2)).getD 4) key)

/-- The line of a brick: none for a cell that holds no brick, whose probe window says all there is (R278 step 4). -/
def Die.brickOf (x : Die) (t : GeoTest) (key : Nat) : Option Nat :=
  match (x.worlds.get t.world).bind (fun y => y.lat.l1At key t.version) with
  | some (_, e) => if e.state = 3 then some (brickLine t.world (brickHome t.world key) e.brick) else none
  | none => none

/-- The lines that a test reads for a brick, in order. -/
def Die.linesFor (x : Die) (t : GeoTest) (key : Nat) : List Nat := x.windowOf t key :: (x.brickOf t key).toList

/-- A line is in its slice. -/
def Die.holdsLine (x : Die) (line : Nat) : Bool := x.wsLines.any (fun c => c.line = line)

/-- The reads of some lines of a brick go on: at the first that is not in the slice the test waits for it (R279). -/
def Die.readOn (x : Die) (key : Nat) (lines : List Nat) (t : GeoTest) : GeoTest :=
  match lines.find? (fun l => !x.holdsLine l) with
  | some l => { t with waits := t.waits ++ [(key, l)] }
  | none => t.walked key

/-- A brick of a test is read. -/
def Die.readBrick (x : Die) (key : Nat) (t : GeoTest) : GeoTest :=
  x.readOn key (x.linesFor t key) { t with frags := t.frags.filter (· ≠ key) }

/-- A job reads lines that are in their slices: they count against its share (R249). -/
def Die.useLines (x : Die) (job : Nat × Nat) (lines : List Nat) : Die :=
  { x with wsLines := x.wsLines.map (fun c =>
      if lines.contains c.line && !c.users.contains job then { c with users := c.users ++ [job] } else c) }

/-- The lines that tests wait for are being filled. -/
def Die.startFills (x : Die) : Die :=
  { x with fills := x.fills ++ ((x.tests.flatMap (fun t => t.waits.map Prod.snd)).eraseDups.filter (fun l => !x.fills.contains l)) }

/-- R280, R651: a line of the World Store is read. SECDED corrects its words, or the line is discarded and refilled. `err` is an error of
the line itself: 1 one that SECDED corrects, more one beyond it; inverted words that an injection has put there add theirs. -/
def State.readStore (s : State) (d line err : Nat) : State :=
  let x := s.die d
  let hit := x.flips.filter (fun f => f.mem = 2 && f.bank = lineSlice line && f.word / 128 = Config.lineIndex line)
  if !x.holdsLine line || (hit.isEmpty && err = 0) then s
  else
    let s := (hit.filter Flip.single).foldl (fun s f => s.readFlip d none f) s
    let s := if err = 1 then s.logErr d 0x0001 (unitCode 7 (lineSlice line)) (128 * Config.lineIndex line) else s
    if hit.all Flip.single && decide (err ≤ 1) then s
    else (s.modDie d (fun x => { x with flips := x.flips.filter (fun f => !hit.contains f), wsLines := x.wsLines.filter (fun c => c.line ≠ line) })).logErr d
      0x0003 (unitCode 7 (lineSlice line)) (Config.lineIndex line) none (!hit.all Flip.single)

/-- The lines that tests read for a brick are read, and count against the shares of their jobs. -/
def State.readLines (s : State) (d key err : Nat) (ts : List GeoTest) : State :=
  ((ts.flatMap (fun t => (s.die d).linesFor t key)).eraseDups.foldl (fun s l => s.readStore d l err) s).modDie d (fun x =>
    ts.foldl (fun x t => x.useLines (t.r.q, t.r.s) (x.linesFor t key)) x)

/-- R279: the L0 entries that a test reads at its anchor GQU are in the GQU's L0 cache of 256 entries, the oldest leaving. -/
def Die.cacheL0 (x : Die) (g : Nat) (t : GeoTest) : Die :=
  let l := x.l0Cache.getD g []
  let l := l ++ (t.cells.map (fun c => (t.world, c))).filter (fun e => !l.contains e)
  { x with l0Cache := x.l0Cache.insert g (l.drop (l.length - 256)) }

/-- QUERY_PACKET_ARRIVAL (R278, R279, R579): a packet enters the anchor GQU's reorder window; one of a DIVERSE stage enters ahead of
others. Each test reads its L0 entries and walks its anchor brick. An entry that is read from HBM (R248) is waited for like a line while
a repair is due there, and a poisoned one ends the job with MEMORY_ERROR (R280). -/
def execQueryPacketArrival (d g : Nat) (s : State) (err : Nat := 0) : Host.Outcome State Fault Refusal :=
  let x := s.die d
  let bound (v : Bool) (t : GeoTest) : Bool := t.phase = 1 && t.gqu = g && t.diverse = v && s.gquServes d g t.r
  let v := x.tests.any (bound true)
  let room := Min.min 8 (x.windowRoom g v)
  let ts := (x.tests.filter (bound v)).take room
  if ts.isEmpty || ts.any (fun t => s.cellsWait d t.world t.version t.cells) then s.idle
  else if ts.any (fun t => s.cellsPoisoned d t.world t.version t.cells) then
    (((ts.filter (fun t => s.cellsPoisoned d t.world t.version t.cells)).map (fun t => (t.r.q, t.r.s))).eraseDups.foldl
      (fun s j => s.complete j.1 j.2 outMemory) s).done
  else
    let s := ts.foldl (fun s t => if t.frags.contains t.anchor then s.readLines d t.anchor err [t] else s) s
    let x := s.die d
    let enter (t : GeoTest) : GeoTest :=
      let t : GeoTest := { t with phase := 2 }
      if t.frags.contains t.anchor then x.readBrick t.anchor t else t.settle
    .next ((s.modTests d (updateFirst (bound v) enter room)).modDie d (fun x => (ts.foldl (fun x t => x.cacheL0 g t) x).startFills))

/-- The fragments of a test that its home GQUs have still to take, bound for GQU `g`. -/
def GeoTest.fragFor (t : GeoTest) (g : Nat) : Option Nat :=
  if t.phase = 2 then t.frags.find? (fun key => gquOf t.map (brickHome t.world key) = g) else none

/-- FRAGMENT (R278, R279, R579): a fragment reaches the home GQU of its brick; up to 8 that need the same line share one read. One of
a DIVERSE stage enters the window ahead of others. -/
def execFragment (d g : Nat) (s : State) (err : Nat := 0) : Host.Outcome State Fault Refusal :=
  let x := s.die d
  let due (v : Bool) : List GeoTest := x.tests.filter (fun t => t.diverse = v && s.gquServes d g t.r && (t.fragFor g).isSome)
  let v := !(due true).isEmpty
  match (due v).head?.bind (fun t => (t.fragFor g).map (fun key => (t, key))) with
  | none => s.idle
  | some (z, key) =>
    let here (t : GeoTest) : Bool :=
      t.phase = 2 && t.diverse = v && s.gquServes d g t.r && t.world = z.world && t.frags.contains key && gquOf t.map (brickHome t.world key) = g
    let room := Min.min 8 (x.windowRoom g v)
    if room = 0 then s.idle
    else
      let s := s.readLines d key err ((x.tests.filter here).take room)
      let x := s.die d
      .next ((s.modTests d (updateFirst here (x.readBrick key) room)).modDie d Die.startFills)

/-- PARTIAL_RESULT (R278 step 4): a partial result reaches the anchor GQU of a test of cluster `c`. -/
def execPartialResult (d c : Nat) (s : State) : Host.Outcome State Fault Refusal :=
  let here (t : GeoTest) : Bool := t.phase = 2 && t.cl = c && !t.parts.isEmpty
  if (s.die d).tests.any here then
    .next (s.modTests d (updateFirst here (fun t => ({ t with parts := t.parts.drop 1 } : GeoTest).settle) 1))
  else s.idle

/-- RESULT_RECORD (R278 step 5, R348): a packet of result records returns to the emitting cluster; one whose write meets another at one
word is discarded, and the job replayed. -/
def execResultRecord (d c : Nat) (s : State) (hit : Option BankHit := none) : Host.Outcome State Fault Refusal :=
  let here (t : GeoTest) : Bool := t.phase = 3 && t.cl = c
  match (s.die d).tests.find? here, hit with
  | none, _ => s.idle
  | some t, some h => (s.bankCollision d c (t.r.q, t.r.s) h).done
  | some _, none => s.cross [atBanks d c 5] (fun s => .next (s.modTests d (removeFirst here 8)))

/-! ### Line fills (R249, R280, R352, R367) -/

/-- A line comes into the cache of its slice for some jobs. A job that holds more lines there than its share allows gives up its
oldest, the line that just came excepted; the line that came in first leaves a full cache (log entry 76). -/
def Die.addLine (x : Die) (cap line : Nat) (users : List (Nat × Nat)) (share : Nat × Nat → Nat) : Die :=
  let k := lineSlice line
  let give (l : List CacheLine) (u : Nat × Nat) : List CacheLine :=
    let mine := (l.filter (fun c => lineSlice c.line = k && c.users.contains u)).map (·.line)
    let out := mine.take (mine.length - (Max.max (share u) 1 - 1))
    (l.map (fun c => if out.contains c.line then { c with users := c.users.filter (· ≠ u) } else c)).filter
      (fun c => !(out.contains c.line && c.users.isEmpty))
  let l := users.foldl give x.wsLines
  let here := (l.filter (fun c => lineSlice c.line = k)).map (·.line)
  let out := here.take (here.length + 1 - cap)
  { x with fills := x.fills.filter (· ≠ line), wsLines := l.filter (fun c => !out.contains c.line) ++ [⟨line, users⟩] }

/-- The lines of a job's share of a slice (R249). -/
def State.shareLines (s : State) (k : Nat × Nat) : Nat :=
  match (s.job k.1 k.2).bind s.planOf with
  | some p => p.wsPerSlice / 1024
  | none => 0

/-- The jobs whose tests wait for a line on a die. -/
def Die.waiters (x : Die) (line : Nat) : List (Nat × Nat) :=
  ((x.tests.filter (fun t => t.waits.any (fun w => w.2 = line))).map (fun t => (t.r.q, t.r.s))).eraseDups

/-- A line that a test waits for has come: the brick is walked, or its own line is read next. -/
def Die.lineCame (x : Die) (line : Nat) (t : GeoTest) : GeoTest :=
  let keys := (t.waits.filter (fun w => w.2 = line)).map Prod.fst
  keys.foldl (fun t key => x.readOn key (if lineIsBrick line then [] else (x.brickOf t key).toList) t)
    { t with waits := t.waits.filter (fun w => w.2 ≠ line) }

/-- The brick lines that tests read next, once the probe window they wait for has come, where those are in the slice: they are read, and
count against the shares of their jobs (R249, R280). -/
def State.readNext (s : State) (d line : Nat) : State :=
  let x := s.die d
  if lineIsBrick line then s
  else (x.tests.filter (fun t => t.waits.any (fun w => w.2 = line))).foldl (fun s t =>
    let next := (t.waits.filter (fun w => w.2 = line)).filterMap (fun w => x.brickOf t w.1)
    (next.foldl (fun s l => s.readStore d l 0) s).modDie d (fun x => x.useLines (t.r.q, t.r.s) next)) s

/-- LINE_FILL (R249, R279, R280, R352, R367): a line of slice `k` arrives from HBM through port B; the tests that wait for it go on. The
fill waits while HBM under the line waits for a repair; a job that waits for a poisoned line completes MEMORY_ERROR. -/
def execLineFill (d k : Nat) (s : State) (hit : Option Nat := none) : Host.Outcome State Fault Refusal :=
  match (s.die d).fills.find? (fun l => lineSlice l = k && !s.lineWaits d l) with
  | none => s.idle
  | some line =>
    s.cross [atPc d k 0, atPortB d k 1] fun s =>
    if s.linePoisoned d line then
      let s := ((s.die d).waiters line).foldl (fun s j => s.complete j.1 j.2 outMemory) s
      (s.modDie d (fun x => { x with fills := x.fills.filter (· ≠ line) })).done
    else if let some word := hit then
      let s := (s.die d).waiters line |>.foldl (fun s j => s.logErr d 0x0012 (unitCode 7 k) word (some j)) s
      ((s.modDie d (fun x => { x with fills := x.fills.filter (· ≠ line) })).redispatchAll ((s.die d).waiters line)).issueAll.done
    else
      let holds (u : Nat × Nat) : Bool := match s.job u.1 u.2 with | some j => j.shareDies.contains d | none => false
      let s := s.modDie d (fun x =>
        let x : Die := { x with wsLines := x.wsLines.map (fun c => { c with users := c.users.filter holds })
                                flips := x.flips.filter (fun f => !(f.mem = 2 && f.bank = k && f.word / 128 = Config.lineIndex line)) }
        x.addLine s.regs.cacheLines line (x.waiters line) s.shareLines)
      let s := s.readNext d line
      .next (s.modDie d (fun x => ({ x with tests := x.tests.map (fun t => if t.waits.any (fun w => w.2 = line) then x.lineCame line t else t) } : Die).startFills))

end Sys2Proof.Machine
end

