-- ==== Sys2Proof/Machine/Scrub.lean ====
section
/-!
DEFINITION. The scrubber (R368, R375).
-/
namespace Sys2Proof.Machine

/-- CCLK periods of a scrub period (R368). -/
def Regs.scrubSpan (r : Regs) : Nat := r.scrubPeriod * 3600 * 1000000 * countsPerUs

/-- A scrub period that has ended gives way to the next. -/
def State.scrubTurn (s : State) (d : Nat) : State :=
  let p := Max.max 1 s.regs.scrubSpan
  if (s.die d).scrubFrom + p ≤ s.now then
    s.modDie d (fun x => { x with scrubFrom := x.scrubFrom + (s.now - x.scrubFrom) / p * p, scrubbed := [] })
  else s

/-- A request for a line of a die's HBM is queued: an engine holds an operation whose effect is not yet in, a World Store line over it is
being filled, or a read of it waits for a repair. A BAR2 access is granted and made in one command, so none is queued. -/
def State.lineWanted (s : State) (d : Nat) (l : Nat × Nat) : Bool :=
  (s.die d).fills.any (fun f => s.lineUnder d f l) || (s.die d).repairs.any (fun e => e.1 = l) || s.dies.any (fun x => x.slots.any (fun e => match e.2.cur.bind s.heldCtx with
    | some c => (s.hbmReads c ++ s.hbmWrites c).any (fun (k, a, n) => k = d && (linesOf a n).contains l)
    | none => false))

/-- A line as it was stored: its 68 bytes, and whether an injection has put errors into it. -/
def Die.leaveLine (x : Die) (l : Nat × Nat) (w : List Byte) (inj : Bool) : Die :=
  { x with hbm := (x.hbm.write (lineKey l.1 l.2) (w.take 64)).write (checkKey l.1 l.2) (w.drop 64),
           injected := (x.injected.filter (· ≠ l)) ++ (if inj then [l] else []) }

/-- The scrubber goes on in the sequence whose lock it holds, which ends with this, or asks its pseudo-channel. -/
def State.scrubAccess (s : State) (d pc : Nat) (mine : Bool) (f : State → Host.Outcome State Fault Refusal) : Host.Outcome State Fault Refusal :=
  if mine then f (s.modArb d pc (fun a => { a with lock := none })) else s.cross [atPc d pc 5] f

/-- SCRUB (R368): the scrubber, last at its pseudo-channel, reads a usable line that it has not yet read in this period; its read and the
write-back of a corrected line are one locked sequence (R375), here one command or, `held`, two: the first takes the lock, and where that is
orphaned the line stays as it was until the next period (R376). Where another requester's request for the line is
queued, the write-back is dropped. The line's next scrub period for CORRECTED events starts with the read (R366). -/
def execScrub (d pc line : Nat) (errs : List (Nat × Nat)) (sev : Nat) (s : State) (held : Bool := false) : Host.Outcome State Fault Refusal :=
  let l := (pc, line)
  let s := s.scrubTurn d
  let a := (s.die d).arb pc
  let mine : Bool := (match a.lock with | some (o, _) => o = scrubOwner | none => false) && (s.die d).scrubbed.getLast? = some l
  if s.healthy d && s.boot.memReady && (mine || !(s.die d).scrubbed.contains l) then
    if held then
      if mine then s.idle
      else s.cross [atPc d pc 5] fun s => .next ((s.modArb d pc (fun a => { a with lock := some (scrubOwner, s.now) })).modDie d (fun x =>
        { x with scrubbed := x.scrubbed ++ [l] }))
    else s.scrubAccess d pc mine fun s =>
      let x := s.die d
      let s := s.modDie d (fun x => { x with corrLogged := x.corrLogged.filter (· ≠ l), scrubbed := x.scrubbed.filter (· ≠ l) ++ [l] })
      let t := s.readLineOf d l errs sev none
      match s.lineOutcome d l errs with
      | .corrected _ =>
        if s.lineWanted d l && !x.poison.contains l then
          (t.modDie d (fun y => y.leaveLine l (x.codeword pc line) (x.injected.contains l))).issueAll.done
        else t.issueAll.done
      | _ => t.issueAll.done
  else s.idle

end Sys2Proof.Machine
end

