-- ==== Sys2Proof/Machine/Dispatch.lean ====
section
/-!
DEFINITION. The meaning of every command.
-/
namespace Sys2Proof.Machine

/-- The effect of a command on everything but the queue. -/
def exec (i : Instr) (s : State) : Host.Outcome State Fault Refusal :=
  match i with
  | .queueEnable p q hv die => Sys2Proof.Machine.execQueueEnable p q hv s die
  | .queueDrain p q die => Sys2Proof.Machine.execQueueDrain p q s die
  | .queueWithdraw p q die => Sys2Proof.Machine.execQueueWithdraw p q s die
  | .queueMove p q d => Sys2Proof.Machine.execQueueMove p q d s
  | .moveTransfer q => Sys2Proof.Machine.execMoveTransfer q s
  | .groupEnable p g => Sys2Proof.Machine.execGroupEnable p g s
  | .groupDrain p g => Sys2Proof.Machine.execGroupDrain p g s
  | .groupWithdraw p g => Sys2Proof.Machine.execGroupWithdraw p g s
  | .secBootGo p hv => Sys2Proof.Machine.execSecBootGo p hv s
  | .challenge p => Sys2Proof.Machine.execChallenge p s
  | .keyLoad p hv => Sys2Proof.Machine.execKeyLoad p hv s
  | .keyFuse p hv f => Sys2Proof.Machine.execKeyFuse p hv f s
  | .keyRevoke p hv f => Sys2Proof.Machine.execKeyRevoke p hv f s
  | .rollbackCommit p hv f => Sys2Proof.Machine.execRollbackCommit p hv f s
  | .signRequire p hv f => Sys2Proof.Machine.execSignRequire p hv f s
  | .lcField p hv f => Sys2Proof.Machine.execLcField p hv f s
  | .debugUnlock p hv => Sys2Proof.Machine.execDebugUnlock p hv s
  | .relock p hv => Sys2Proof.Machine.execRelock p hv s
  | .injectUnlock p hv => Sys2Proof.Machine.execInjectUnlock p hv s
  | .lcReturn p hv f => Sys2Proof.Machine.execLcReturn p hv f s
  | .lcScrap p hv f => Sys2Proof.Machine.execLcScrap p hv f s
  | .queueReset p q die cl => Sys2Proof.Machine.execQueueReset p q s die cl
  | .clusterReset p d c queue => Sys2Proof.Machine.execClusterReset p d c s queue
  | .dieReset p d cl queue => Sys2Proof.Machine.execDieReset p d s cl queue
  | .packageWarmReset p die cl queue => Sys2Proof.Machine.execPackageWarmReset p s die cl queue
  | .packageResetArmExpiry => Sys2Proof.Machine.execPackageResetArmExpiry s
  | .diePowerD0 p d mode mask => Sys2Proof.Machine.execDiePowerD0 p d mode mask s
  | .diePowerD1 p d mode mask => Sys2Proof.Machine.execDiePowerD1 p d mode mask s
  | .diePowerD3 p d mode mask => Sys2Proof.Machine.execDiePowerD3 p d mode mask s
  | .clusterDisable p d mode mask => Sys2Proof.Machine.execClusterDisable p d mode mask s
  | .ldgCtlStart p hv => Sys2Proof.Machine.execLdgCtlStart p hv s
  | .portEnable p k => Sys2Proof.Machine.execPortEnable p k s
  | .beat p timeout v => Sys2Proof.Machine.execBeat p timeout v s
  | .ppsArm p => Sys2Proof.Machine.execPpsArm p s
  | .arbFreeze p d n on => Sys2Proof.Machine.execArbFreeze p d n on s
  | .arbClear p d n => Sys2Proof.Machine.execArbClear p d n s
  | .gapMaxClear p d k => Sys2Proof.Machine.execGapMaxClear p d k s
  | .traceIndexReset p d => Sys2Proof.Machine.execTraceIndexReset p d s
  | .errConsumedAdvance p v => Sys2Proof.Machine.execErrConsumedAdvance p v s
  | .errorRingEnable p v => Sys2Proof.Machine.execErrorRingEnable p v s
  | .hbmDivisionWrite p reg v => Sys2Proof.Machine.execHbmDivisionWrite p reg v s
  | .injectArm p d idx v => Sys2Proof.Machine.execInjectArm p d idx v s
  | .vectorUnmask p v => Sys2Proof.Machine.execVectorUnmask p v s
  | .lowerHalfRead p off width => Sys2Proof.Machine.execLowerHalfRead p off s width
  | .registerWrite p off width v => Sys2Proof.Machine.execRegisterWrite p off width v s
  | .bar2Read p off n => Sys2Proof.Machine.execBar2Read p off n s
  | .bar2Write p off bytes => Sys2Proof.Machine.execBar2Write p off bytes s
  | .sidebandWrite bytes at_ assign => Sys2Proof.Machine.execSidebandWrite bytes s at_ assign
  | .sidebandRead n at_ => Sys2Proof.Machine.execSidebandRead n s at_
  | .sbReset v at_ => Sys2Proof.Machine.execSbReset v s at_
  | .sidebandBusTimeout => Sys2Proof.Machine.execSidebandBusTimeout s
  | .doorbellSnoop k q => Sys2Proof.Machine.execDoorbellSnoop k q s
  | .doorbellLineRead k q hv => Sys2Proof.Machine.execDoorbellLineRead k q hv s
  | .doorbellSweep k hv => Sys2Proof.Machine.execDoorbellSweep k hv s
  | .doorbellPoll k hv => Sys2Proof.Machine.execDoorbellPoll k hv s
  | .doorbellDelivery q => Sys2Proof.Machine.execDoorbellDelivery q s
  | .descriptorRead q => Sys2Proof.Machine.execDescriptorRead q s
  | .descriptorArrival q hv => Sys2Proof.Machine.execDescriptorArrival q hv s
  | .orderingReadComplete d hv => Sys2Proof.Machine.execOrderingReadComplete d hv s
  | .backlog q => Sys2Proof.Machine.execBacklog q s
  | .fetchStallUpdate q => Sys2Proof.Machine.execFetchStallUpdate q s
  | .waitMet q n => Sys2Proof.Machine.execWaitMet q n s
  | .gtcBinding q n => Sys2Proof.Machine.execGtcBinding q n s
  | .waitTimeout q n => Sys2Proof.Machine.execWaitTimeout q n s
  | .deadlineExpiry q n => Sys2Proof.Machine.execDeadlineExpiry q n s
  | .stageTimeout q n st => Sys2Proof.Machine.execStageTimeout q n st s
  | .syncWatch q n => Sys2Proof.Machine.execSyncWatch q n s
  | .syncNotify o d => Sys2Proof.Machine.execSyncNotify o d s
  | .flowReq q n => Sys2Proof.Machine.execFlowReq q n s
  | .flowGrant f => Sys2Proof.Machine.execFlowGrant f s
  | .flowHomeRebuild f => Sys2Proof.Machine.execFlowHomeRebuild f s
  | .nextDispatch d p hv => Sys2Proof.Machine.execNextDispatch d p hv s
  | .reservationRequest d q n => Sys2Proof.Machine.execReservationRequest d q n s
  | .nop q n => Sys2Proof.Machine.execNop q n s
  | .run q n => Sys2Proof.Machine.execRun q n s
  | .loadPlan q n => Sys2Proof.Machine.execLoadPlan q n s
  | .planImageFetched idx hv => Sys2Proof.Machine.execPlanImageFetched idx hv s
  | .signatureVerified idx => Sys2Proof.Machine.execSignatureVerified idx s
  | .weightBlobFetched idx hv => Sys2Proof.Machine.execWeightBlobFetched idx hv s
  | .planReplicated idx => Sys2Proof.Machine.execPlanReplicated idx s
  | .dropPlan q n => Sys2Proof.Machine.execDropPlan q n s
  | .dropPlanUnpinned idx => Sys2Proof.Machine.execDropPlanUnpinned idx s
  | .latticeLoad q n hv => Sys2Proof.Machine.execLatticeLoad q n hv s
  | .bodyLoad q n hv => Sys2Proof.Machine.execBodyLoad q n hv s
  | .bodyReplicated b => Sys2Proof.Machine.execBodyReplicated b s
  | .release q n => Sys2Proof.Machine.execRelease q n s
  | .releaseUnpinned w => Sys2Proof.Machine.execReleaseUnpinned w s
  | .worldUpdate q n hv => Sys2Proof.Machine.execWorldUpdate q n hv s
  | .worldVersionRoom w => Sys2Proof.Machine.execWorldVersionRoom w s
  | .worldDataReceived d w => Sys2Proof.Machine.execWorldDataReceived d w s
  | .worldRecordApply d w hit => Sys2Proof.Machine.execWorldRecordApply d w s hit
  | .prepared d w => Sys2Proof.Machine.execPrepared d w s
  | .prepareLost d w => Sys2Proof.Machine.execPrepareLost d w s
  | .abandon w => Sys2Proof.Machine.execAbandon w s
  | .commit d w => Sys2Proof.Machine.execCommit d w s
  | .commitAck d w => Sys2Proof.Machine.execCommitAck d w s
  | .visible d w => Sys2Proof.Machine.execVisible d w s
  | .signalPost q n => Sys2Proof.Machine.execSignalPost q n s
  | .signalFire q n => Sys2Proof.Machine.execSignalFire q n s
  | .signalInit q n => Sys2Proof.Machine.execSignalInit q n s
  | .suspend q n => Sys2Proof.Machine.execSuspend q n s
  | .resume q n => Sys2Proof.Machine.execResume q n s
  | .cancel q n => Sys2Proof.Machine.execCancel q n s
  | .attest q n held => Sys2Proof.Machine.execAttest q n s held
  | .stageLaunchMessage d q n st => Sys2Proof.Machine.execStageLaunchMessage d q n st s
  | .bugleArrive d q n st => Sys2Proof.Machine.execBugleArrive d q n st s
  | .bugleGo d q n st => Sys2Proof.Machine.execBugleGo d q n st s
  | .stageLaunch d q n st => Sys2Proof.Machine.execStageLaunch d q n st s
  | .logicalClusterSwap d c q n lc => Sys2Proof.Machine.execLogicalClusterSwap d c q n lc s
  | .matrixMultiply r hv faults hit => Sys2Proof.Machine.execMatrixMultiply r hv faults s hit
  | .batchedMatrixMultiply r hv faults hit => Sys2Proof.Machine.execBatchedMatrixMultiply r hv faults s hit
  | .fusedAttention r hv faults bad hit => Sys2Proof.Machine.execFusedAttention r hv faults s bad hit
  | .temporalConvolution r hv faults hit => Sys2Proof.Machine.execTemporalConvolution r hv faults s hit
  | .elementwise r hv bad hit => Sys2Proof.Machine.execElementwise r hv bad s hit
  | .normalisation r hv bad hit => Sys2Proof.Machine.execNormalisation r hv bad s hit
  | .activation r hv bad hit => Sys2Proof.Machine.execActivation r hv bad s hit
  | .reduction r hv bad hit => Sys2Proof.Machine.execReduction r hv bad s hit
  | .gather r hv hit => Sys2Proof.Machine.execGather r hv s hit
  | .scatter r hv bad hit => Sys2Proof.Machine.execScatter r hv s bad hit
  | .randomGeneration r hv bad hit => Sys2Proof.Machine.execRandomGeneration r hv s bad hit
  | .pointForwardKinematics r hv hit => Sys2Proof.Machine.execPointForwardKinematics r hv s hit
  | .intervalForwardKinematics r hv hit => Sys2Proof.Machine.execIntervalForwardKinematics r hv s hit
  | .pointDistance r hv => Sys2Proof.Machine.execPointDistance r hv s
  | .distanceWithGradient r hv => Sys2Proof.Machine.execDistanceWithGradient r hv s
  | .sphereTest r hv => Sys2Proof.Machine.execSphereTest r hv s
  | .capsuleTest r hv => Sys2Proof.Machine.execCapsuleTest r hv s
  | .sweptSphereTest r hv => Sys2Proof.Machine.execSweptSphereTest r hv s
  | .topK r hv hit => Sys2Proof.Machine.execTopK r hv s hit
  | .merge r hv hit => Sys2Proof.Machine.execMerge r hv s hit
  | .listArrival r idx => Sys2Proof.Machine.execListArrival r idx s
  | .factor r hv bad hit => Sys2Proof.Machine.execFactor r hv bad s hit
  | .solve r hv bad hit => Sys2Proof.Machine.execSolve r hv bad s hit
  | .riccatiSweep r hv bad hit => Sys2Proof.Machine.execRiccatiSweep r hv bad s hit
  | .refine r hv bad hit => Sys2Proof.Machine.execRefine r hv bad s hit
  | .warmStoreWrite d idx => Sys2Proof.Machine.execWarmStoreWrite d idx s
  | .copy r hv hit => Sys2Proof.Machine.execCopy r hv s hit
  | .checkValueWrap r hv hit => Sys2Proof.Machine.execCheckValueWrap r hv s hit
  | .checkValueUnwrap r hv hit => Sys2Proof.Machine.execCheckValueUnwrap r hv s hit
  | .checkValueScan r hv hit => Sys2Proof.Machine.execCheckValueScan r hv s hit
  | .digest r hv hit => Sys2Proof.Machine.execDigest r hv s hit
  | .operationComplete r hv => Sys2Proof.Machine.execOperationComplete r hv s
  | .checkpointWritten q n => Sys2Proof.Machine.execCheckpointWritten q n s
  | .queryPacketSend d c g => Sys2Proof.Machine.execQueryPacketSend d c g s
  | .queryPacketArrival d g err => Sys2Proof.Machine.execQueryPacketArrival d g s err
  | .fragment d g err => Sys2Proof.Machine.execFragment d g s err
  | .partialResult d c => Sys2Proof.Machine.execPartialResult d c s
  | .resultRecord d c hit => Sys2Proof.Machine.execResultRecord d c s hit
  | .lineFill d k hit => Sys2Proof.Machine.execLineFill d k s hit
  | .hbmReadOutcome d pc line errs sev job => Sys2Proof.Machine.execHbmReadOutcome d pc line errs sev job s
  | .hbmRepaired d pc line => Sys2Proof.Machine.execHbmRepaired d pc line s
  | .scrub d pc line errs sev held => Sys2Proof.Machine.execScrub d pc line errs sev s held
  | .bankIdle d c => Sys2Proof.Machine.execBankIdle d c s
  | .bankExit d c b => Sys2Proof.Machine.execBankExit d c b s
  | .dmaAge d c => Sys2Proof.Machine.execDmaAge d c s
  | .lockMaxHold d n => Sys2Proof.Machine.execLockMaxHold d n s
  | .linkDown k => Sys2Proof.Machine.execLinkDown k s
  | .retrainLimitExpiry k hv => Sys2Proof.Machine.execRetrainLimitExpiry k hv s
  | .completionTimeout k hv => Sys2Proof.Machine.execCompletionTimeout k hv s
  | .linkError k hv => Sys2Proof.Machine.execLinkError k hv s
  | .laneRepair port d k lanes => Sys2Proof.Machine.execLaneRepair port d k lanes s
  | .hostReadError d what q n => Sys2Proof.Machine.execHostReadError d what q n s
  | .msixHoldoff k v => Sys2Proof.Machine.execMsixHoldoff k v s
  | .umlinLinkLost d k => Sys2Proof.Machine.execUmlinLinkLost d k s
  | .heartbeatSend d => Sys2Proof.Machine.execHeartbeatSend d s
  | .heartbeat a d => Sys2Proof.Machine.execHeartbeat a d s
  | .livenessAdvance d => Sys2Proof.Machine.execLivenessAdvance d s
  | .heartbeatAbsence d a => Sys2Proof.Machine.execHeartbeatAbsence d a s
  | .livenessStall d a => Sys2Proof.Machine.execLivenessStall d a s
  | .leaseExpiry d => Sys2Proof.Machine.execLeaseExpiry d s
  | .fenceWaitEnd hv => Sys2Proof.Machine.execFenceWaitEnd hv s
  | .ledgerIoRetry d ok => Sys2Proof.Machine.execLedgerIoRetry d ok s
  | .partitionMismatch d p one word bits later => Sys2Proof.Machine.execPartitionMismatch d p one word s bits later
  | .unitFault d unit kind => Sys2Proof.Machine.execUnitFault d unit kind s
  | .suspectTest d unit ok => Sys2Proof.Machine.execSuspectTest d unit ok s
  | .tinkerSliceStart d unit slice => Sys2Proof.Machine.execTinkerSliceStart d unit slice s
  | .tinkerSliceEnd d unit ok diff => Sys2Proof.Machine.execTinkerSliceEnd d unit ok diff s
  | .testOverdue d unit => Sys2Proof.Machine.execTestOverdue d unit s
  | .errorRecord d => Sys2Proof.Machine.execErrorRecord d s
  | .powerEstimate d est idle => Sys2Proof.Machine.execPowerEstimate d est idle s
  | .powerDivision => Sys2Proof.Machine.execPowerDivision s
  | .thermalSample d temp => Sys2Proof.Machine.execThermalSample d temp s
  | .alertRelease => Sys2Proof.Machine.execAlertRelease s
  | .heartbeatLost => Sys2Proof.Machine.execHeartbeatLost s
  | .healthyRise => Sys2Proof.Machine.execHealthyRise s
  | .powerOnReset straps second third => Sys2Proof.Machine.execPowerOnReset straps s second third
  | .rootPllLock => Sys2Proof.Machine.execRootPllLock s
  | .linkTrainingDone k rate x32 cache => Sys2Proof.Machine.execLinkTrainingDone k rate x32 cache s
  | .gtcStart => Sys2Proof.Machine.execGtcStart s
  | .memReady hv => Sys2Proof.Machine.execMemReady hv s
  | .ppsEdge => Sys2Proof.Machine.execPpsEdge s
  | .ppsLost => Sys2Proof.Machine.execPpsLost s
  | .tamper idx => Sys2Proof.Machine.execTamper idx s
  | .glitch => Sys2Proof.Machine.execGlitch s
  | .keyUnwrap d held => Sys2Proof.Machine.execKeyUnwrap d s held
  | .traceMemoryInit ok density => Sys2Proof.Machine.execTraceMemoryInit ok density s
  | .rpReadTimeout => Sys2Proof.Machine.execRpReadTimeout s
  | .avsFallback d readback => Sys2Proof.Machine.execAvsFallback d readback s
  | .porstNAssert => Sys2Proof.Machine.execPorstNAssert s
  | .linkRetrained k rate x32 cache => Sys2Proof.Machine.execLinkRetrained k s rate x32 cache
  | .testPortCycle tms tdi trst => Sys2Proof.Machine.execTestPortCycle tms tdi trst s
  | .atGtcInjection d idx => Sys2Proof.Machine.execAtGtcInjection d idx s
  | .safetyWindowClose idx => Sys2Proof.Machine.execSafetyWindowClose idx s
  | .timeRecord d => Sys2Proof.Machine.execTimeRecord d s
  | .syncHolderCopy o => Sys2Proof.Machine.execSyncHolderCopy o s
  | .diverseRegionCopy q n st back => Sys2Proof.Machine.execDiverseRegionCopy q n st back s

end Sys2Proof.Machine
end

