-- ==== Sys2Proof/Safety.lean ====
section
/-!
DEFINITION. What holds in every state a run can reach, and what no command undoes.
-/
namespace Sys2Proof.Machine
open Sys2Proof (Instr)

/-- While a PACKAGE_FATAL is latched HEALTHY is low and FAULT_N is asserted (R591, R695). -/
def State.FatalShown (s : State) : Prop := s.pins.fatal = true → s.pins.healthy = false ∧ s.pins.faultN = false

/-- The invariant of the block: host memory and every die's HBM are in canonical form, there are two host ports (R376), and a
latched PACKAGE_FATAL shows on the pins. -/
def State.Inv (s : State) : Prop :=
  s.host.wf = true ∧ (∀ x ∈ s.dies, x.hbm.wf = true) ∧ s.ports.length = 2 ∧ s.FatalShown

/-- Fuses are written once (R655, R657, R663): the fused lifecycle state never goes back, a key slot keeps its hash, a revocation and
SIGN_REQUIRED stay, the rollback counter does not fall, and the rest of the part's own fuses do not change. -/
def Fuses.Le (f g : Fuses) : Prop :=
  f.life ≤ g.life ∧ (∀ (c : Nat) (h : List Byte), f.slotHash[c]? = some (some h) → g.slotHash[c]? = some (some h)) ∧
    (∀ c : Nat, bit f.revoked c = true → bit g.revoked c = true) ∧ f.rollback ≤ g.rollback ∧
    (f.signRequired = true → g.signRequired = true) ∧ g.rootHash = f.rootHash ∧ g.bar2Enable = f.bar2Enable ∧
    g.devKey.n = f.devKey.n ∧ g.devKey.e = f.devKey.e ∧ g.columns = f.columns

/-- Two states of one part (R3): the same identity, the same number of dies, and every die's fuses as they were or blown further. -/
def State.SamePart (s t : State) : Prop :=
  t.ident = s.ident ∧ t.n = s.n ∧ ∀ d, d < s.n → Fuses.Le (s.die d).fuse (t.die d).fuse

/-- What only start-up, resets, the security commands, time and the pins' own commands change. -/
def State.SameBoard (s t : State) : Prop :=
  t.boot = s.boot ∧ (t.sec = s.sec ∨ t.sec = { s.sec with challenge := none }) ∧ t.pps = s.pps ∧ t.sideband = s.sideband ∧ t.testPort = s.testPort ∧ t.now = s.now

/-- The commands whose effect is on jobs, queues, stages, operations, worlds, the Ledger, links, memory, units, power and geometry: all but
those of start-up, resets, security, the sideband, the test port, PPS, time and the heartbeat, and set-up register writes. -/
def workOnly : Instr → Bool
  | .registerWrite .. | .tamper .. | .glitch | .avsFallback .. | .keyUnwrap .. | .secBootGo .. | .memReady .. | .challenge .. | .keyLoad ..
  | .keyFuse .. | .keyRevoke .. | .rollbackCommit .. | .signRequire .. | .lcField .. | .debugUnlock .. | .relock .. | .injectUnlock ..
  | .lcReturn .. | .lcScrap .. | .powerOnReset .. | .rootPllLock | .linkTrainingDone .. | .gtcStart | .porstNAssert | .packageWarmReset ..
  | .packageResetArmExpiry | .queueReset .. | .clusterReset .. | .dieReset .. | .beat .. | .heartbeatLost | .healthyRise | .ppsArm ..
  | .ppsEdge | .ppsLost | .safetyWindowClose .. | .timeRecord .. | .traceMemoryInit .. | .testPortCycle .. | .sidebandRead ..
  | .sidebandWrite .. | .sbReset .. | .sidebandBusTimeout | .rpReadTimeout => false
  | _ => true

/-- Job (q, n) ends with an outcome (R437, R441, R481): it is finished, with the outcome at its owner's GTC and die; no queue or
sync object changes, and no other job, plan or world but as a load, drop or release that ends leaves its slot (R86, R223, R526); then every completion that its queue's serial order allows is written. -/
def State.Ends (s : State) (q n : Nat) (o : CplFields) (t : State) : Prop :=
  ∃ (j : Job) (u : State) (k : Job), s.job q n = some j ∧ u.job q n = some k ∧ k.st = .finished ∧ k.outcome = some { o with gtcDone := s.gtc j.owner, die := j.owner } ∧
    (∀ q' n', (q', n') ≠ (q, n) → u.job q' n' = (s.leaveSlots j).job q' n') ∧ u.queues = s.queues ∧ u.plans = (s.leaveSlots j).plans ∧
    u.worlds = (s.leaveSlots j).worlds ∧ u.bodies = (s.leaveSlots j).bodies ∧ u.syncs = s.syncs ∧ u.regs = s.regs ∧ t = u.writeCompletions q

/-- A security command with code `op` finds its block (R666, R668): readable at SEC_CMD_ADDR, whole, and signed by a signer that `k` allows. -/
def State.FindsBlock (s : State) (hv : HostView) (op : Nat) (k : SecSigner) (blk : List Byte) : Prop :=
  (s.merge hv).readHost hv s.sec.cmdAddr 1152 = some blk ∧ blockBroken op blk = false ∧ (k ≠ .nobody → (s.merge hv).tokenOk k blk = true)

/-- What a security command leaves as it is: jobs, queues, host memory but for software's own writes, registers, start-up, plans, worlds. -/
def State.SecureFrame (s : State) (hv : HostView) (t : State) : Prop :=
  t.jobs = s.jobs ∧ t.queues = s.queues ∧ t.host = (s.merge hv).host ∧ t.regs = s.regs ∧ t.boot = s.boot ∧ t.plans = s.plans ∧
    t.worlds = s.worlds ∧ t.now = s.now

/-- Every Vault wiped (R669): no working key, a zero firmware digest, no pending challenge, no working area in use. -/
def State.VaultsWiped (s : State) : Prop :=
  s.sec.challenge = none ∧ ∀ x ∈ s.dies, x.keyReady = false ∧ x.vaultWork = none ∧ ∀ f, x.fw = some f → f.digest = zeros 64

/-- R574: operation `r` has ended without an effect and its job waits to be dispatched again from its beginning; no other job or queue
changes, and host memory only by software's own writes. -/
def State.RunsAgain (s : State) (hv : HostView) (r : OpRef) (c : OpCtx) (t : State) : Prop :=
  (∃ k, t.job r.q r.s = some k ∧ k.st = .waiting ∧ k.run = none ∧ k.desc = c.j.desc ∧ k.numFlags = NumFlags.none) ∧
    (hv.writes = [] → t.host = s.host) ∧ t.queues = s.queues ∧ (∀ q n, (q, n) ≠ (r.q, r.s) → t.job q n = s.job q n)

/-- The effect of operation `c` that gave `outs` and `fl` (R60, R117): it does not run again in this iteration; its flags join the job's; the
first logical clusters' scratchpad takes a single output where it lies; host memory changes only for an output there; no other job,
queue, plan, world or register changes. -/
def State.OpRan (s : State) (c : OpCtx) (outs : List ByteArr) (fl : NumFlags) (t : State) : Prop :=
  t.opCtx c.r = none ∧ (∀ q n, (q, n) ≠ (c.r.q, c.r.s) → t.job q n = s.job q n) ∧ t.queues = s.queues ∧ t.plans = s.plans ∧ t.worlds = s.worlds ∧
    t.regs = s.regs ∧ ((∀ x ∈ c.op.outs, ∀ e, c.p.tensors[x]? = some e → e.sp ≠ .host) → t.host = s.host) ∧
    ∃ j rd, t.job c.r.q c.r.s = some j ∧ j.run = some rd ∧ j.st = .running ∧ j.numFlags = c.j.numFlags.merge fl ∧ rd.work = c.rd.work ∧
      ∀ x rest b bs e l, c.op.outs = x :: rest → (∀ y ∈ rest, y = 0xFFFF) → x ≠ 0xFFFF → outs = b :: bs → c.p.tensors[x]? = some e →
        (e.sp = .host → c.part e = none → t.host = (s.writeHost (c.rd.hostRange e).1 b.toList).host) ∧
        (e.sp = .scratchpad → c.diverse = false → c.rd.lcs[c.ins.lc]? = some l →
          (rd.lcs[c.ins.lc]?).map (·.spad) = some (l.spad.write e.offset b.toList))

/-- What a solver operation `c` that gave `rs` leaves besides its outputs (R325, R342): with pivot substitution off (parameter `i`) a status
that counts makes the outcome NUMERIC from its stage on, unless an earlier one has; a Refine that writes the warm-start store leaves its
records to be written on every healthy die, each to a slot of its own batch. -/
def State.SolverRan (s : State) (c : OpCtx) (i : Nat) (rs : List SolverOut) (t : State) : Prop :=
  ∃ k x, t.job c.r.q c.r.s = some k ∧ k.run = some x ∧
    (c.op.par i 1 = 0 → c.rd.numeric = false → rs.any (·.signal) = true → x.numeric = true ∧ x.numericStage = c.r.stage) ∧
    (c.op.par i 1 ≠ 0 ∨ rs.any (·.signal) = false ∨ c.rd.numeric = true → x.numeric = c.rd.numeric ∧ x.numericStage = c.rd.numericStage) ∧
    (c.op.opcode ≠ 0x0603 ∨ c.op.par 7 1 ≠ 1 → t.storeWrites = s.storeWrites) ∧
    (c.op.opcode = 0x0603 → c.op.par 7 1 = 1 → ∃ ws, t.storeWrites = s.storeWrites ++ ws ∧
      ∀ w ∈ ws, w.q = c.r.q ∧ w.s = c.r.s ∧ w.dies = s.healthyDies ∧ c.warmFirst ≤ w.slot ∧ w.slot < c.warmFirst + rs.length)

/-- The tests of a test operation with the verdicts that injection forces (R261, R651). -/
def State.decided (s : State) (c : OpCtx) (d : OpData) : List Decided :=
  (forceVerdicts (fun t => gquOf c.ins.gqu (anchorSlice (s.worldView c) t)) 0
    (c.decideAll (s.worldView c) (c.geoTests ((c.inDesc 0).rawWords (d.inp 0)))).1 (s.die c.ins.die).inj).1

/-- A test operation outside compare mode has run (R261, R265, R266): its outputs hold the records of its tests, and those that a GQU must
answer are on their way. -/
def State.TestsRan (s : State) (c : OpCtx) (d : OpData) (t : State) : Prop :=
  let o := c.geoOutputs d (s.decided c d) (c.decideAll (s.worldView c) (c.geoTests ((c.inDesc 0).rawWords (d.inp 0)))).2
  s.OpRan c o.1 (o.2.merge (testFlags (s.decided c d))) t ∧
    (t.die c.ins.die).tests = (s.die c.ins.die).tests ++ c.testFlights (s.worldView c) c.ins.gqu (s.decided c d)

end Sys2Proof.Machine
end

