-- ==== Sys2Proof/Certificates/Slice0/Obligations.lean ====
section
/-!
DEFINITION. What is to be proved of the block: its steps as a whole, then, family by family, where each command has its effect and what that
effect is.
-/
open Sys2Proof Sys2Proof.Machine

/-! ### The block as a whole -/

/-- A step takes the command at the front of the queue and answers what `exec` gives it on the state with the queue's rest. The model's
form of a run (log entry 1). -/
def Obligations.StepRunsTheFrontCommand : Prop :=
  ∀ (s : State) (c : Instr) (rest : List Instr), s.pending = c :: rest → step s = exec c { s with pending := rest }

/-- With no command waiting one CCLK period passes (R545; log entry 3): the time and every running GTC advance by one, and every job, queue,
register and pin latch stays; a die with no trace record buffered keeps its HBM and its buffer, and host memory stays unless trace goes
there. Values written to declared windows take effect where they are due (R570). The lines under a trace region in HBM hold no injected error
that the write would meet. A write to a host address that does not exist stops the block there instead (log entry 13). -/
def Obligations.EmptyQueueLetsOneClockPeriodPass : Prop :=
  ∀ s : State, s.pending = [] →
    (∀ a, s.badWrite = some a → step s = .fault (.hostAddress a)) ∧
    (s.badWrite = none → (s.regs.rcdDest = 2 → ∀ x ∈ s.dies, x.injected = [] ∧ ∀ i ∈ x.inj, i.arm = false) → ∃ t, step s = .next t ∧ t.now = s.now + 1 ∧ t.n = s.n ∧
      (∀ d, d < s.n → t.gtc d = if (s.die d).gtcRun then (s.gtc d + 1) % 2 ^ 64 else s.gtc d) ∧
      t.jobs = s.jobs ∧ t.queues = s.queues ∧ t.sec = s.sec ∧ t.boot = s.boot ∧ t.ports = s.ports ∧
      t.regs = (List.range 8).foldl (fun r i => r.settleWindow (t.gtc (t.healthyDies.headD 0)) i) s.regs ∧
      t.sup = s.sup ∧ t.pps = s.pps ∧ t.msix = s.msix ∧ t.pins.healthy = s.pins.healthy ∧ t.pins.faultN = s.pins.faultN ∧ t.pending = [] ∧
      (∀ d, (s.die d).trace.buf = [] → (t.die d).hbm = (s.die d).hbm ∧ (t.die d).trace = (s.die d).trace) ∧
      (s.regs.rcdDest ≠ 1 → t.host = s.host))

/-- The state after reset meets the invariant.
What reset leaves (R414, R696, R710, R736): the part is held in power-on reset, HEALTHY is low and not driven, no PACKAGE_FATAL, no
queue enabled, no job, no plan, no world, no supervisor, both ports down, firmware not ready, every die without state, host memory as
it was, no command waiting. The numbers of dies and the fuses are the part's own (log entry 4). -/
def Obligations.ResetLeavesThePartHeld : Prop :=
  (State.reset.Inv) ∧
  (State.reset.boot.held = true ∧ State.reset.boot.fwReady = false ∧ State.reset.pins.healthy = false ∧ State.reset.pins.driven = false ∧
      State.reset.pins.fatal = false ∧ State.reset.jobs = [] ∧ State.reset.plans = [] ∧ State.reset.worlds = [] ∧ State.reset.bodies = [] ∧
      State.reset.syncs = [] ∧ State.reset.flows = [] ∧ State.reset.chans = [] ∧ State.reset.host = [] ∧ State.reset.pending = [] ∧
      (∀ q, (State.reset.queue q).st = .disabled) ∧ (∀ k, (State.reset.port k).st = .down) ∧ State.reset.regs = Regs.reset State.reset.ident ∧
      (∀ d, d < State.reset.n → State.reset.die d = Die.reset (State.reset.die d).fuse) ∧ State.reset.n = State.reset.ident.dieCount)

/-- Every step keeps the invariant of the block: host memory and the HBM of every die in canonical form, two host ports, and a latched
PACKAGE_FATAL shown as HEALTHY low and FAULT_N low (R591, R695). -/
def Obligations.EveryStepKeepsTheInvariant : Prop :=
  ∀ s t : State, s.Inv → step s = .next t → t.Inv

/-- Every step leaves the part what it is (R3) and blows its fuses at most further (R655, R657, R663): no lifecycle state goes back, no key
hash, revocation or SIGN_REQUIRED is undone, the rollback counter never falls, on any die. -/
def Obligations.NoStepUndoesAFuse : Prop :=
  ∀ s t : State, step s = .next t → s.SamePart t

/-- The commands of jobs, stages, operations, worlds, the Ledger, links, memory, units, power and geometry change nothing of what only start-up,
resets, security commands, time and the board's own pins change: the start-up state, the security state, PPS, the sideband, the test
port and the time (the model's own frame; chapter 21 and chapter 19 give those parts their own commands). -/
def Obligations.WorkLeavesTheBoardAlone : Prop :=
  ∀ (c : Instr) (s t : State), workOnly c = true → exec c s = .next t → s.SameBoard t

/-! ### Registers (chapter 22) -/

/-- R12 and R13 for every 64-bit register of a die window or the package-common window that is neither of a lost die nor closed before
FW_READY, once the Umlin ports on the way to another die grant the access (R386): a 32-bit write of the lower half is only held; the
register takes the new 64-bit value when the upper half is written, as one 64-bit write would give it; a 64-bit read returns the whole
value, and a 32-bit read of the lower half returns it and captures the whole value, and a read of the upper half that follows returns the
captured half whatever the register then holds. A write of H0 that meets one of H1 in the same CCLK period changes the register no more
(R734). That the captured half serves one read is the model's choice (log entry 74), so R13
is not claimed whole. -/
def Obligations.WideRegistersAreReadAndWrittenInHalves : Prop :=
  ∀ (s u : State) (p off w lo hi : Nat) (way : List ArbReq), s.portUp p = true → s.boot.fwReady = true → off % 8 = 0 → off < 0x09000000 →
    way = (if off < 0x08000000 then s.overUmlin p (off / 0x1000000) 2 (off / 0x1000000) else []) → s.arbOpen way = true → u = s.granted way →
    u.lookReg off = some (.r64 w) → u.lookReg (off + 4) = none → ¬ (off < 0x08000000 ∧ (s.die (off / 0x1000000)).lost = true) →
    lo < 2 ^ 32 → hi < 2 ^ 32 →
    (∃ t, exec (.registerWrite p off 4 lo) s = .next t ∧ t.regs.staged.get (halfKey p off) = some lo ∧
      t = u.modRegs (fun r => { r with staged := r.staged.insert (halfKey p off) lo })) ∧
    (s.overtaken p off = false →
      (s.regs.staged.get (halfKey p off) = some lo → exec (.registerWrite p (off + 4) 4 hi) s =
        .next (((u.modRegs (fun r => { r with staged := r.staged.erase (halfKey p off) })).commitWrite off (lo + hi * 2 ^ 32)).noteWrite p off)) ∧
      exec (.registerWrite p off 8 (lo + hi * 2 ^ 32)) s = .next ((u.commitWrite off (lo + hi * 2 ^ 32)).noteWrite p off)) ∧
    (s.overtaken p off = true → exec (.registerWrite p off 8 (lo + hi * 2 ^ 32)) s = .next u) ∧
    exec (.lowerHalfRead p off 8) s = .next (u.modRegs (fun r => { r with readData := natLE 8 w })) ∧
    (∃ t, exec (.lowerHalfRead p off 4) s = .next t ∧ t.regs.readData = natLE 4 (w % 2 ^ 32) ∧
      t.regs.captured.get (halfKey p (off + 4)) = some (w / 2 ^ 32) ∧
      t = { u with regs := { s.regs with readData := t.regs.readData, captured := t.regs.captured } }) ∧
    (s.regs.captured.get (halfKey p (off + 4)) = some hi → ∃ t, exec (.lowerHalfRead p (off + 4) 4) s = .next t ∧
      t.regs.readData = natLE 4 hi ∧ t.regs.captured.get (halfKey p (off + 4)) = none)

/-- R388: an access to the window of a lost die: a 32-bit read returns 0xFFFF_FFFF, a 64-bit one all ones, a write is discarded, and HPT_STATUS.LOST_WIN is set; nothing else
changes. The same for the commands that are writes of such a window: arbiter freeze and clear, gap clear, injection arming, power
control. -/
def Obligations.LostDieWindowDiscardsWrites : Prop :=
  ∀ (s : State) (p d off width v k : Nat) (on : Bool), s.takes p = true → d < s.n → (s.die d).lost = true →
    d < 8 → off / 0x1000000 = d →
    (off % 4 = 0 → exec (.lowerHalfRead p off 4) s =
      .next ((s.modRegs (fun r => { r with lostWin := true, readData := natLE 4 0xFFFFFFFF })).raised 0)) ∧
    (off % 8 = 0 → exec (.lowerHalfRead p off 8) s =
      .next ((s.modRegs (fun r => { r with lostWin := true, readData := natLE 8 0xFFFFFFFFFFFFFFFF })).raised 0)) ∧
    ((width = 4 ∨ width = 8) → off % width = 0 →
      exec (.registerWrite p off width v) s = .next ((s.modRegs (fun r => { r with lostWin := true })).raised 0)) ∧
    (∀ c ∈ [Instr.arbFreeze p d k on, .arbClear p d k, .gapMaxClear p d k, .injectArm p d k v, .diePowerD1 p d k v, .diePowerD3 p d k v],
      exec c s = .next ((s.modRegs (fun r => { r with lostWin := true })).raised 0))

/-- Set-up registers take a value clamped to its limits (R729, R732, R736), whatever value is written, and a write changes no other register:
the retrain limit, the backlog time, the launch lead, the service weight of group g, the rate of the sweep, Retention idle time and the
record mask, each by an aligned access of its own width; of the writes of both ports in one CCLK period H1's counts (R734). -/
def Obligations.RegisterWriteClampsToItsLimits : Prop :=
  ∀ (s : State) (p v g : Nat), s.takes p = true → v < 2 ^ 32 → 1 ≤ g → g ≤ 15 →
    ∀ e ∈ ([(0x0800001C, fun r => { r with retrainLimit := Max.max 10 (Min.min 100000 v) }),
        (0x08030018, fun r => { r with backlogTime := Max.max 1 (Min.min 1000000 v) }),
        (0x08050008, fun r => { r with bugleLead := Max.max 32 (Min.min 4096 v) }),
        (0x08050040 + 4 * g, fun r => { r with weight := r.weight.set g (Max.max 1 (Min.min 255 v)) }),
        (0x08000024, fun r => { r with dbSweep := Min.min 1000 v }),
        (0x080A0004, fun r => { r with retIdle := Max.max 1 (Min.min 1000000 v) }),
        (0x08060014, fun r => { r with rcdEventMask := v - v % 2 })] : List (Nat × (Regs → Regs))),
      (s.overtaken p e.1 = false → exec (.registerWrite p e.1 4 v) s = .next ((s.modRegs e.2).noteWrite p e.1)) ∧
      (s.overtaken p e.1 = true → exec (.registerWrite p e.1 4 v) s = .next s)

/-- The commands on one die's registers (R373, R374, R386, R511, R532, R740), once the Umlin ports on the way grant them: the freeze bit of one
arbiter instance, its counters (but for the grants of this CCLK period, R734), the largest dispatch gap of one partition, the index of a trace part. Each changes that one field and
nothing else, but that waits in progress are counted anew from a clear on and that fabric egress, once open again, writes what it has held
back; an instance is frozen while either of its two freeze bits is set. At a port on the way that does not grant it the access waits.
HBM_DIVISION_WRITE (R361): while nothing is loaded, the value is clamped and taken if what the registers then name fits the usable space, else
DIV_INVALID is set; while something is loaded DIV_LOCKED is set. No other register changes. -/
def Obligations.SetUpCommandsChangeTheirRegisterOnly : Prop :=
  (∀ (s u : State) (p d n k : Nat) (on : Bool) (way : List ArbReq), s.takes p = true → d < s.n → (s.die d).lost = false → n < 75 →
      way = s.overUmlin p d 2 d → u = s.granted way →
      (s.arbOpen way = false → exec (.arbFreeze p d n on) s = .next (s.queued way) ∧ exec (.arbClear p d n) s = .next (s.queued way)) ∧
      (s.arbOpen way = true →
        (∃ t, exec (.arbFreeze p d n on) s = .next t ∧ ((t.die d).arb n).freeze = on ∧
          (∀ m, ((t.die d).arb m).mgrFreeze = ((s.die d).arb m).mgrFreeze ∧ (m ≠ n → ((t.die d).arb m).freeze = ((s.die d).arb m).freeze)) ∧
          ((t.die d).arb n).frozen = (on || ((s.die d).arb n).mgrFreeze) ∧
          (n ≠ 69 ∨ on = true → (t.die d).arb n = { (u.die d).arb n with freeze := on } ∧ (∀ m, m ≠ n → (t.die d).arb m = (u.die d).arb m) ∧
            t = u.modDie d (fun x => { x with arbs := (t.die d).arbs }))) ∧
        (∃ t, exec (.arbClear p d n) s = .next t ∧ (t.die d).arb n = { (u.die d).arb n with
            counters := ((u.die d).arb n).grantsAt s.now, waiting := ((u.die d).arb n).waiting.map (fun e => (e.1, s.now)) } ∧
          (∀ m, m ≠ n → (t.die d).arb m = (u.die d).arb m) ∧ t = u.modDie d (fun x => { x with arbs := (t.die d).arbs })) ∧
        exec (.gapMaxClear p d k) s = .next (u.modPart d k (fun x => { x with gapMax := if x.gapSeen.1 = s.now then x.gapSeen.2 else 0 })) ∧
        exec (.traceIndexReset p d) s = .next (u.modDie d (fun x => { x with trace := { x.trace with wrIndex := 0 } })))) ∧
  (∀ (s : State) (p reg v : Nat) (t : Regs), s.takes p = true → reg < 6 →
      t = (match reg with
        | 0 => { s.regs with worldSize := Min.min 720 v }
        | 1 => { s.regs with jobPool := Min.min 720 v }
        | 2 => { s.regs with traceSize := Min.min 720 v }
        | 3 => { s.regs with warmCount := Min.min 65536 v }
        | 4 => { s.regs with warmSlot := Max.max 1 (Min.min 16384 v) }
        | _ => { s.regs with coarseRes := Min.min 32 v }) →
      (s.divisionFree = true → t.planBase ≤ hbmUsable → exec (.hbmDivisionWrite p reg v) s = .next { s with regs := t }) ∧
      (s.divisionFree = true → hbmUsable < t.planBase →
        exec (.hbmDivisionWrite p reg v) s = .next (State.raised { s with regs := { s.regs with divInvalid := true } } 3)) ∧
      (s.divisionFree = false → exec (.hbmDivisionWrite p reg v) s = .next (State.raised { s with regs := { s.regs with divLocked := true } } 2)))

/-- R402: while a vector or the function is masked, a message that would be sent sets the vector's pending bit instead, and nothing else;
unmasking a vector whose pending bit is set sends one message, four bytes at the table's address, and clears the bit. The other
vectors with pending bits are masked, as they are in every state that sets bits under this rule. -/
def Obligations.UnmaskedVectorSendsItsPendingMessage : Prop :=
  ∀ (s : State) (p v a d : Nat) (m : Bool), s.msix.table.getD v (0, 0, true) = (a, d, m) →
    ((m || s.msix.funcMask) = true → ∃ t, s.sendVector v = t ∧ v ∈ t.msix.pending ∧ t = { s with msix := { s.msix with pending := t.msix.pending } } ∧
      ∀ w, w ≠ v → (w ∈ t.msix.pending ↔ w ∈ s.msix.pending)) ∧
    (s.takes p = true → v < 2048 → s.msix.funcMask = false → v ∈ s.msix.pending →
      (∀ w ∈ s.msix.pending, w ≠ v → (s.msix.table.getD w (0, 0, true)).2.2 = true) → a + 4 ≤ hostTop →
      ∃ t, exec (.vectorUnmask p (some v)) s = .next t ∧ t.host = s.host.write a (natLE 4 d) ∧
        t.msix = { s.msix with table := s.msix.table.insert v (a, d, false), pending := s.msix.pending.filter (fun w => w ≠ v) } ∧
        t = { s with host := t.host, msix := t.msix }) ∧
    (s.takes p = true → ∃ t, exec (.vectorUnmask p none) s = .next t ∧ t.msix.funcMask = false ∧ t.msix.table = s.msix.table ∧
      ∀ w, w ∈ t.msix.pending ↔ w ∈ s.msix.pending ∧ (s.msix.table.getD w (0, 0, true)).2.2 = true)

/-- BAR2 (R390, R391): a read returns the bytes of the die that HPT_BAR2_DIE selects, in the job pool and the trace region as they are
stored, striped over its pseudo-channels, while no line read is poisoned or awaits a repair; a write inside the job pool and the trace region stores its
bytes with their check bytes, and one outside the permitted regions is refused with nothing stored. Either waits at an arbiter of a
pseudo-channel on its way that is frozen or locked. -/
def Obligations.Bar2ReadsAndWritesStripedMemory : Prop :=
  ∀ (s : State) (p off n : Nat) (bytes : List Byte) (lr lw : List ArbReq), s.bar2Takes p = true → off + n ≤ hbmUsable →
    off + bytes.length ≤ hbmUsable → bytes ≠ [] → lr = atHbm s.regs.bar2Die off n 2 → lw = atHbm s.regs.bar2Die off bytes.length 2 →
    (∀ x ∈ s.dies, x.injected = [] ∧ x.repairs = [] ∧ x.poison = [] ∧ ∀ i ∈ x.inj, i.arm = false) →
    (s.arbOpen lr = true → ∃ t, exec (.bar2Read p off n) s = .next t ∧
      t.regs.readData = tabulate n (fun i => s.hbmByte s.regs.bar2Die (off + i)) ∧
      t = (s.granted lr).modRegs (fun r => { r with readData := t.regs.readData }) ∧
      (s.regs.poolBase ≤ off → off + n ≤ s.regs.warmBase → t.regs.readData = (s.die s.regs.bar2Die).readHbm off n)) ∧
    (s.arbOpen lr = false → exec (.bar2Read p off n) s = .next (s.queued lr)) ∧
    (s.sec.debug = false → s.regs.poolBase ≤ off → off + bytes.length ≤ s.regs.warmBase →
      (s.arbOpen lw = true → exec (.bar2Write p off bytes) s = .next ((s.granted lw).modDie s.regs.bar2Die (fun x => x.writeHbm off bytes))) ∧
      (s.arbOpen lw = false → exec (.bar2Write p off bytes) s = .next (s.queued lw))) ∧
    (s.sec.debug = false → (off < s.regs.poolBase ∨ s.regs.warmBase < off + bytes.length) →
      exec (.bar2Write p off bytes) s = .next ((s.modRegs (fun r => { r with bar2Refused := true })).raised 1))

/-! ### Queues, groups, doorbells and descriptors (chapters 11 and 12) -/

/-- QUEUE_ENABLE (R418, R419): a DISABLED or WITHDRAWN queue whose Queue Table entry can be read, breaks no rule of R414 and R419, lies in an enabled
group and is not a safety queue that something keeps back becomes ENABLED with the entry's fields; on its first ENABLE its serials start
at the entry's `accepted` (R411). The result is OK, `qstate` is written where the home die may write host memory and its egress grants it
(R457, R374), and no other queue changes. A queue in another state gives BAD_STATE and changes nothing. -/
def Obligations.QueueEnableTakesTheEntry : Prop :=
  ∀ (s : State) (p q die : Nat) (hv : HostView) (b : List Byte), s.host.wf = true → s.takes p = true → s.regs.qtbBusy = none → q < 16384 →
    ((s.queue q).st ≠ .disabled → (s.queue q).st ≠ .withdrawn → exec (.queueEnable p q hv die) s =
      .next (((s.merge hv).modRegs (fun r => { r with qtbCmd := q + die % 8 * 0x100000 })).qtbResult 2)) ∧
    ((s.queue q).st = .disabled → s.regs.ldgReady = true → (s.merge hv).readHost hv (s.qtbAddr q) 64 = some b → entryBroken b = false →
      s.healthy (parseEntry b).homeDie = true → s.ringsOverlap q (parseEntry b) = false →
      bit s.regs.groupEnabled (parseEntry b).group = true → ((parseEntry b).group = 0 → s.safetyNotReady = false) →
      s.qtbAddr q + 64 ≤ hostTop → s.mayReach (parseEntry b).homeDie = true → (s.queue q).moving = none →
      ∃ t, exec (.queueEnable p q hv die) s = .next t ∧ (t.queue q).st = .enabled ∧ (t.queue q).entry = parseEntry b ∧
        t.regs.qtbResult = 0 ∧ t.regs.qtbBusy = none ∧ t.host.get (s.qtbAddr q + 0x28) = 1 ∧
        ((s.queue q).everEnabled = false → (t.queue q).accepted = field b 0x18 8 ∧ (t.queue q).taken = field b 0x18 8 ∧
          (t.queue q).post = field b 0x18 8 ∧ (t.queue q).low = field b 0x18 8) ∧
        (∀ q', q' ≠ q → t.queue q' = s.queue q') ∧ s.SameBoard t)

/-- QUEUE_DRAIN and QUEUE_WITHDRAW (R418). DRAIN of an ENABLED queue leaves it DRAINING, or DISABLED when it has no job; no job changes. WITHDRAW of an
ENABLED or DRAINING queue leaves it WITHDRAWING, or WITHDRAWN once no job of it runs; no job of it waits or is ready any more, its
running jobs are to be suspended at their next boundary, and all stay accepted; the command ends where the entry can be written (R374,
R457). Neither changes another queue; in any other state the result is BAD_STATE and nothing changes. -/
def Obligations.QueueDrainAndWithdrawStopAcceptance : Prop :=
  ∀ (s : State) (p q die : Nat), s.takes p = true → s.regs.qtbBusy = none → q < 16384 →
    ((s.queue q).st = .enabled → ∃ t, exec (.queueDrain p q die) s = .next t ∧
      ((t.queue q).st = .draining ∨ ((t.queue q).st = .disabled ∧ ∀ j ∈ s.jobs, j.q ≠ q)) ∧ t.regs.qtbResult = 0 ∧ t.jobs = s.jobs ∧
      (∀ q', q' ≠ q → t.queue q' = s.queue q') ∧ (∀ d, { t.die d with arbs := (s.die d).arbs } = s.die d) ∧ s.SameBoard t) ∧
    ((s.queue q).st = .enabled ∨ (s.queue q).st = .draining → (s.queue q).moving = none → s.mayReach (s.queue q).entry.homeDie = true → ∃ t, exec (.queueWithdraw p q die) s = .next t ∧
      (((t.queue q).st = .withdrawing ∧ t.regs.qtbBusy = some q) ∨ ((t.queue q).st = .withdrawn ∧ t.regs.qtbBusy = none)) ∧
      (∀ j ∈ t.jobs, j.q = q → j.st ≠ .waiting ∧ j.st ≠ .flowWait ∧ j.st ≠ .ready ∧ (j.st = .running → j.parking = true)) ∧
      t.jobs.map (fun j => (j.q, j.s)) = s.jobs.map (fun j => (j.q, j.s)) ∧ (∀ q', q' ≠ q → t.queue q' = s.queue q') ∧ s.SameBoard t) ∧
    ((s.queue q).st ≠ .enabled → exec (.queueDrain p q die) s = .next ((s.modRegs (fun r => { r with qtbCmd := q + 0x10000 + die % 8 * 0x100000 })).qtbResult 2)) ∧
    ((s.queue q).st ≠ .enabled → (s.queue q).st ≠ .draining →
      exec (.queueWithdraw p q die) s = .next ((s.modRegs (fun r => { r with qtbCmd := q + 0x20000 + die % 8 * 0x100000 })).qtbResult 2))

/-- A move of a queue (R477, steps 1 to 3). QUEUE_MOVE of an ENABLED or WITHDRAWN queue to a healthy die stops its acceptance: the queue is moving,
reads no descriptor, and none of its jobs is in a ready list; the command is busy. MOVE_TRANSFER, once no job of the queue runs and the
Umlin ports on the way grant the message, lets the target write the records of the move; of other queues at most the sequences of
ACCEPT records change, where records held at the target are written too (R458). -/
def Obligations.QueueMoveStopsAcceptanceThenTransfers : Prop :=
  ∀ (s : State) (p q d : Nat), q < 16384 →
    (s.takes p = true → s.regs.qtbBusy = none → (s.queue q).st = .enabled ∨ (s.queue q).st = .withdrawn → (s.queue q).moving = none →
      s.healthy d = true → ∃ t, exec (.queueMove p q d) s = .next t ∧ (t.queue q).moving = some (d, 1) ∧ (t.queue q).reading = [] ∧
        t.accepts q = false ∧ (t.queue q).st = (s.queue q).st ∧ t.regs.qtbBusy = some q ∧ (∀ j ∈ t.jobs, j.q = q → j.moved = true) ∧
        (∀ j ∈ s.jobs, j.q = q → j.st = .ready → ∀ x ∈ t.dies, ∀ y ∈ x.parts, ∀ l ∈ y.ready, (q, j.s) ∉ l) ∧
        (∀ q', q' ≠ q → t.queue q' = s.queue q') ∧ t.host = s.host) ∧
    ((s.queue q).moving = some (d, 1) → s.healthy d = true → (∀ j ∈ s.jobs, j.q = q → j.st ≠ .running ∧ j.st ≠ .accepting) →
      s.arbOpen (s.overUmlin (s.queue q).entry.homeDie d 1 0) = true → ∃ t, exec (.moveTransfer q) s = .next t ∧ (t.queue q).moving = some (d, 2) ∧
        (∀ q', q' ≠ q → { t.queue q' with recovered := (s.queue q').recovered } = s.queue q') ∧ s.SameBoard t)

/-- R510: DRAIN and WITHDRAW of an enabled group clear its bit of `enabled` and leave no queue of the group ENABLED; ENABLE of a disabled group sets the
bit, sets the group's deficit to 0 in every partition, and enables no queue. A group in the wrong state gives BAD_STATE and changes
nothing. Queues of other groups stay as they are. -/
def Obligations.GroupCommandsActOnEveryQueueOfTheGroup : Prop :=
  ∀ (s : State) (p g : Nat), s.takes p = true → s.regs.groupBusy = none → g < 16 →
    (bit s.regs.groupEnabled g = false → ∃ t, exec (.groupEnable p g) s = .next t ∧ bit t.regs.groupEnabled g = true ∧
      (∀ h, h ≠ g → bit t.regs.groupEnabled h = bit s.regs.groupEnabled h) ∧ t.regs.groupResult = 0 ∧ t.queues = s.queues ∧
      t.jobs = s.jobs ∧ t.host = s.host ∧ ∀ x ∈ t.dies, ∀ y ∈ x.parts, g < y.deficit.length → y.deficit[g]? = some 0) ∧
    (bit s.regs.groupEnabled g = true →
      (∃ t, exec (.groupDrain p g) s = .next t ∧ bit t.regs.groupEnabled g = false ∧ t.regs.groupResult = 0 ∧ t.jobs = s.jobs ∧
        (∀ q, (s.queue q).entry.group = g → (t.queue q).st ≠ .enabled) ∧ (∀ q, (s.queue q).entry.group ≠ g → t.queue q = s.queue q)) ∧
      (∃ t, exec (.groupWithdraw p g) s = .next t ∧ bit t.regs.groupEnabled g = false ∧ t.regs.groupResult = 0 ∧
        (∀ q, (s.queue q).entry.group = g → (t.queue q).st ≠ .enabled) ∧ (∀ q, (s.queue q).entry.group ≠ g → t.queue q = s.queue q))) ∧
    (bit s.regs.groupEnabled g = true →
      exec (.groupEnable p g) s = .next ((s.modRegs (fun r => { r with groupCmd := g })).groupResult 2)) ∧
    (bit s.regs.groupEnabled g = false →
      exec (.groupDrain p g) s = .next ((s.modRegs (fun r => { r with groupCmd := g + 0x100 })).groupResult 2) ∧
      exec (.groupWithdraw p g) s = .next ((s.modRegs (fun r => { r with groupCmd := g + 0x200 })).groupResult 2))

/-- Doorbell lines (R394 to R398). A snoop of a held line gives it up and asks for it again; the line that arrives, each line a poll reads, and each
held line whose contents a sweep finds changed are delivered to the queue, where fabric egress grants the reads. No queue's own serials change by it, and no job.
R422 and R398: a delivered `post` of an ENABLED queue that lies less than 2^47 ahead of the last, below 2^48 and at most the ring size ahead of
`accepted` becomes the queue's `post`; any other is ignored and DB_INVALID is logged; a delivery for a queue that is not ENABLED is
discarded. The delivery waits while an Umlin port on its way to the home die does not grant it (R398). -/
def Obligations.DoorbellsReachTheirQueue : Prop :=
  (∀ (s : State) (k q : Nat) (hv : HostView), s.portUp k = true →
      ((s.port k).coherent = true → ((s.port k).lines.get q).isSome = true → ∃ t, exec (.doorbellSnoop k q) s = .next t ∧
        (t.port k).lines.get q = none ∧ q ∈ (t.port k).taking ∧ t = s.modPort k (fun _ => t.port k)) ∧
      (∀ bs, (s.port k).taking.contains q = true → (s.merge hv).readHost hv (s.dbAddr q) 64 = some bs →
        s.arbOpen [atEgress k 1] = true → ∃ t, exec (.doorbellLineRead k q hv) s = .next t ∧ t.queue q = { s.queue q with deliver := some (leNat bs) } ∧
          (t.port k).lines.get q = some (leNat bs) ∧ q ∉ (t.port k).taking ∧ (∀ q', q' ≠ q → t.queue q' = s.queue q') ∧ t.jobs = s.jobs) ∧
      ((s.port k).coherent = false → s.arbOpen [atEgress k 1] = true → ∃ t, exec (.doorbellPoll k hv) s = .next t ∧ t.jobs = s.jobs ∧
        (∀ q bs, q ∈ s.watched k → (s.merge hv).readHost hv (s.dbAddr q) 64 = some bs →
          t.queue q = { s.queue q with deliver := some (leNat bs) }) ∧ (∀ q, q ∉ s.watched k → t.queue q = s.queue q)) ∧
      ((s.port k).coherent = true → s.regs.dbSweep ≠ 0 → s.arbOpen [atEgress k 1] = true → ∃ t, exec (.doorbellSweep k hv) s = .next t ∧ t.jobs = s.jobs ∧
        (∀ q v bs, (q, v) ∈ (s.port k).lines → (s.merge hv).readHost hv (s.dbAddr q) 64 = some bs → leNat bs ≠ v →
          t.queue q = { s.queue q with deliver := some (leNat bs) }) ∧
        (∀ q, (∀ v, (q, v) ∉ (s.port k).lines) → t.queue q = s.queue q))) ∧
  (∀ (s : State) (q line : Nat), (s.queue q).deliver = some line →
      s.arbOpen (((s.watchPort q).map (fun k => s.overUmlin k (s.queue q).entry.homeDie 0 q)).getD []) = true →
      ∃ t, exec (.doorbellDelivery q) s = .next t ∧ (t.queue q).deliver = none ∧ (t.queue q).st = (s.queue q).st ∧
        (t.queue q).accepted = (s.queue q).accepted ∧ (∀ q', q' ≠ q → t.queue q' = s.queue q') ∧ t.jobs = s.jobs ∧
        ((s.queue q).st = .enabled → line % 2 ^ 64 < serials → serialAhead (line % 2 ^ 64) (s.queue q).post < 2 ^ 47 →
          serialAhead (line % 2 ^ 64) (s.queue q).accepted ≤ (s.queue q).ring → (t.queue q).post = line % 2 ^ 64) ∧
        ((s.queue q).st ≠ .enabled → (t.queue q).post = (s.queue q).post) ∧
        ((s.queue q).st = .enabled → (serials ≤ line % 2 ^ 64 ∨ 2 ^ 47 ≤ serialAhead (line % 2 ^ 64) (s.queue q).post ∨
            (s.queue q).ring < serialAhead (line % 2 ^ 64) (s.queue q).accepted) →
          (t.queue q).post = (s.queue q).post ∧ ((s.queue q).entry.homeDie < s.n →
            ∃ r, r ∈ (t.die (s.queue q).entry.homeDie).unacked ∧ r.code = 0x0005 ∧ r.queue = q ∧ r.detail = line % 2 ^ 64)))

/-- R434, R436 and R431: DESCRIPTOR_READ, where fabric egress grants it, reads ahead at most four slots, each before `post` and below
c + window. DESCRIPTOR_ARRIVAL of the queue whose turn it is in its partition accepts the descriptors read, one where another queue of the
partition waits too, as far as the home die has slots: each becomes a job that is not accepted before its ACCEPT is durable (R449), with
the outcome its checks give it; the serials taken advance past them, and no other queue takes a descriptor. -/
def Obligations.DescriptorsAreReadAheadAndAccepted : Prop :=
  ∀ (s : State) (q : Nat) (hv : HostView), s.accepts q = true →
    ((s.queue q).reading = [] → (s.queue q).readAhead ≠ [] →
      s.arbOpen [atEgress (s.queue q).entry.homeDie 1] = true → ∃ t, exec (.descriptorRead q) s = .next t ∧
      (t.queue q).reading = (s.queue q).readAhead ∧ (t.queue q).reading.length ≤ 4 ∧
      (∀ n ∈ (t.queue q).reading, 0 < serialAhead (s.queue q).post n ∧ serialAhead (s.queue q).post n ≤ (s.queue q).ring ∧
        serialAhead n (s.queue q).low < (s.queue q).entry.window) ∧
      t = (s.granted [atEgress (s.queue q).entry.homeDie 1]).modQueue q (fun x => { x with reading := (t.queue q).reading })) ∧
    (∀ k, (s.queue q).reading ≠ [] → s.turnOf (s.queue q).entry.homeDie (partOf q) = some q →
      k = (if (s.rivals (s.queue q).entry.homeDie (partOf q)).length ≤ 1 then (s.queue q).reading.length else 1) →
      s.jobsHomed (s.queue q).entry.homeDie + k ≤ 4096 →
      ∃ t, exec (.descriptorArrival q hv) s = .next t ∧ (t.queue q).reading = (s.queue q).reading.drop k ∧
        (t.queue q).taken = serialAdd ((s.queue q).reading.getD (k - 1) 0) 1 ∧
        (∀ n ∈ (s.queue q).reading.take k, ∃ j ∈ t.jobs, j.q = q ∧ j.s = n ∧ j.st = .accepting ∧ j.owner = (s.queue q).entry.homeDie ∧
          j.desc = (arrivedJob (s.merge hv) hv q n).desc ∧ j.outcome = (arrivedJob (s.merge hv) hv q n).outcome) ∧
        (∀ q', q' ≠ q → (t.queue q').entry = (s.queue q').entry ∧ (t.queue q').st = (s.queue q').st ∧ (t.queue q').accepted = (s.queue q').accepted ∧
          (t.queue q').taken = (s.queue q').taken ∧ (t.queue q').post = (s.queue q').post ∧ (t.queue q').low = (s.queue q').low ∧
          (t.queue q').reading = (s.queue q').reading) ∧ s.SameBoard t)

/-- R435: a stall that has lasted QTB_BACKLOG_TIME and still lasts logs BACKLOG, naming the queue, once; the stalled time is added to
`fetch_stall` at the update and the entry's two words are written, where the home die may write host memory and its egress grants it. -/
def Obligations.StallsAreCountedAndLogged : Prop :=
  ∀ (s : State) (q t0 : Nat), s.host.wf = true → (s.queue q).stallSince = some t0 → s.stalled q = true →
    ((s.queue q).backlogged = false → t0 + s.regs.backlogTime * countsPerUs ≤ s.now → (s.queue q).entry.homeDie < s.n →
      ∃ t, exec (.backlog q) s = .next t ∧ t.queue q = { s.queue q with backlogged := true } ∧
        (∃ r, (t.die (s.queue q).entry.homeDie).unacked = (s.die (s.queue q).entry.homeDie).unacked ++ [r] ∧ r.code = 0x0006 ∧
          r.detail = q % 2 ^ 64) ∧ (∀ q', q' ≠ q → t.queue q' = s.queue q') ∧ t.jobs = s.jobs ∧ t.host = s.host) ∧
    ((s.queue q).backlogged = true → exec (.backlog q) s = .next s) ∧
    (s.mayReach (s.queue q).entry.homeDie = true → (s.queue q).due = 0 → s.qtbAddr q + 64 ≤ hostTop → t0 ≤ (s.queue q).stallCounted →
      ∃ t, exec (.fetchStallUpdate q) s = .next t ∧
        (t.queue q).fetchStall = Min.min ((s.queue q).fetchStall + (s.now - (s.queue q).stallCounted) / countsPerUs) (2 ^ 64 - 1) ∧
        (t.queue q).accepted = (s.queue q).accepted ∧ (∀ q', q' ≠ q → t.queue q' = s.queue q') ∧ t.jobs = s.jobs ∧
        (∀ d, { t.die d with arbs := (s.die d).arbs } = s.die d) ∧
        t.host = (s.host.write (s.qtbAddr q + 0x18) (natLE 8 (s.queue q).accepted)).write (s.qtbAddr q + 0x20) (natLE 8 (t.queue q).fetchStall) ∧
        (∀ a, a < s.qtbAddr q + 0x18 ∨ s.qtbAddr q + 0x28 ≤ a → t.host.get a = s.host.get a))

/-! ### Heartbeat, HEALTHY, errors, PPS, declared windows (chapters 15, 16, 18) -/

/-- R589 and R590: a write of HPT_HB_VALUE that changes it, and any write of HPT_HB_TIMEOUT, is a beat at the present time: the heartbeat is
alive; a write of the value held is none and changes nothing. An armed heartbeat whose last beat lies longer back than its timeout
stops being alive: HEARTBEAT_LOST is logged and HEALTHY falls; jobs and queues go on as they are.
R591 and R592: whatever the state, settling it leaves HEALTHY high only while every condition of R591 holds; HEALTHY rises only once they have held
for 10 µs, and then nothing else changes; before that the command changes nothing. ALERT_N is released 10 ms after the last cause. -/
def Obligations.HealthyFallsAtOnceAndRisesLate : Prop :=
  (∀ (s : State) (p v : Nat),
      (s.portUp p = true → s.regs.hbValue ≠ v % 2 ^ 32 → ∃ t, exec (.beat p false v) s = .next t ∧ t.regs.hbValue = v % 2 ^ 32 ∧
        t.regs.hbTimeout = s.regs.hbTimeout ∧ t.regs.hbLast = s.now ∧ t.regs.hbAlive = true ∧ t.jobs = s.jobs ∧ t.queues = s.queues ∧ t.host = s.host) ∧
      (s.portUp p = true → s.regs.hbValue = v % 2 ^ 32 → exec (.beat p false v) s = .next s) ∧
      (s.portUp p = true → ∃ t, exec (.beat p true v) s = .next t ∧ t.regs.hbLast = s.now ∧ t.regs.hbAlive = true ∧
        t.regs.hbTimeout = (if v % 2 ^ 32 = 0 then 0 else Max.max 10 (Min.min 1000000 (v % 2 ^ 32))) ∧ t.regs.hbValue = s.regs.hbValue ∧
        t.jobs = s.jobs ∧ t.queues = s.queues ∧ t.host = s.host) ∧
      (s.regs.hbTimeout ≠ 0 → s.regs.hbAlive = true → s.regs.hbLast + s.regs.hbTimeout * countsPerUs < s.now →
        ∃ t, exec .heartbeatLost s = .next t ∧ t.regs.hbAlive = false ∧ t.pins.healthy = false ∧ t.jobs = s.jobs ∧ t.queues = s.queues ∧
          t.host = s.host ∧ (s.sup.die.getD (s.healthyDies.headD 0) < s.n →
            ∃ r, r ∈ (t.die (s.sup.die.getD (s.healthyDies.headD 0))).unacked ∧ r.code = 0x0024))) ∧
  (∀ (s : State) (t0 : Nat),
      (s.settle.pins.healthy = true → s.settle.healthHolds = true) ∧
      (s.pins.healthyFrom = some t0 → s.healthHolds = true → t0 + 10 * countsPerUs ≤ s.now →
        exec .healthyRise s = .next { s with pins := { s.pins with healthy := true, healthyFrom := none } }) ∧
      (s.pins.healthyFrom = some t0 → s.now < t0 + 10 * countsPerUs → exec .healthyRise s = .next s) ∧
      (s.healthHolds = false → exec .healthyRise s = .next s) ∧
      (s.pins.alertFrom = some t0 → t0 + 10000 * countsPerUs ≤ s.now →
        exec .alertRelease s = .next { s with pins := { s.pins with alertN := true, alertFrom := none } }))

/-- R547: CLK_PPS_ARM arms the load while no job is accepted and otherwise sets PPS_BUSY only, and an arming write in
the CCLK period of a valid edge arms that edge (R734); every valid edge latches the GTC and clears the arming; a
valid edge after arming loads CLK_PPS_VALUE into every running GTC while no job is accepted, and else loads nothing and leaves the load armed
(log entry 66); an invalid edge changes no GTC and is logged; two seconds without a
valid edge set PPS_LOST, and the next edge counts as a first one.
R569 and R570: a write of a declared window's start, period, length or units is held, over what is held already; the window takes it at the first
GTC count after the write at which it is not open, and keeps what it had until then. -/
def Obligations.PpsAndWindowsTakeEffectInTheirTime : Prop :=
  (∀ (s : State) (p l : Nat),
      (s.takes p = true → s.anyAccepted = false → s.pps.edgeAt ≠ some s.now → exec (.ppsArm p) s = .next { s with pps := { s.pps with arm := true, first := true } }) ∧
      (s.takes p = true → s.anyAccepted = false → s.pps.edgeAt = some s.now →
        ∃ t, exec (.ppsArm p) s = .next t ∧ (∀ d, d < s.n → (s.die d).gtcRun = true → t.gtc d = s.pps.value) ∧ t.pps.arm = false ∧
          t.pps.latched = s.pps.value ∧ t.jobs = s.jobs ∧ t.queues = s.queues ∧ t.host = s.host) ∧
      (s.takes p = true → s.anyAccepted = true → exec (.ppsArm p) s = .next (State.raised { s with pps := { s.pps with busy := true } } 4)) ∧
      (s.boot.gtcStarted = true → s.pps.valid (s.gtc (s.healthyDies.headD 0)) = true → s.pps.arm = false →
        exec .ppsEdge s = .next { s with pps := { s.pps with
          arm := false, first := false, last := some (s.gtc (s.healthyDies.headD 0)), latched := s.gtc (s.healthyDies.headD 0), lost := false, edgeAt := some s.now } }) ∧
      (s.boot.gtcStarted = true → s.pps.valid (s.gtc (s.healthyDies.headD 0)) = true → s.pps.arm = true → s.anyAccepted = false →
        ∃ t, exec .ppsEdge s = .next t ∧ (∀ d, d < s.n → (s.die d).gtcRun = true → t.gtc d = s.pps.value) ∧ t.pps.arm = false ∧
          t.pps.latched = s.pps.value ∧ t.pps.last = some s.pps.value ∧ t.jobs = s.jobs ∧ t.queues = s.queues ∧ t.host = s.host) ∧
      (s.boot.gtcStarted = true → s.pps.valid (s.gtc (s.healthyDies.headD 0)) = true → s.pps.arm = true → s.anyAccepted = true →
        exec .ppsEdge s = .next { s with pps := { s.pps with
          first := false, last := some (s.gtc (s.healthyDies.headD 0)), latched := s.gtc (s.healthyDies.headD 0), lost := false, edgeAt := some s.now } }) ∧
      (s.boot.gtcStarted = true → s.pps.valid (s.gtc (s.healthyDies.headD 0)) = false →
        ∃ t, exec .ppsEdge s = .next t ∧ (∀ d, t.gtc d = s.gtc d) ∧ t.pps = s.pps ∧ t.jobs = s.jobs ∧
          (s.pins.owner < s.n → ∃ r, (t.die s.pins.owner).unacked = (s.die s.pins.owner).unacked ++ [r] ∧ r.code = 0x0007)) ∧
      (s.pps.last = some l → l + 640000000 ≤ s.gtc (s.healthyDies.headD 0) →
        exec .ppsLost s = .next { s with pps := { s.pps with lost := true, first := true } })) ∧
  (∀ (s : State) (i g a : Nat) (w : Window) (f : Window → Window), i < 8 → s.regs.rsv.length = 8 → s.regs.rsvHeld.length = 8 →
      s.regs.rsvAt.length = 8 → s.regs.rsv[i]? = some w → s.regs.rsvAt[i]? = some a → g = s.gtc (s.healthyDies.headD 0) →
      (s.regs.rsvHeld[i]? = some none → (s.writeWindow i f).regs.rsv = s.regs.rsv ∧
        (s.writeWindow i f).regs.rsvHeld[i]? = some (some (f w)) ∧ (s.writeWindow i f).regs.rsvAt[i]? = some g) ∧
      (∀ h, s.regs.rsvHeld[i]? = some (some h) → (w.openAt g = true ∨ g ≤ a) → (s.writeWindow i f).regs.rsv = s.regs.rsv ∧
        (s.writeWindow i f).regs.rsvHeld[i]? = some (some (f h)) ∧ (s.writeWindow i f).regs.rsvAt[i]? = some g) ∧
      (∀ h, w.openAt g = false → a < g → s.regs.rsvHeld[i]? = some (some h) →
        (s.regs.settleWindow g i).rsv[i]? = some h ∧ (s.regs.settleWindow g i).rsvHeld[i]? = some none ∧
        (s.writeWindow i f).regs.rsv[i]? = some h ∧ (s.writeWindow i f).regs.rsvHeld[i]? = some (some (f h)) ∧
        ∃ t, exec (.safetyWindowClose i) s = .next t ∧ t.regs.rsv[i]? = some h ∧ t.regs.rsvHeld[i]? = some none ∧
          (∀ k, k ≠ i → t.regs.rsv[k]? = s.regs.rsv[k]?) ∧ t = s.modRegs (fun r => { r with rsv := t.regs.rsv, rsvHeld := t.regs.rsvHeld })) ∧
      (w.openAt g = true ∨ g ≤ a → exec (.safetyWindowClose i) s = .next s))

/-- Error records (R640, R642): the next record of a die, by `dseq`, reaches the supervisor over Umlin in class MGMT. With the ring disabled it waits in the log of 1,024; a full
log drops one record and counts it; with the ring open and nothing held it is written to slot s mod E with the next sequence number.
Nothing but the sender's position and the grants on the way changes on a die.
The error ring's registers (R639 to R642, R733): HPT_ERR_CONSUMED and the base take the value written, and held records go to the ring as far as it
then takes them, oldest first, but for a write of H0 that meets one of H1 in its CCLK period (R734); while the ring is enabled another base is ignored and 0 disables it. -/
def Obligations.ErrorRecordsAreWrittenOrHeld : Prop :=
  (∀ (s : State) (d k : Nat) (r : ErrRec) (l : List ArbReq), (s.die d).unacked[(s.die d).sent]? = some r → s.sup.logDie = some k →
      l = s.overUmlin d k 2 0 → s.arbOpen l = true →
      (s.sup.errBase = 0 → s.sup.log.length < 1024 → exec (.errorRecord d) s =
        .next { (s.granted l).modDie d (fun x => { x with sent := x.sent + 1 }) with sup := { s.sup with log := s.sup.log ++ [r] } }) ∧
      (s.sup.errBase = 0 → s.sup.log.length = 1024 → ∃ t, exec (.errorRecord d) s = .next t ∧ t.sup.log.length = 1024 ∧
        t.sup.errDropped = Min.min (s.sup.errDropped + 1) (2 ^ 32 - 1) ∧ t.host = s.host ∧ t.jobs = s.jobs) ∧
      (s.sup.log = [] → s.ringRoom = true → ∃ t, exec (.errorRecord d) s = .next t ∧ t.sup.log = [] ∧
        t.sup.errProduced = (s.sup.errProduced + 1) % 2 ^ 32 ∧ t = ((s.granted l).modDie d (fun x => { x with sent := x.sent + 1 })).putRing r)) ∧
  (∀ (s : State) (p v : Nat), s.portUp p = true →
      (s.overtaken p 0x0800004C = true → exec (.errConsumedAdvance p v) s = .next s) ∧
      (s.overtaken p 0x0800004C = false → ∃ t, exec (.errConsumedAdvance p v) s = .next t ∧ t.sup.errConsumed = v % 2 ^ 32 ∧ t.sup.errBase = s.sup.errBase ∧
        (s.sup.log = [] → t = State.noteWrite { s with sup := { s.sup with errConsumed := v % 2 ^ 32 } } p 0x0800004C) ∧
        (∀ r, s.sup.log = [r] → ({ s with sup := { s.sup with errConsumed := v % 2 ^ 32 } } : State).ringRoom = true → t.sup.log = [] ∧
          t.sup.errProduced = (s.sup.errProduced + 1) % 2 ^ 32) ∧ ∃ l, s.sup.log = l ++ t.sup.log) ∧
      (s.sup.errBase = 0 → ∃ t, exec (.errorRingEnable p v) s = .next t ∧ t.sup.errBase = v % 2 ^ 57 / 4096 * 4096 ∧
        t.sup.errConsumed = s.sup.errConsumed ∧ ∃ l, s.sup.log = l ++ t.sup.log) ∧
      (s.sup.errBase ≠ 0 → v ≠ 0 → exec (.errorRingEnable p v) s = .next s) ∧
      (v = 0 → ∃ t, exec (.errorRingEnable p v) s = .next t ∧ t.sup.errBase = 0 ∧ t.sup.log = s.sup.log))

/-- Recorder and trace memory (R531, R718, R713): TIME_RECORD writes a TIME record to a die's buffer when one is due and asked for; 400 µs after RP_RST_N
is released, once, a device of at least 64 Mib that answers sets RP_READY, any other RP_ERROR; a read without a strobe is abandoned and sets
RP_ERROR. -/
def Obligations.TraceMemoryIsInitialisedOnce : Prop :=
  ∀ (s : State) (d density : Nat) (ok : Bool),
    (s.healthy d = true → s.regs.rcdDest ≠ 0 → bit s.regs.rcdEventMask 0x1E = true → (s.die d).trace.timeDue = true → (s.die d).trace.dropped = 0 →
      (s.die d).trace.buf.length < 1024 → ∃ t r, exec (.timeRecord d) s = .next t ∧ (t.die d).trace.buf = (s.die d).trace.buf ++ [r] ∧
        (t.die d).trace.timeDue = false ∧ t = s.modDie d (fun x => { x with trace := (t.die d).trace })) ∧
    (s.boot.fwReady = true → bit s.pins.straps 0 = true → s.pins.rpReset = false → s.pins.rpTried = false → s.regs.rpReady = false →
      s.pins.rpFrom + 400 * countsPerUs ≤ s.now →
      (ok = true → 64 ≤ density → ∃ t, exec (.traceMemoryInit ok density) s = .next t ∧ t.regs = { s.regs with rpReady := true } ∧
        t.traceMem = { s.traceMem with size := Min.min density 512 * 131072 } ∧ t = { s with regs := t.regs, traceMem := t.traceMem, pins := { s.pins with rpTried := true } }) ∧
      ((ok = false ∨ density < 64) → exec (.traceMemoryInit ok density) s =
        .next (State.raised { s with regs := { s.regs with rpError := true }, pins := { s.pins with rpTried := true } } 5))) ∧
    (s.pins.rpTried = true → exec (.traceMemoryInit ok density) s = .next s) ∧
    (s.traceMem.reading = true → ∃ t, exec .rpReadTimeout s = .next t ∧ t.regs = { s.regs with rpError := true, setAt := s.regs.setAt.insert 5 s.now } ∧
      t.traceMem = { s.traceMem with reading := false } ∧ t.jobs = s.jobs ∧ t.dies = s.dies ∧ t.host = s.host)

/-! ### Security (chapter 19) -/

/-- CHALLENGE (R668): 64 bytes are written at SEC_CMD_ADDR and nowhere else: 32 random bytes, the package identity, the lifecycle code, seven zeros,
the GTC and eight zeros; they are the pending challenge, in place of any before; the result is OK. The bytes are written where the die may
write host memory and its fabric egress grants it (R374, R457); else the command waits there. -/
def Obligations.ChallengeWritesSixtyFourBytes : Prop :=
  ∀ (s : State) (p : Nat), s.host.wf = true → s.takes p = true → s.sec.cmdAddr + 64 ≤ hostTop →
    (s.mayReach (s.healthyDies.headD 0) = false → exec (.challenge p) s = .next (s.queued [atEgress (s.healthyDies.headD 0) 4])) ∧
    (s.mayReach (s.healthyDies.headD 0) = true → ∃ (t : State) (c r : List Byte), exec (.challenge p) s = .next t ∧ c.length = 64 ∧ r.length = 32 ∧
      c = r ++ s.packageId ++ natLE 1 s.lifecycle ++ zeros 7 ++ natLE 8 s.secGtc ++ zeros 8 ∧
      t.sec = { s.sec with cmd := 1, result := 0, challenge := some (c, s.secGtc) } ∧
      (∀ a, a < s.sec.cmdAddr ∨ s.sec.cmdAddr + 64 ≤ a → t.host.get a = s.host.get a) ∧
      (∀ i, i < 64 → t.host.get (s.sec.cmdAddr + i) = c.getD i 0) ∧ t.jobs = s.jobs ∧ t.regs = s.regs ∧ t.queues = s.queues ∧
      (∀ d, { t.die d with arbs := (s.die d).arbs } = s.die d))

/-- R667: a command of the list in any other lifecycle state gives BAD_STATE and does nothing else, but that a signed one consumes the challenge;
a transition command is refused with BUSY while any job is accepted (R656). -/
def Obligations.SecurityCommandsAreGatedByLifecycle : Prop :=
  ∀ (s : State) (p : Nat) (hv : HostView) (f : Option Nat), s.takes p = true →
    (s.lifecycle ≠ 2 → ∃ t, exec (.debugUnlock p hv) s = .next t ∧ t.sec = { s.sec with cmd := 8, result := 1, challenge := none } ∧
      t = { s with sec := t.sec }) ∧
    (s.lifecycle ≠ 3 → ∃ t, exec (.relock p hv) s = .next t ∧ t.sec = { s.sec with cmd := 9, result := 1 } ∧ t = { s with sec := t.sec }) ∧
    (s.lifecycle ≠ 2 → ∃ t, exec (.injectUnlock p hv) s = .next t ∧ t.sec = { s.sec with cmd := 10, result := 1, challenge := none } ∧
      t = { s with sec := t.sec }) ∧
    (s.lifecycle = 5 → ∃ t, exec (.keyLoad p hv) s = .next t ∧ t.sec = { s.sec with cmd := 2, result := 1 } ∧ t = { s with sec := t.sec }) ∧
    (∀ c k, (c, k) ∈ [(Instr.keyRevoke p hv f, 4), (.rollbackCommit p hv f, 5), (.signRequire p hv f, 6)] → s.lifecycle ≠ 1 → s.lifecycle ≠ 2 →
      ∃ t, exec c s = .next t ∧ t.sec = { s.sec with cmd := k, result := 1, challenge := none } ∧ t.dies.map (·.fuse) = s.dies.map (·.fuse) ∧
        t.jobs = s.jobs ∧ t.host = s.host) ∧
    (∀ c k l, (c, k, l) ∈ [(Instr.lcField p hv f, 7, [1]), (.debugUnlock p hv, 8, [2]), (.relock p hv, 9, [3]), (.lcReturn p hv f, 11, [2, 3])] →
      s.lifecycle ∈ l → s.anyAccepted = true →
      ∃ t, exec c s = .next t ∧ t.sec.result = 4 ∧ t.sec.cmd = k ∧ t.dies.map (·.fuse) = s.dies.map (·.fuse) ∧ t.jobs = s.jobs ∧ t.host = s.host)

/-- KEY_LOAD (R659): the block's key enters the customer slot it names on every healthy die when its hash is the slot's fuse; NO_KEY and nothing
else otherwise. No fuse changes and no signature is asked.
The commands that blow fuses (R660, R663, R667), with no die failing its blow: KEY_FUSE the hash of the block's key into an empty slot (SLOT_USED
otherwise), KEY_REVOKE the revocation of a slot (LAST_KEY for the last live one), ROLLBACK_COMMIT the counter up to the running image's
`svn` and never down, SIGN_REQUIRE its bit; on every healthy die, with result OK; a signed command consumes the challenge. -/
def Obligations.FuseCommandsBlowOnEveryDie : Prop :=
  (∀ (s : State) (p : Nat) (hv : HostView) (blk : List Byte), s.takes p = true → s.lifecycle < 5 → s.FindsBlock hv 2 .nobody blk →
      (s.fuse.slotHash.getD (blockSlot blk) none = some (blockKeyHash blk) → ∃ t, exec (.keyLoad p hv) s = .next t ∧
        t.sec = { s.sec with cmd := 2, result := 0 } ∧ (∀ d, s.healthy d = true →
          t.die d = { s.die d with keys := (s.die d).keys.set (blockSlot blk + 1) (some (slice blk 0x40 516)) }) ∧ s.SecureFrame hv t) ∧
      (s.fuse.slotHash.getD (blockSlot blk) none ≠ some (blockKeyHash blk) → ∃ t, exec (.keyLoad p hv) s = .next t ∧
        t.sec = { s.sec with cmd := 2, result := 3 } ∧ t.dies = s.dies ∧ s.SecureFrame hv t)) ∧
  (∀ (s : State) (p : Nat) (hv : HostView) (blk : List Byte) (k : SecSigner), s.takes p = true → s.lifecycle = 1 ∨ s.lifecycle = 2 →
      k = (if s.lifecycle = 1 ∧ s.fuse.slotHash.all Option.isNone = true then SecSigner.nobody else SecSigner.customer) →
      (s.FindsBlock hv 3 k blk → s.fuse.slotHash.getD (blockSlot blk) none = none → ∃ t, exec (.keyFuse p hv none) s = .next t ∧ t.sec.result = 0 ∧
        (∀ d, s.healthy d = true → (s.die d).fuse.slotHash.getD (blockSlot blk) none = none →
          (t.die d).fuse = { (s.die d).fuse with slotHash := (s.die d).fuse.slotHash.set (blockSlot blk) (some (blockKeyHash blk)) }) ∧
        s.SecureFrame hv t) ∧
      (s.FindsBlock hv 3 k blk → s.fuse.slotHash.getD (blockSlot blk) none ≠ none → ∃ t, exec (.keyFuse p hv none) s = .next t ∧ t.sec.result = 5 ∧
        t.dies.map (·.fuse) = s.dies.map (·.fuse) ∧ s.SecureFrame hv t) ∧
      (s.FindsBlock hv 4 .customer blk → s.fuse.liveSlots ≠ [blockSlot blk] → ∃ t, exec (.keyRevoke p hv none) s = .next t ∧ t.sec.result = 0 ∧
        (∀ d, s.healthy d = true → (t.die d).fuse = { (s.die d).fuse with revoked := setBit (s.die d).fuse.revoked (blockSlot blk) }) ∧
        t.sec.challenge = none ∧ s.SecureFrame hv t) ∧
      (s.FindsBlock hv 4 .customer blk → s.fuse.liveSlots = [blockSlot blk] → ∃ t, exec (.keyRevoke p hv none) s = .next t ∧ t.sec.result = 6 ∧
        t.dies.map (·.fuse) = s.dies.map (·.fuse) ∧ t.sec.challenge = none ∧ s.SecureFrame hv t) ∧
      (∀ fw, s.FindsBlock hv 5 .customer blk → (s.die (s.healthyDies.headD 0)).fw = some fw → ∃ t, exec (.rollbackCommit p hv none) s = .next t ∧
        t.sec.result = 0 ∧ (∀ d, s.healthy d = true → (t.die d).fuse = { (s.die d).fuse with rollback := Max.max (s.die d).fuse.rollback fw.svn }) ∧
        t.sec.challenge = none ∧ s.SecureFrame hv t) ∧
      (s.FindsBlock hv 6 .customer blk → ∃ t, exec (.signRequire p hv none) s = .next t ∧ t.sec.result = 0 ∧
        (∀ d, s.healthy d = true → (t.die d).fuse = { (s.die d).fuse with signRequired := true }) ∧ t.sec.challenge = none ∧ s.SecureFrame hv t))

/-- The lifecycle transitions (R655, R656, R667, R671), with no job accepted and no die failing its blow: LC_FIELD, LC_RETURN and LC_SCRAP blow the state
they name where the fuses are less advanced, on every healthy die, LC_SCRAP the private device key and its certificate too; DEBUG_UNLOCK
opens FIELD_DEBUG and RELOCK ends it; each wipes every Vault and gives OK. INJECT_UNLOCK sets UNLOCKED on every die. -/
def Obligations.TransitionsAdvanceTheLifecycleAndWipe : Prop :=
  ∀ (s : State) (p : Nat) (hv : HostView) (blk : List Byte), s.takes p = true → s.anyAccepted = false →
    (s.lifecycle = 1 → s.FindsBlock hv 7 .customer blk → ∃ t, exec (.lcField p hv none) s = .next t ∧ t.sec.result = 0 ∧
      (∀ d, s.healthy d = true → (t.die d).fuse = { (s.die d).fuse with life := Max.max (s.die d).fuse.life 2 }) ∧ t.VaultsWiped ∧
      s.SecureFrame hv t) ∧
    (s.lifecycle = 2 → s.FindsBlock hv 8 .customer blk → ∃ t, exec (.debugUnlock p hv) s = .next t ∧ t.sec.result = 0 ∧ t.lifecycle = 3 ∧
      t.dies.map (·.fuse) = s.dies.map (·.fuse) ∧ t.VaultsWiped ∧ s.SecureFrame hv t) ∧
    (s.lifecycle = 3 → s.FindsBlock hv 9 .nobody blk → ∃ t, exec (.relock p hv) s = .next t ∧ t.sec.result = 0 ∧ t.sec.debug = false ∧
      t.dies.map (·.fuse) = s.dies.map (·.fuse) ∧ t.VaultsWiped ∧ s.SecureFrame hv t) ∧
    (s.lifecycle = 2 → s.FindsBlock hv 10 .customer blk → ∃ t, exec (.injectUnlock p hv) s = .next t ∧ t.sec.result = 0 ∧
      t.dies = s.dies.map (fun x => { x with injUnlocked := true }) ∧ s.SecureFrame hv t) ∧
    (s.lifecycle = 2 ∨ s.lifecycle = 3 → s.FindsBlock hv 11 .customer blk → ∃ t, exec (.lcReturn p hv none) s = .next t ∧ t.sec.result = 0 ∧
      (∀ d, s.healthy d = true → (t.die d).fuse = { (s.die d).fuse with life := Max.max (s.die d).fuse.life 4 }) ∧ t.sec.debug = false ∧
      t.VaultsWiped ∧ s.SecureFrame hv t) ∧
    (s.lifecycle < 5 → s.FindsBlock hv 12 (if s.lifecycle = 0 then .nobody else .rootOrCustomer) blk →
      ∃ t, exec (.lcScrap p hv none) s = .next t ∧ t.sec.result = 0 ∧
        (∀ d, s.healthy d = true → (t.die d).fuse.life = Max.max (s.die d).fuse.life 5 ∧ (t.die d).fuse.devKey.d = none ∧
          (t.die d).fuse.cert = zeros 2048 ∧ (t.die d).fuse.slotHash = (s.die d).fuse.slotHash) ∧ t.VaultsWiped ∧ s.SecureFrame hv t)

/-- R669, R674, R675: a tamper input or a glitch on a part out of power-on reset wipes every Vault, ends FIELD_DEBUG, clears UNLOCKED, makes HEALTHY fall and
latches its bit; jobs go on and no error record is written; no die unwraps its key again, and with neither latched each does where its Vault's
port grants it. The AVS
fallback of a die keeps the voltage or is such a glitch, by the rail's reading. -/
def Obligations.TamperAndGlitchWipeTheVaults : Prop :=
  ∀ (s : State) (i d mv : Nat), s.boot.held = false →
    (i < 2 → ∃ t, exec (.tamper i) s = .next t ∧ t.sec.tamper = true ∧ t.VaultsWiped ∧ t.sec.debug = false ∧ t.pins.healthy = false ∧
      (∀ x ∈ t.dies, x.injUnlocked = false) ∧ t.jobs = s.jobs ∧ t.queues = s.queues ∧ t.host = s.host ∧
      t.dies.map (·.unacked) = s.dies.map (·.unacked) ∧ exec (.keyUnwrap d) t = .next t) ∧
    (∃ t, exec .glitch s = .next t ∧ t.sec.glitch = true ∧ t.VaultsWiped ∧ t.sec.debug = false ∧ t.pins.healthy = false ∧
      (∀ x ∈ t.dies, x.injUnlocked = false) ∧ t.jobs = s.jobs ∧ t.dies.map (·.unacked) = s.dies.map (·.unacked)) ∧
    (d < s.n → 735 ≤ mv → mv ≤ 765 → exec (.avsFallback d mv) s =
      .next (s.modDie d (fun x => { x with power := { x.power with avsFallback := true } }))) ∧
    (d < s.n → (mv < 735 ∨ 765 < mv) → ∃ t, exec (.avsFallback d mv) s = .next t ∧ t.sec.glitch = true ∧ t.VaultsWiped ∧
      (t.die d).power.avsFallback = true ∧ t.pins.healthy = false) ∧
    (d < s.n → (s.die d).lost = false → s.boot.pll = true → s.sec.tamper = false → s.sec.glitch = false → (s.die d).fuse.devKey.d ≠ none →
      s.arbOpen [atVault d 0] = true → exec (.keyUnwrap d) s = .next ((s.granted [atVault d 0]).modDie d (fun x => { x with keyReady := true })))

/-! ### Start-up, resets, power, sideband and test port (chapters 20 and 21) -/

/-- Start-up, step by step (R546, R677, R692, R701, R712): PORST_N's release samples the straps, each the majority of three
samples, and ends the hold; the root PLL starts the links' training; a link
that trains puts its port in service at the lower of the two rates, in coherent mode only with CXL.cache and STRAP[1] low; once no link
trains, the lowest healthy die's GTC starts at 0; the start message starts the others at its count; MEM_READY opens the mailbox.
A link that cannot train fails its port; when no port can serve, PACKAGE_FATAL is latched: HEALTHY is low and FAULT_N is asserted (R378, R410, R695). -/
def Obligations.StartUpGoesStepByStep : Prop :=
  (∀ (s : State) (straps b c k rate : Nat) (x32 cache : Bool) (hv : HostView),
      (s.boot.held = true → ∃ t, exec (.powerOnReset straps b c) s = .next t ∧ t.boot = { s.boot with held := false, released := s.now } ∧
        (∀ i, i < 4 → bit t.pins.straps i = ((bit straps i && bit b i) || (bit straps i && bit c i) || (bit b i && bit c i))) ∧
        (b = straps → t.pins.straps = straps % 16) ∧ t.pins.driven = true ∧ t.ident = s.ident ∧
        ((∀ x ∈ s.dies, x.fuse.keyFuses = s.fuse.keyFuses) → t.jobs = s.jobs ∧ t.queues = s.queues ∧ t.host = s.host)) ∧
      (s.boot.held = false → s.boot.pll = false → ∃ t, exec .rootPllLock s = .next t ∧ t.boot = { s.boot with pll := true } ∧
        t.ports = s.ports.map (fun x => { x with st := .training }) ∧ t.jobs = s.jobs ∧ t.queues = s.queues ∧ t.host = s.host) ∧
      (s.boot.held = false → (s.port k).st = .training → rate ≤ 5 → ∃ t, exec (.linkTrainingDone k rate x32 cache) s = .next t ∧
        (t.port k).st = .inService ∧ (t.port k).x32 = x32 ∧ (t.port k).rate = Min.min rate s.regs.maxRate ∧
        (t.port k).coherent = (cache && !bit s.pins.straps 1) ∧ (∀ j, j ≠ k → t.port j = s.port j) ∧
        (s.boot.gtcStarted = false → (∀ j, j ≠ k → (s.port j).st ≠ .training) → s.healthyDies ≠ [] →
          t.boot.gtcStarted = true ∧ t.gtc (s.healthyDies.headD 0) = 0 ∧ (t.die (s.healthyDies.headD 0)).gtcRun = true)) ∧
      (∀ e, s.boot.gtcStarted = true → s.healthyDies.find? (fun d => (s.die d).gtcRun) = some e → ∃ t, exec .gtcStart s = .next t ∧
        (∀ d, s.healthy d = true → (t.die d).gtcRun = true ∧ ((s.die d).gtcRun = false → t.gtc d = s.gtc e) ∧ ((s.die d).gtcRun = true → t.die d = s.die d)) ∧
        t = { s with dies := t.dies }) ∧
      (s.boot.held = false → s.boot.pll = true → s.boot.memReady = false → s.boot.goHeld = false → ∃ t, exec (.memReady hv) s = .next t ∧
        t.boot = { s.boot with memReady := true } ∧ t.pins = { s.pins with driven := true } ∧ t.regs = { s.regs with rstBusy := false } ∧
        t.dies = s.dies ∧ t.jobs = s.jobs ∧ t.host = (s.merge hv).host)) ∧
  (∀ (s : State) (k rate : Nat) (x32 cache : Bool), s.boot.held = false → k < 2 → s.ports.length = 2 → (s.port k).st = .training → 5 < rate →
      ∃ t, exec (.linkTrainingDone k rate x32 cache) s = .next t ∧ (t.port k).st = .failed ∧ t.port (1 - k) = s.port (1 - k) ∧ t.jobs = s.jobs ∧
        ((s.port (1 - k)).st = .failed → t.pins.fatal = true ∧ t.pins.healthy = false ∧ t.pins.faultN = false))

/-- SEC_BOOT_GO (R662, R701): before MEM_READY it is held and nothing else changes; an image that every healthy die's checks pass runs on every
healthy die and sets FW_READY; one that no die passes leaves the part without firmware and reports the lowest die's code.
R663 and R662: an image whose `svn` lies below a die's fused rollback counter never passes that die's checks, in whatever lifecycle state; nor does any
image in SCRAPPED, nor one whose root key does not hash to the root fuse. -/
def Obligations.FirmwareRunsOnlyWhenItsChecksPass : Prop :=
  (∀ (s : State) (p : Nat) (hv : HostView) (img : List Byte), s.portUp p = true → s.boot.fwReady = false →
      (s.boot.memReady = false → exec (.secBootGo p hv) s = .next { s with boot := { s.boot with goHeld := true } }) ∧
      (s.boot.memReady = true → s.sec.bootSize % 64 = 0 → 4096 ≤ s.sec.bootSize → s.sec.bootSize ≤ 16777216 →
        (s.merge hv).readHost hv s.sec.bootAddr s.sec.bootSize = some img → s.healthyDies ≠ [] →
        ((∀ d, s.healthy d = true → (s.die d).fuse.checkImage s.lifecycle s.sec.bootSize img = 2) → ∃ t, exec (.secBootGo p hv) s = .next t ∧
          t.boot.fwReady = true ∧ t.sec.bootStatus = 2 ∧ (∀ d, s.healthy d = true →
            (t.die d).fw = some (firmwareOf img s.sec.bootSize)) ∧ t.jobs = s.jobs ∧ t.host = (s.merge hv).host) ∧
        ((∀ d, s.healthy d = true → (s.die d).fuse.checkImage s.lifecycle s.sec.bootSize img ≠ 2) → exec (.secBootGo p hv) s =
          .next ((s.merge hv).bootFails ((s.die (s.healthyDies.headD 0)).fuse.checkImage s.lifecycle s.sec.bootSize img))))) ∧
  (∀ (f : Fuses) (lc n : Nat) (img : List Byte),
      (field img 6 2 < f.rollback → f.checkImage lc n img ≠ 2) ∧ (lc = 5 → f.checkImage lc n img ≠ 2) ∧
      (sha512 (slice img 0x10 516) ≠ f.rootHash → f.checkImage lc n img ≠ 2) ∧
      (f.checkImage lc n img = 2 → pssVerify (slice img 0x10 516) (slice img (n - 1024) 512) (fwDigest img n) = true))

/-- PORST_N and the resets (R657, R696, R699, R700, R716): PORST_N low loses everything but fuses, identity, host memory and the time; a first PACKAGE `go` only
arms, and one within 1 ms of it resets: jobs and queues are gone, fuses and repairs stay; the arming lapses after 1 ms. -/
def Obligations.PackageResetNeedsTwoGoes : Prop :=
  ∀ (s : State) (p a die cl queue : Nat), s.takes p = true →
    (∃ t, exec .porstNAssert s = .next t ∧ t.boot.held = true ∧ t.jobs = [] ∧ t.queues = [] ∧ t.plans = [] ∧ t.dies = s.dies.map (fun x => Die.reset x.fuse) ∧
      t.ident = s.ident ∧ t.host = s.host ∧ t.now = s.now ∧ t.pins = Pins.reset ∧ t.regs = Regs.reset s.ident) ∧
    (s.boot.warmArm = none → ∃ t, exec (.packageWarmReset p die cl queue) s = .next t ∧ t.boot = { s.boot with warmArm := some s.now } ∧ t.regs.rstResult = 3 ∧
      t.jobs = s.jobs ∧ t.queues = s.queues ∧ t.dies = s.dies ∧ t.host = s.host) ∧
    (s.boot.warmArm = some a → s.now ≤ a + 1000 * countsPerUs → ∃ t, exec (.packageWarmReset p die cl queue) s = .next t ∧ t.jobs = [] ∧ t.queues = [] ∧ t.plans = [] ∧
      t.boot.fwReady = false ∧ t.boot.warmArm = none ∧ t.host = s.host ∧ t.ident = s.ident ∧ t.pins.fatal = false) ∧
    (s.boot.warmArm = some a → a + 1000 * countsPerUs < s.now → s.boot.sbArm = none →
      exec .packageResetArmExpiry s = .next { s with boot := { s.boot with warmArm := none } })

/-- R716: a write of 0xA5 to `sb_reset` arms a package warm reset, a second write of 0xA5 within 1 ms starts it, and any other value written disarms it, and a
message to another address nothing. The sideband answers from 2 ms after PORST_N's release. -/
def Obligations.SidebandResetArmsThenStarts : Prop :=
  ∀ (s : State) (v a : Nat), s.sidebandUp = true →
    (v % 256 ≠ 0xA5 → exec (.sbReset v) s = .next { s with boot := { s.boot with sbArm := none } }) ∧
    (v % 256 = 0xA5 → s.armedAt s.boot.sbArm = false → exec (.sbReset v) s = .next { s with boot := { s.boot with sbArm := some s.now } }) ∧
    (v % 256 = 0xA5 → s.boot.sbArm = some a → s.now ≤ a + 1000 * countsPerUs → exec (.sbReset v) s = .next s.warmReset ∧
      s.warmReset.boot.fwReady = false ∧ s.warmReset.jobs = [] ∧ s.warmReset.boot.sbArm = none) ∧
    (∀ b, b ≠ 0x30 + bitsOf s.pins.straps 3 2 → s.pins.dynAddr ≠ some b → exec (.sbReset v (some b)) s = .next s)

/-- Sideband transfers (R713 to R715): a write sets the index and stores its bytes from there; a read returns as many bytes as asked, the index advances
by as many modulo 256, and only the sideband and the trace port's pending read change; a bus timeout resets the interface. It answers
at its static address, which the straps give, and at the one assigned to it (R712, R714); that a timeout takes the assigned one back is the
model's choice (log entry 82).
The test port (R720, R721): TRST_N or PORST_N low resets every TAP; a TCK cycle moves the controller as IEEE 1149.1 does, and five with TMS high reset it
from any state; no job, queue or die's work changes by a cycle. In FIELD the cell of HEALTHY drives no high level. -/
def Obligations.SidebandAndTestPortMove : Prop :=
  (∀ (s : State) (n a : Nat) (i : Byte), s.sidebandUp = true →
      exec (.sidebandWrite [i]) s = .next { s with sideband := { s.sideband with index := i.toNat } } ∧
      (∀ b, i = 0x30 → exec (.sidebandWrite [i, b]) s = .next { s with sideband := { s.sideband with index := 0x31, logIndex := putByte s.sideband.logIndex 0 b } }) ∧
      (∃ t, exec (.sidebandRead n) s = .next t ∧ t.sideband.data.length = n ∧ (0 < n → t.sideband.index = (s.sideband.index + n) % 256) ∧
        t.sideband.logIndex = s.sideband.logIndex ∧ t = { s with sideband := t.sideband, traceMem := { s.traceMem with reading := t.traceMem.reading } }) ∧
      exec .sidebandBusTimeout s =
        .next { s with sideband := { s.sideband with index := 0, capture := (0, []) }, pins := { s.pins with dynAddr := none } } ∧
      exec (.sidebandWrite [] none (some a)) s = .next { s with pins := { s.pins with dynAddr := some (a % 128) } } ∧
      (a = 0x30 + bitsOf s.pins.straps 3 2 ∨ s.pins.dynAddr = some a → exec (.sidebandRead n (some a)) s = exec (.sidebandRead n) s ∧
        exec (.sidebandWrite [i] (some a)) s = exec (.sidebandWrite [i]) s) ∧
      (a ≠ 0x30 + bitsOf s.pins.straps 3 2 → s.pins.dynAddr ≠ some a → exec (.sidebandRead n (some a)) s = .next s ∧
        exec (.sidebandWrite [i] (some a)) s = .next s)) ∧
  (∀ (s : State) (tms tdi trst : Bool),
      (s.boot.held = true ∨ trst = true → exec (.testPortCycle tms tdi trst) s = .next { s with testPort := TestPort.reset s.n }) ∧
      (s.boot.held = false → ∃ t, exec (.testPortCycle tms tdi false) s = .next t ∧ (t.testPort.tap = s.testPort.tap.next tms) ∧
        t = { s with testPort := t.testPort, free := t.free }) ∧
      (∀ a : Tap, ((((a.next true).next true).next true).next true).next true = .reset) ∧
      (s.lifecycle = 2 → s.pins.healthy = false → s.healthyBall = false))

/-- Resets of a queue, a cluster and a die (R696, R697, R700): the context of a DISABLED queue without jobs is cleared and a queue in use gives BAD_STATE; a
cluster that does not exist gives BAD_TARGET, and one of a healthy die loses its storage; a lost die begins its
return, but stays lost where its key fuses differ, it has two failed GQUs or its checks do not let the running image run (R657, R662,
R702); each discards a pending challenge. -/
def Obligations.NarrowResetsAreConfined : Prop :=
  ∀ (s : State) (p q d c k : Nat), s.takes p = true →
    (q < 16384 → (s.queue q).st = .disabled → (∀ j ∈ s.jobs, j.q ≠ q) → (s.queue q).recovered = [] → ∃ t, exec (.queueReset p q d c) s = .next t ∧
      t.queue q = Queue.reset ∧ t.regs.rstResult = 0 ∧ t.sec.challenge = none ∧ (∀ q', q' ≠ q → t.queue q' = s.queue q') ∧ t.jobs = s.jobs ∧
      t.dies = s.dies ∧ t.host = s.host) ∧
    ((s.queue q).st ≠ .disabled → ∃ t, exec (.queueReset p q d c) s = .next t ∧ t.regs.rstResult = 1 ∧ t.queues = s.queues ∧ t.jobs = s.jobs ∧
      t.dies = s.dies ∧ t.sec = s.sec) ∧
    (d < s.n → c < 5 → s.healthy d = true → s.jobsOnCluster d c = [] → (s.die d).power.change = none → (∀ x ∈ s.dies, x.power.change = none ∧ ∀ k ∈ x.clusters, k.draining = false) →
      ∃ t, exec (.clusterReset p d c k) s = .next t ∧ t.regs.rstResult = 0 ∧ t.sec.challenge = none ∧ t.jobs = s.jobs ∧ t.host = s.host ∧
        t.queues = s.queues ∧ (∀ f ∈ (t.die d).flips, 1 < f.mem ∨ f.cl ≠ c)) ∧
    (s.n ≤ d ∨ 5 ≤ c → ∃ t, exec (.clusterReset p d c k) s = .next t ∧ t.regs.rstResult = 2 ∧ t.jobs = s.jobs ∧ t.host = s.host) ∧
    (d < s.n → (s.die d).lost = true → (s.die d).returning = false → s.coolEnough d = true → s.healthyDies ≠ [] → s.returnBar d = none →
      ∃ t, exec (.dieReset p d c k) s = .next t ∧ (t.die d).returning = true ∧ (t.die d).lost = false ∧ t.regs.rstBusy = true ∧ t.jobs = s.jobs ∧
        t.host = s.host ∧ (t.die d).fuse = (s.die d).fuse) ∧
    (∀ e, d < s.n → (s.die d).lost = true → (s.die d).returning = false → s.coolEnough d = true → s.healthyDies ≠ [] → s.returnBar d = some e →
      ∃ t, exec (.dieReset p d c k) s = .next t ∧ (t.die d).returning = false ∧ (t.die d).lost = true ∧ t.regs.rstBusy = false ∧ t.jobs = s.jobs ∧
        t.host = s.host)

/-- Die power (R36, R681, R683 to R686). D1 of a die in D0 that is not the last begins the change and drains its clusters; it and D3 are refused with their codes
when the die is the last in D0, has the only port, or is not in D1; a die in D3 begins its return on D0; a change in progress refuses
another. A die enters D3 once the supervisor can note it in its segment header (R456). At an Umlin port on the way to the die's window that
does not grant it the write waits (R386). -/
def Obligations.DiePowerChangesAreOrdered : Prop :=
  ∀ (s u : State) (p d mode mask : Nat) (way : List ArbReq), s.takes p = true → d < s.n → (s.die d).lost = false → (s.die d).returning = false →
    way = s.overUmlin p d 2 d → u = s.granted way →
    (s.arbOpen way = false → exec (.diePowerD1 p d mode mask) s = .next (s.queued way) ∧ exec (.diePowerD3 p d mode mask) s = .next (s.queued way)) ∧
    (s.arbOpen way = true → (s.die d).power.change.isSome = true → exec (.diePowerD1 p d mode mask) s = .next u ∧ exec (.diePowerD3 p d mode mask) s = .next u) ∧
    (s.arbOpen way = true → (s.die d).power.change = none →
      ((s.die d).power.state = 0 → s.lastD0 d = true → ∃ t, exec (.diePowerD1 p d mode mask) s = .next t ∧ (t.die d).power.result = 2 ∧
        (t.die d).power.state = 0 ∧ (t.die d).power.change = none ∧ t.jobs = s.jobs ∧ t.queues = s.queues) ∧
      ((s.die d).power.state = 0 → s.lastD0 d = false → mode = 0 → ∃ t, exec (.diePowerD1 p d mode mask) s = .next t ∧ t.jobs = s.jobs ∧
        t.queues = s.queues ∧ t.host = s.host ∧ ((t.die d).power.state = 1 ∨ (t.die d).power.change = some (1, mode, mask)) ∧
        ∀ k ∈ (t.die d).clusters, k.off = true ∨ k.draining = true) ∧
      ((s.die d).power.state = 0 → ∃ t, exec (.diePowerD3 p d mode mask) s = .next t ∧ (t.die d).power.result = 1 ∧ (t.die d).power.state = 0 ∧ t.jobs = s.jobs) ∧
      ((s.die d).power.state = 1 → s.lastD0 d = false → s.onlyPort d = true → ∃ t, exec (.diePowerD3 p d mode mask) s = .next t ∧
        (t.die d).power.result = 3 ∧ (t.die d).power.state = 1 ∧ t.jobs = s.jobs) ∧
      ((s.die d).power.state = 1 → s.lastD0 d = false → s.onlyPort d = false → (∀ e ∈ s.queues, e.2.entry.homeDie ≠ d) → (∀ j ∈ s.jobs, j.owner ≠ d ∧ j.storedOn d = false) →
        s.storeWrites = [] →
        (∀ e, e < s.n → e ≠ d → (s.die e).power.change = none) → (s.regs.ldgStarted = true → s.supReaches = true) → ∃ t, exec (.diePowerD3 p d mode mask) s = .next t ∧ (t.die d).power.state = 3 ∧
          (t.die d).power.change = none ∧ t.healthy d = false ∧ t.jobs = s.jobs) ∧
      ((s.die d).power.state = 3 → s.returnBar d = none → ∃ t, exec (.diePowerD0 p d mode mask) s = .next t ∧ (t.die d).returning = true ∧ (t.die d).lost = false ∧ t.jobs = s.jobs) ∧
      ((s.die d).power.state = 0 → mode = 0 → ∃ t, exec (.clusterDisable p d mode mask) s = .next t ∧ t.jobs = s.jobs ∧
        (t.die d).power.clDisable = mask % 32 ∧ (t.die d).power.state = 0 ∧
        ∀ c k, (t.die d).clusters[c]? = some k → bit mask c = true → k.off = true ∨ k.draining = true) ∧
      ((s.die d).power.state ≠ 0 → (s.die d).power.state ≠ 3 → ∃ t, exec (.clusterDisable p d mode mask) s = .next t ∧ (t.die d).power.result = 1 ∧ t.jobs = s.jobs))

/-- Power and temperature (R689, R690, R693): an estimate is kept as the die's latest and joins the sum of the last millisecond; a division gives every healthy die at
least 60 W less throttling, a die in D3 nothing, and all together never more than PWR_CAP; a die at the throttle threshold throttles and
one at the shutdown threshold is lost. -/
def Obligations.PowerSharesNeverExceedTheCap : Prop :=
  ∀ (s : State) (d est temp : Nat) (idle : Bool),
    (s.healthy d = true → ∃ t, exec (.powerEstimate d est idle) s = .next t ∧ (t.die d).power.est = est ∧
      (t.die d).power.lastMs = (s.die d).power.lastMs + est ∧ (∀ e, e ≠ d → t.die e = s.die e) ∧ t.jobs = s.jobs ∧ t.host = s.host) ∧
    (s.sup.die ≠ none → s.sup.owes = none → s.healthyDies.length * 60 ≤ s.regs.pwrCap → ∃ t, exec .powerDivision s = .next t ∧
      (t.dies.map (·.power.share)).sum ≤ 8 * s.regs.pwrCap ∧ (∀ e, e < s.n → s.healthy e = false → (t.die e).power.share = 0) ∧
      (∀ e, s.healthy e = true → (s.die e).power.throttled = false → 480 ≤ (t.die e).power.share) ∧
      (∀ e, (t.die e).power.lastMs = 0 ∨ s.n ≤ e) ∧ t.jobs = s.jobs ∧ t.host = s.host ∧ t.regs = s.regs) ∧
    (d < s.n → s.boot.pll = true → (s.die d).lost = false → tempOf temp < s.shutdownAt → ∃ t, exec (.thermalSample d temp) s = .next t ∧
      (t.die d).power.temp = temp % 65536 ∧ (s.throttleAt ≤ tempOf temp → (t.die d).power.throttled = true ∧ t.pins.alertN = false) ∧
      (tempOf temp < s.throttleEnd → (t.die d).power.throttled = false) ∧ t.jobs = s.jobs ∧ t.host = s.host) ∧
    (d < s.n → s.boot.pll = true → s.shutdownAt ≤ tempOf temp → (s.die d).lost = false → ∃ t, exec (.thermalSample d temp) s = .next t ∧
      (t.die d).lost = true ∧ (t.die d).power.thermalStop = true)

/-! ### The Ledger, peers, links and ports (chapters 1, 11, 13) -/

/-- LDG_CTL.START (R473) of a part with every die in service whose segments are empty, readable and apart: each die initialises its segment and starts at
sequence 0, LDG_STATUS.READY is set, and host memory changes nowhere but in the segment headers. Started again it changes nothing. A
failed ordering read (R476) is retried three times, 100 µs apart; a retry that succeeds is the read it stands for, and the last failure
logs LEDGER_IO and latches PACKAGE_FATAL. -/
def Obligations.LedgerStartsAndRetries : Prop :=
  ∀ (s : State) (p d k : Nat) (hv : HostView), s.host.wf = true →
    (s.takes p = true → s.regs.ldgStarted = false → (∀ e, e < s.n → s.healthy e = true) → s.sup.fence = none → s.sup.fenceQueue = [] →
      s.sup.recovering = [] →
      (∀ e, s.healthy e = true → (s.merge hv).segReadable hv e = true ∧ (s.merge hv).host.readLE (s.regs.segBase.getD e 0) 4 ≠ 0x4744454C) →
      (∀ e f, e ≠ f → s.healthy e = true → s.healthy f = true →
        s.regs.segBase.getD e 0 + 64 ≤ s.regs.segBase.getD f 0 ∨ s.regs.segBase.getD f 0 + 64 ≤ s.regs.segBase.getD e 0) →
      ∃ t, exec (.ldgCtlStart p hv) s = .next t ∧ t.regs.ldgStarted = true ∧ t.regs.ldgReady = true ∧ t.jobs = s.jobs ∧ t.queues = s.queues ∧
        (∀ e, s.healthy e = true → (t.die e).ldg.inUse = true ∧ (t.die e).ldg.next = 0 ∧ (t.die e).ldg.base = 0 ∧ (t.die e).ldg.epoch = 0) ∧
        (∀ a, (∀ e, s.healthy e = true → a < s.regs.segBase.getD e 0 ∨ s.regs.segBase.getD e 0 + 64 ≤ a) → t.host.get a = (s.merge hv).host.get a)) ∧
    (s.regs.ldgStarted = true → exec (.ldgCtlStart p hv) s = .next s) ∧
    ((s.die d).ldg.retries = some k → (s.die d).ldg.segRetries = none → s.now < (s.die d).ldg.retryAt + 100 * countsPerUs →
      ∀ ok, exec (.ledgerIoRetry d ok) s = .next s) ∧
    ((s.die d).ldg.retries = some k → (s.die d).ldg.segRetries = none → (s.die d).ldg.retryAt + 100 * countsPerUs ≤ s.now →
      (1 < k → exec (.ledgerIoRetry d false) s =
        .next (s.modDie d (fun x => { x with ldg := { x.ldg with retries := some (k - 1), retryAt := s.now } }))) ∧
      (k ≤ 1 → ∃ t, exec (.ledgerIoRetry d false) s = .next t ∧ t.pins.fatal = true ∧ t.pins.healthy = false ∧ t.pins.faultN = false ∧
        (t.die d).ldg.retries = none ∧ (∃ r, r ∈ (t.die d).unacked ∧ r.code = 0x0040) ∧ t.jobs = s.jobs ∧ t.queues = s.queues ∧ t.host = s.host) ∧
      exec (.ledgerIoRetry d true) s = .next
        (((s.modDie d (fun x => { x with ldg := { x.ldg with retries := none, retryAt := s.now } })).orderingRead HostView.quiet d).settleDurable))

/-- The ordering read (R450, R457, R461, R476). LIVE renews the lease of 150 µs and makes everything written before it durable: with one ACCEPT record
written, its job becomes accepted and waits (R449), and no other job changes. A state other than LIVE makes the die reset itself: it is lost
to the package and begins its return to service. At the end of its lease it writes nothing to host memory any more. An error starts three
retries. All this where fabric egress grants the read; what the package then does with what has become durable is `State.settleDurable`. -/
def Obligations.OrderingReadMakesWritesDurable : Prop :=
  ∀ (s g : State) (d q n a : Nat) (hv : HostView) (h b : List Byte), s.healthy d = true → (s.die d).ldg.inUse = true →
    g = (s.merge hv).granted [atEgress d 0] →
    ((s.portOf d).isSome = true → (s.die d).ldg.stopped = false → s.arbOpen [atEgress d 0] = true →
      ((s.merge hv).readHost hv (s.regs.segBase.getD d 0) 64 = some h → field h 5 1 = 0 → (s.die d).ldg.unstable = [(.accept q n 1 0, a, b)] →
        (s.die d).ldg.reclaim = none → (s.die d).ldg.held = [] → s.sup.recovering = [] → s.sup.fenceQueue = [] → s.sup.log = [] →
        (∀ x ∈ s.dies, x.returning = false) → n < serials → (∀ e ∈ s.queues, e.2.moving = none ∧ e.2.recovered = []) → (s.queue q).st = .enabled →
        (∀ i ∈ s.jobs, i.st ≠ .finished) → (∀ i ∈ s.jobs, i.q = q → i.s = n → i.st = .accepting ∧ i.outcome = none ∧ i.suspending = false) →
        ∃ t, exec (.orderingReadComplete d hv) s = .next t ∧ (t.die d).ldg.lease = some (s.now + 150 * countsPerUs) ∧
          (t.die d).ldg.unstable = [] ∧ (∀ j, s.job q n = some j → ∃ k, t.job q n = some k ∧ k.st = .waiting ∧ k.acceptedAt = s.gtc j.owner ∧ k.desc = j.desc) ∧
          (∀ q' n', (q', n') ≠ (q, n) → t.job q' n' = s.job q' n')) ∧
      ((s.merge hv).readHost hv (s.regs.segBase.getD d 0) 64 = some h → field h 5 1 ≠ 0 →
        ∃ t, exec (.orderingReadComplete d hv) s = .next t ∧ t = (g.selfReset d).settleDurable ∧ (t.die d).returning = true ∧ (t.die d).lost = false) ∧
      ((s.merge hv).readHost hv (s.regs.segBase.getD d 0) 64 = none → s.pins.fatal = false → exec (.orderingReadComplete d hv) s =
        .next (g.modDie d (fun x => { x with ldg :=
          if x.ldg.retries.isSome then x.ldg else { x.ldg with retries := some 3, retryAt := s.now } })).settleDurable)) ∧
    (∀ e, (s.die d).ldg.lease = some e →
      (e ≤ s.now → ∃ t, exec (.leaseExpiry d) s = .next t ∧ t.mayWrite d = false ∧
        t = s.modDie d (fun x => { x with ldg := { x.ldg with lease := none } })) ∧
      (s.now < e → exec (.leaseExpiry d) s = .next s))

/-- Peers (R28 to R32, R43, R456, R469 to R471). A die sends heartbeats to the dies it can reach; one that arrives, in the order sent, renews its sender
and ends a presumption; after 50 µs without one a peer is presumed failed; a peer whose liveness word still advances cannot be reached, and
the higher-numbered of the two is lost; one whose word has not advanced for 300 µs is lost and fenced. The word of a die is its GTC as it
advances. When a fence's wait is over every healthy die issues an ordering read (R469 step 5), where their fabric egress grants it, and where
every read succeeds the failed die's segment is recovered. -/
def Obligations.PeersWatchEachOther : Prop :=
  ∀ (s : State) (d a : Nat) (hv : HostView), s.host.wf = true →
    (s.healthy d = true → s.boot.fwReady = true → exec (.heartbeatSend d) s = .next { s with ctrl :=
      (s.ctrl ++ (s.healthyDies.filter (fun e => e ≠ d && (s.spread s.n [d]).contains e)).map (fun e => CtrlMsg.mk d e .heartbeat false)) }) ∧
    (s.healthy d = true → a ≠ d → s.firstCtrl a d = some .heartbeat → s.arbOpen (s.umlinPorts a d 0 0) = true →
      ∃ t, exec (.heartbeat a d) s = .next t ∧
        (a < (s.die d).peers.length → t.peer d a = { s.peer d a with lastBeat := s.now, presumed := none }) ∧
        (∀ e f, (e, f) ≠ (d, a) → t.peer e f = s.peer e f) ∧
        t = { s with dies := t.dies, ctrl := s.ctrl.eraseP (fun m => m.src = a && m.dst = d) }) ∧
    (s.healthy d = true → s.healthy a = true → d ≠ a → a < (s.die d).peers.length →
      (s.boot.fwReady = true → s.anyPort = true → (s.peer d a).lastBeat + 50 * countsPerUs ≤ s.now →
        ((s.peer d a).presumed = none → ∃ t, exec (.heartbeatAbsence d a) s = .next t ∧
          t.peer d a = { s.peer d a with presumed := some s.now, liveSeen := s.livenessWord a } ∧ t = { s with dies := t.dies }) ∧
        ((s.peer d a).presumed.isSome = true → s.livenessWord a ≠ (s.peer d a).liveSeen → s.livenessStale d a = false →
          ∃ t, exec (.heartbeatAbsence d a) s = .next t ∧ (t.die (Max.max d a)).lost = true ∧ s.SamePart t)) ∧
      ((s.peer d a).presumed.isSome = true → (s.die a).ldg.inUse = true → (s.die a).ldg.liveFrom + 300 * countsPerUs ≤ s.now →
        ∃ t, exec (.livenessStall d a) s = .next t ∧ (t.die a).lost = true ∧ t = (s.dropDie a true).issueAll)) ∧
    (s.healthy d = true → (s.die d).ldg.inUse = true → s.mayWrite d = true → s.regs.segBase.getD d 0 + 64 ≤ hostTop →
      s.arbOpen [atEgress d 0] = true →
      ∃ t, exec (.livenessAdvance d) s = .next t ∧ t.livenessWord d = s.gtc d % 2 ^ 64 ∧ (t.die d).ldg.liveFrom = s.now ∧ t.jobs = s.jobs ∧ t.queues = s.queues ∧
        (∀ x, x < s.regs.segBase.getD d 0 ∨ s.regs.segBase.getD d 0 + 64 ≤ x → t.host.get x = s.host.get x)) ∧
    (∀ x w k log g u way, s.sup.fence = some (x, w, log) → s.sup.die = some k → w ≤ s.now →
      way = (s.healthyDies.filter (fun e => (s.die e).ldg.inUse)).map (fun e => atEgress e 0) → g = (s.merge hv).granted way → u = g.fenceReads hv →
      (s.arbOpen way = false → exec (.fenceWaitEnd hv) s = .next ((s.merge hv).queued way)) ∧
      (s.arbOpen way = true → g.fenceRead hv = false → exec (.fenceWaitEnd hv) s = .next u) ∧
      (s.arbOpen way = true → g.fenceRead hv = true → u.sup.die = some k → u.segReadable hv x = true → ∃ t, exec (.fenceWaitEnd hv) s = .next t ∧
        t = ((({ u with sup := { u.sup with fence := none } } : State).recoverDie hv x log).settleDurable).issueAll)) ∧
    (∀ x w log, s.sup.fence = some (x, w, log) → s.now < w → exec (.fenceWaitEnd hv) s = .next s)

/-- Host links and ports (R378 to R380, R400, R406 to R410). A link that goes down and comes back within the limit changes nothing but its port's notes, as
it has trained at most at HPT_MAX_RATE;
past the limit, or on a completion timeout or an uncorrectable error, the port has failed: its work goes on through the other port, or,
with none left, PACKAGE_FATAL is latched. A failed port whose link is trained returns to service when software enables it.
Lanes, Umlin links and reads that fail (R44, R379, R407, R445, R476). Lane repair with 64 lanes changes nothing, with 32 to 63 runs the port at x32 and logs
LANE_DEGRADED, with fewer it fails the port or the link. A lost Umlin link is down at both of its ends, and its loss is logged. A device
read of a RUN's data that fails completes the job MEMORY_ERROR; that of a segment starts three retries. -/
def Obligations.FailedPortsHandOverOrStopThePackage : Prop :=
  (∀ (s : State) (k p rate : Nat) (x32 cache : Bool) (hv : HostView), k < 2 → s.ports.length = 2 →
      ((s.port k).st = .inService → (s.port k).downSince = none → exec (.linkDown k) s = .next (s.modPort k (fun x => { x with downSince := some s.now }))) ∧
      ((s.port k).st = .failed → exec (.linkDown k) s = .next (s.modPort k (fun x => { x with trained := false }))) ∧
      (s.portKilled k = false → rate ≤ 5 →
        ((s.port k).st = .inService → ∃ t, exec (.linkRetrained k rate x32 cache) s = .next t ∧ t.jobs = s.jobs ∧ t.queues = s.queues ∧
          t.port k = { s.port k with trained := true, x32 := x32, rate := Min.min rate s.regs.maxRate,
                                     coherent := (s.port k).cache && !bit s.pins.straps 1, downSince := none } ∧
          ((x32 = false ∨ (s.port k).x32 = true) → t = s.modPort k (fun _ => t.port k)) ∧
          (x32 = true → (s.port k).x32 = false → k < s.n → ∃ r, (t.die k).unacked = (s.die k).unacked ++ [r] ∧ r.code = 0x0023 ∧ r.detail = 32)) ∧
        ((s.port k).st = .failed → exec (.linkRetrained k rate x32 cache) s = .next (s.modPort k (fun x =>
          { x with trained := true, x32 := x32, cache := cache, rate := Min.min rate s.regs.maxRate,
                   coherent := cache && !bit s.pins.straps 1 })))) ∧
      ((s.port k).st = .inService → ∀ c ∈ [(Instr.completionTimeout k hv, 2), (.linkError k hv, 3)] ++
          (if (s.port k).downSince.any (fun t => decide (t + s.regs.retrainLimit * countsPerUs ≤ s.now)) then [(Instr.retrainLimitExpiry k hv, 1)] else []),
        ∃ t, exec c.1 s = .next t ∧ t = (s.merge hv).failPort k c.2 hv ∧ (t.port k).st = .failed ∧ (t.port k).trained = decide (c.2 = 2) ∧
          (t.port k).lines = [] ∧ (t.port k).vec = [] ∧ (t.port (1 - k)).st = (s.port (1 - k)).st ∧ t.jobs = s.jobs ∧
          ((s.port (1 - k)).st ≠ .inService → t.pins.fatal = true ∧ t.pins.healthy = false ∧ t.pins.faultN = false)) ∧
      (s.portUp p = true → (s.port k).st = .failed → (s.port k).trained = true → ∃ t, exec (.portEnable p k) s = .next t ∧
        (t.port k).st = .inService ∧ (t.port k).downSince = none ∧
        ((∀ j ∈ s.jobs, j.st ≠ .finished) → (∀ x ∈ s.dies, x.ldg.held = []) → t.jobs = s.jobs)) ∧
      (∀ v c t0, s.portUp k = true → (s.port k).vec.get v = some (c, t0) → t0 + s.regs.vecHoldoff v ≤ s.now →
        exec (.msixHoldoff k v) s = .next ((s.modPort k (fun x => { x with vec := x.vec.erase v })).sendVector v))) ∧
  (∀ (s : State) (d k lanes q n : Nat),
      (s.portUp k = true → (64 ≤ lanes → exec (.laneRepair true d k lanes) s = .next s) ∧
        (32 ≤ lanes → lanes < 64 → ∃ t, exec (.laneRepair true d k lanes) s = .next t ∧ t.port k = { s.port k with x32 := true } ∧
          (k < s.n → ∃ r, (t.die k).unacked = (s.die k).unacked ++ [r] ∧ r.code = 0x0023 ∧ r.detail = 32) ∧ t.jobs = s.jobs ∧ t.queues = s.queues) ∧
        (lanes < 32 → exec (.laneRepair true d k lanes) s = .next (s.failPort k 1 HostView.quiet))) ∧
      (s.healthy d = true → k < 4 → (s.die d).linksUp.getD k false = true →
        (64 ≤ lanes → exec (.laneRepair false d k lanes) s = .next s) ∧
        (32 ≤ lanes → lanes < 64 → linkPeer s.n d k ≠ (d, k) → (s.die d).lanesUmlin.length = 4 → ∃ t, exec (.laneRepair false d k lanes) s = .next t ∧
          (t.die d).lanesUmlin.getD k 0 = 32 ∧ (t.die d).linksUp = (s.die d).linksUp ∧ (∃ r, r ∈ (t.die d).unacked ∧ r.code = 0x0023) ∧ t.jobs = s.jobs) ∧
        (lanes < 32 → exec (.laneRepair false d k lanes) s = exec (.umlinLinkLost d k) s) ∧
        (∃ t, exec (.umlinLinkLost d k) s = .next t ∧ t = s.loseLink d k false ∧ s.SamePart t)) ∧
      (∀ j, s.job q n = some j → j.st = .running → j.kind = 1 → j.cancelBy = none → ∃ t, exec (.hostReadError d 0 q n) s = .next t ∧ s.Ends q n outMemory t) ∧
      (s.healthy d = true → (s.die d).ldg.inUse = true → (s.die d).ldg.retries = none → exec (.hostReadError d 3 q n) s =
        .next (s.modDie d (fun x => { x with ldg := { x.ldg with retries := some 3, retryAt := s.now } }))) ∧
      (∀ i, s.watchPort q = some i → (s.queue q).st = .enabled → exec (.hostReadError d 2 q n) s = .next (s.logErr i 0x0004 (unitCode 11 i) q)))

/-! ### Units, tests, injection, memory (chapters 10, 16, 17, 18) -/

/-- Test slices and intervals (R594, R598, R604 to R606). In the initial pass a slice starts on a unit not yet tested while no other runs
and no stage, declared window or job's window stands in the way, a GQU's with the test lattice of its slice built (R595); a slice that
passes is kept, and the last one completes the test of its unit; a lapsed interval is logged and starts anew, and the unit leaves the
eligible set only where TNK_CTL asks for it. No job changes, where no remapping waits for the pass to end (R631). -/
def Obligations.TestSlicesRunAndPass : Prop :=
  ∀ (s : State) (d u slice t0 : Nat), 
    (s.healthy d = true → s.boot.fwReady = true → dieUnits.contains u = true → ((s.die d).unit u).running = none → ((s.die d).unit u).failed = false →
      ((s.die d).unit u).suspect = none → slice < slicesOf u → ((s.die d).unit u).passed.contains slice = false → (s.die d).passDone = false →
      ((s.die d).unit u).since = none → (s.die d).runningUnits = [] → (u / 4096 = 5 → s.bankFree d u = true) →
      (u / 4096 ≠ 6 → ((s.die d).cluster (unitCluster u)).off = false) → s.domainBusy d u = false → s.windowsClear d u = true →
      s.jobWindowCovers d u = false → (u / 4096 = 6 → s.arbOpen [atPortB d ((s.die d).latticeOf (u % 4096)) 2] = true) →
      ∃ t, exec (.tinkerSliceStart d u slice) s = .next t ∧ (t.die d).unit u = { (s.die d).unit u with running := some (slice, s.gtc d) } ∧
        (∀ v, v ≠ u → (t.die d).unit v = (s.die d).unit v) ∧ t.jobs = s.jobs ∧ t.queues = s.queues ∧ t.host = s.host ∧
        (u / 4096 ≠ 6 → t = s.modDie d (fun x => { x with units := (t.die d).units })) ∧
        (u / 4096 = 6 → (s.die d).latticeOf (u % 4096) ∈ (t.die d).lattices)) ∧
    (testUnitOf u = some u → d < s.n → ((s.die d).unit u).running = some (slice, t0) → (∀ x ∈ s.dies, x.spares.remap = none ∧ x.spares.waiting = []) →
      ∃ t, exec (.tinkerSliceEnd d u true 0) s = .next t ∧
      ((t.die d).unit u).running = none ∧ t.jobs = s.jobs ∧ t.queues = s.queues ∧
      ((addTo ((s.die d).unit u).passed slice).length < slicesOf u → ((t.die d).unit u).passed = addTo ((s.die d).unit u).passed slice) ∧
      (slicesOf u ≤ (addTo ((s.die d).unit u).passed slice).length →
        ((t.die d).unit u).passed = [] ∧ ((t.die d).unit u).tested = true ∧ ((t.die d).unit u).overdue = false ∧ ((t.die d).unit u).removed = false)) ∧
    (testUnitOf u = some u → ((s.die d).unit u).running = some (slice, t0) → ∀ diff, exec (.tinkerSliceEnd d u false diff) s =
      .next ((s.sliceFails d u slice diff).zeroBank d u).settlePass.settleReturns.settleClusters.issueAll) ∧
    (s.healthy d = true → s.regs.tnkInitDone = true → dieUnits.contains u = true → ((s.die d).unit u).failed = false →
      ((s.die d).unit u).since = some t0 → t0 + s.regs.tnkInterval.getD (testKind u) 0 ≤ s.gtc d → (u / 4096 = 5 → s.bankFree d u = true) →
      (u / 4096 ≠ 6 → ((s.die d).cluster (unitCluster u)).off = false) →
      ∃ t, exec (.testOverdue d u) s = .next t ∧ (t.die d).unit u = { (s.die d).unit u with
          since := some (s.gtc d), overdue := true, removed := s.regs.tnkOverdue || ((s.die d).unit u).removed } ∧
        (∃ r, r ∈ (t.die d).unacked ∧ r.code = 0x0025 ∧ r.unit = u) ∧ t.jobs = s.jobs ∧ t.queues = s.queues ∧ t.host = s.host)

/-- Faults of units (R156, R375 to R377, R574 to R577, R608, R753). A column that fails is removed from its array while fewer than eight are; a
failure found while another is being remapped waits for it (R631); a partition whose one bad
copy is restored goes on, one that differs and has not been read stays so, and else its die is lost; a suspect unit that passes its test is
suspect no more; a lock held too long is released, counted and logged, and but for locks of a World Lattice write and of the Vault's
attestation, whose owners start again, no job changes. -/
def Obligations.FaultyUnitsAreReplacedOrLost : Prop :=
  ∀ (s : State) (d u p word bits c col : Nat) (one : Bool), s.healthy d = true →
    (p < 4 → exec (.partitionMismatch d p one word bits true) s = .next (s.modPart d p (fun x => { x with differs := some (word, bits) })) ∧
      exec (.partitionMismatch d p true word) s =
        .next ((s.modPart d p (fun x => { x with differs := none })).logErr d 0x000B (unitCode 12 p) word) ∧
      ∃ t, exec (.partitionMismatch d p false word) s = .next t ∧ (t.die d).lost = true ∧ s.SamePart t) ∧
    (c < 5 → col < 528 → (s.die d).spares.columns.length = 5 → ((s.die d).spares.columns.getD c []).contains col = false →
      ((s.die d).spares.columns.getD c []).length < 8 → (s.die d).remapping = false → ∀ kind, 1 ≤ kind → kind ≤ 4 →
      ∃ t, exec (.unitFault d (unitCode 2 (529 * c + col)) kind) s = .next t ∧
        (t.die d).spares.columns.getD c [] = addTo ((s.die d).spares.columns.getD c []) col ∧
        (∀ b, b ≠ c → (t.die d).spares.columns.getD b [] = (s.die d).spares.columns.getD b []) ∧ ((t.die d).unit (arrayUnit c)).removed = true ∧
        (∃ r, r ∈ (t.die d).unacked ∧ r.code = 0x0019 ∧ r.detail = kind) ∧ t.jobs = s.jobs ∧ t.queues = s.queues) ∧
    (∀ kind, u / 4096 ≠ 0 → u / 4096 ≠ 10 → u / 4096 ≠ 11 → 1 ≤ kind → kind ≤ 4 → ∃ t, exec (.unitFault d u kind) s = .next t ∧ s.SamePart t ∧
      t = ((s.logErr d 0x0019 u kind).failUnit d u 0x0019).issueAll) ∧
    (∀ kind, u / 4096 ≠ 0 → u / 4096 ≠ 10 → u / 4096 ≠ 11 → u / 4096 ≠ 15 → 1 ≤ kind → kind ≤ 4 → (s.die d).remapping = true →
      ∃ t, exec (.unitFault d u kind) s = .next t ∧ (t.die d).spares.waiting = (s.die d).spares.waiting ++ [(u, 0x0019, false, false)] ∧
        t.jobs = s.jobs ∧ t.queues = s.queues ∧ s.SamePart t) ∧
    (testUnitOf u = some u → ((s.die d).unit u).suspect = some 0 → (∀ x ∈ s.dies, x.spares.remap = none ∧ x.spares.waiting = []) →
      ∃ t, exec (.suspectTest d u true) s = .next t ∧ ((t.die d).unit u).suspect = none ∧
      ((t.die d).unit u).tested = true ∧ ((t.die d).unit u).removed = false ∧ t.jobs = s.jobs ∧ t.queues = s.queues) ∧
    (∀ o t0, c < 64 → ((s.die d).arb c).lock = some (o, t0) → ((s.die d).arb c).lockMax ≤ (if c < 32 then 2 else 4) * (s.now - t0) →
      ∃ t, exec (.lockMaxHold d c) s = .next t ∧ ((t.die d).arb c).lock = none ∧
        ((t.die d).arb c).orphans = Min.min (((s.die d).arb c).orphans + 1) 65535 ∧ (∃ r, r ∈ (t.die d).unacked ∧ r.code = 0x0016) ∧
        (worldOwners ≤ o → o ≠ vaultOwner 2 → t.jobs = s.jobs ∧ t.queues = s.queues ∧ t.host = s.host))

/-- Fault injection (R648 to R651). Where injection is available, arming a slot for its time stores the fields written and arms it with its count, at least one;
in FIELD with a group-0 queue enabled it is refused and INJ_STATUS says so; a write without ARM disarms; a write to another die's window
passes the Umlin ports on the way (R386). At its time a slot fires: an injection on stored bits is spent at once, one that waits for an event is live. No job changes by it. -/
def Obligations.InjectionIsArmedAndFires : Prop :=
  ∀ (s g : State) (p d i v : Nat) (y : InjSlot), (s.die d).inj[i]? = some y → i < 8 → d < s.n → (s.die d).lost = false →
    (s.takes p = true → s.injAvailable d = true → s.arbOpen (s.overUmlin p d 2 d) = true → g = s.granted (s.overUmlin p d 2 d) →
      (bit v 16 = true → bit v 17 = true → y.arm = false →
        ((s.lifecycle ≠ 2 ∨ ∀ e ∈ s.queues, e.2.st = .enabled → e.2.entry.group ≠ 0) → ∃ t, exec (.injectArm p d i v) s = .next t ∧
          (t.die d).inj[i]? = some { y with target := v % 16, op := v / 16 % 16, count := v / 256 % 256, atGtc := true, charge := bit v 18,
                                            arm := true, live := false, left := Max.max 1 (v / 256 % 256) } ∧
          (∀ k, k ≠ i → (t.die d).inj[k]? = (s.die d).inj[k]?) ∧ t = g.modDie d (fun x => { x with inj := (t.die d).inj })) ∧
        (s.lifecycle = 2 → (∃ e ∈ s.queues, e.2.st = .enabled ∧ e.2.entry.group = 0) → ∃ t, exec (.injectArm p d i v) s = .next t ∧
          (t.die d).injRefused = true ∧ ((t.die d).inj.getD i InjSlot.reset).arm = false ∧ t.jobs = s.jobs)) ∧
      (bit v 16 = false → ∃ t, exec (.injectArm p d i v) s = .next t ∧ ((t.die d).inj.getD i InjSlot.reset).arm = false ∧ t.jobs = s.jobs ∧
        t.queues = s.queues ∧ t.host = s.host)) ∧
    ((s.die d).healthy = true → y.arm = true → y.atGtc = true → y.live = false → y.at_ ≤ s.gtc d →
      (y.target = 3 ∨ y.target = 5 → ∃ t, exec (.atGtcInjection d i) s = .next t ∧ ((t.die d).inj.getD i InjSlot.reset).arm = false ∧
        t.jobs = s.jobs ∧ t.queues = s.queues ∧ t.host = s.host) ∧
      (y.target = 4 ∨ y.target = 6 ∨ y.target = 7 → ∃ t, exec (.atGtcInjection d i) s = .next t ∧
        (t.die d).inj[i]? = some { y with live := true } ∧ t.jobs = s.jobs ∧ t.queues = s.queues ∧ t.host = s.host))

/-- A line of HBM read through its codes (R363 to R368): with nothing wrong it stays as it is; errors within the correction depth are corrected, the line is
written back with its check bytes and CORRECTED is logged once a scrub period; beyond it a line of the job pool without a copy is
poisoned. A line that waits for a copy takes it when it arrives. Bytes written back to a line of the world region or the warm-start store
go to the structures kept there. The scrubber reads a line once in its period, and drops the write-back of one
that an operation wants. Reads wait at a pseudo-channel's arbiter that is frozen or locked.
Banks and DMA (R350, R353, R354). The banks of an idle cluster that holds regions go to Retention, those of one that holds none are Off; a bank leaves either
when its exit ends; a DMA request that has waited 4,096 ACLK stops new operations of its cluster. -/
def Obligations.HbmLinesAreCorrectedOrPoisoned : Prop :=
  (∀ (s : State) (d pc line sev : Nat) (errs : List (Nat × Nat)), s.healthy d = true → s.boot.memReady = true →
      (s.die d).poison.contains (pc, line) = false → (∀ i ∈ (s.die d).inj, i.arm = false) → s.arbOpen [atPc d pc 2] = true →
      ((s.die d).repairs.any (fun e => decide (e.1 = (pc, line))) = false →
        (rsDecode s.regs.corrDepth (flipSymbols ((s.die d).codeword pc line) errs) = .clean →
          ∃ t, exec (.hbmReadOutcome d pc line errs sev none) s = .next t ∧ (t.die d).hbm = (s.die d).hbm ∧ (t.die d).poison = (s.die d).poison ∧
            (t.die d).unacked = (s.die d).unacked ∧ t.jobs = s.jobs ∧ t.host = s.host) ∧
        (∀ w, rsDecode s.regs.corrDepth (flipSymbols ((s.die d).codeword pc line) errs) = .corrected w → (s.die d).corrLogged.contains (pc, line) = false →
          ∃ t r, exec (.hbmReadOutcome d pc line errs sev none) s = .next t ∧
            (s.inStructures (lineOffset (pc, line)) = false → (t.die d).hbm = ((s.die d).writeLine pc line (w.take 64)).hbm) ∧
            (t.die d).corrLogged = (s.die d).corrLogged ++ [(pc, line)] ∧ (t.die d).unacked = (s.die d).unacked ++ [r] ∧ r.code = 0x0002 ∧
            r.detail = 64 * line % 2 ^ 64 ∧ t.jobs = s.jobs ∧ t.host = s.host) ∧
        (rsDecode s.regs.corrDepth (flipSymbols ((s.die d).codeword pc line) errs) = .uncorrectable → s.regs.poolBase ≤ lineOffset (pc, line) →
          lineOffset (pc, line) < s.regs.traceBase → ((s.die d).poison.filter (fun m => decide (m.1 = pc))).length < 256 →
          ∃ t, exec (.hbmReadOutcome d pc line errs sev none) s = .next t ∧ (t.die d).poison = (s.die d).poison ++ [(pc, line)] ∧
            (t.die d).hbm = (s.die d).hbm ∧ t.jobs = s.jobs ∧ t.host = s.host) ∧
        (((s.scrubTurn d).die d).scrubbed.contains (pc, line) = true → exec (.scrub d pc line errs sev) s = .next (s.scrubTurn d)) ∧
        (((s.scrubTurn d).die d).scrubbed.contains (pc, line) = false →
          (rsDecode s.regs.corrDepth (flipSymbols ((s.die d).codeword pc line) errs) = .clean →
            ∃ t, exec (.scrub d pc line errs sev) s = .next t ∧ (pc, line) ∈ (t.die d).scrubbed ∧ (t.die d).hbm = (s.die d).hbm ∧
              (t.die d).unacked = (s.die d).unacked ∧ t.jobs = s.jobs ∧ t.host = s.host) ∧
          (∀ w, rsDecode s.regs.corrDepth (flipSymbols ((s.die d).codeword pc line) errs) = .corrected w → s.lineWanted d (pc, line) = false →
            ∃ t r, exec (.scrub d pc line errs sev) s = .next t ∧ (pc, line) ∈ (t.die d).scrubbed ∧
              (s.inStructures (lineOffset (pc, line)) = false → (t.die d).hbm = ((s.die d).writeLine pc line (w.take 64)).hbm) ∧ (t.die d).unacked = (s.die d).unacked ++ [r] ∧ r.code = 0x0002 ∧
              t.jobs = s.jobs ∧ t.host = s.host))) ∧
      (∀ job e, (s.die d).repairs.find? (fun k => decide (k.1 = (pc, line))) = some ((pc, line), job) → s.copyOf d (pc, line) = some e →
        ∃ t, exec (.hbmRepaired d pc line) s = .next t ∧ (∀ k ∈ (t.die d).repairs, k.1 ≠ (pc, line)) ∧
          (s.inStructures (lineOffset (pc, line)) = false →
            (t.die d).hbm = ((s.die d).writeLine pc line ((s.die e).lineData s.regs.corrDepth pc line)).hbm) ∧ t.jobs = s.jobs ∧ t.host = s.host)) ∧
  (∀ (s : State) (d c b : Nat),
      (s.healthy d = true → s.clusterBusy d c = false →
        (s.clusterHeld d c = false → s.regs.offIdle * countsPerUs ≤ s.now - ((s.die d).cluster c).idleSince → ∃ t, exec (.bankIdle d c) s = .next t ∧
          (∀ k, (s.die d).clusters[c]? = some k → (t.die d).clusters[c]? = some { k with banks := List.replicate 66 2 }) ∧
          (∀ e, e ≠ c → (t.die d).clusters[e]? = (s.die d).clusters[e]?) ∧ t.jobs = s.jobs ∧ t.host = s.host) ∧
        (s.clusterHeld d c = true → s.regs.retIdle * countsPerUs ≤ s.now - ((s.die d).cluster c).idleSince → ∃ t, exec (.bankIdle d c) s = .next t ∧
          (∀ i, i ∈ (s.die d).spares.mappedBanks c → ((s.die d).cluster c).banks[i]? = some 0 → ((t.die d).cluster c).banks[i]? = some 1) ∧
          (∀ i, i ∉ (s.die d).spares.mappedBanks c → ((t.die d).cluster c).banks[i]? = ((s.die d).cluster c).banks[i]?) ∧
          t = s.modDie d (fun x => { x with clusters := (t.die d).clusters }))) ∧
      (((s.die d).cluster c).banks.getD b 2 = 3 → ∃ t, exec (.bankExit d c b) s = .next t ∧
        ((t.die d).cluster c).banks = ((s.die d).cluster c).banks.set b 0 ∧ t = s.modDie d (fun x => { x with clusters := (t.die d).clusters })) ∧
      (∀ r t0, s.healthy d = true → (r, t0) ∈ ((s.die d).cluster c).dmaWaits → t0 + 1024 ≤ s.now →
        ∃ t, exec (.dmaAge d c) s = .next t ∧ ((t.die d).cluster c).dmaBlock = true ∧ t = s.modDie d (fun x => { x with clusters := (t.die d).clusters })))

/-! ### Waits, deadlines, sync objects, flows, dispatch (chapters 12 and 14) -/

/-- Waits and deadlines (R58, R487 to R490, R503, R518). An accepted job whose wait condition holds becomes READY in its group's list, or waits for its flow; one whose wait has
not held in time ends TIMEOUT, one whose deadline passes before its dispatch ends EXPIRED, a stage whose condition has not held in time
ends its job; a GTC binding due by the end of the time counts, and an earlier deadline makes it EXPIRED. A GTC binding whose count has come
raises its flag and lowers none. -/
def Obligations.WaitsEndInReadyTimeoutOrExpiry : Prop :=
  ∀ (s : State) (q n : Nat) (j : Job), s.job q n = some j → j.st ≠ .accepting → j.st ≠ .finished →
    (j.met = false → j.dispatched = false → j.st = .waiting → j.waitHolds = true →
      (j.flow = 0 → j.moved = false → j.owner < s.n → (s.die j.owner).parts.length = 4 → (∀ x ∈ (s.die j.owner).parts, x.ready.length = 16) → s.group q < 16 →
        ∃ t, exec (.waitMet q n) s = .next t ∧ t.job q n = some { j with met := true, st := .ready, readyAt := some s.now } ∧
          (q, n) ∈ (t.part j.owner (partOf q)).ready.getD (s.group q) [] ∧ (∀ q' n', (q', n') ≠ (q, n) → t.job q' n' = s.job q' n') ∧
          t.queues = s.queues ∧ t.host = s.host) ∧
      (j.flow ≠ 0 → ∃ t, exec (.waitMet q n) s = .next t ∧ t.job q n = some { j with met := true, st := .flowWait } ∧
        (∀ q' n', (q', n') ≠ (q, n) → t.job q' n' = s.job q' n') ∧ t.queues = s.queues ∧ t.host = s.host)) ∧
    (∀ e, e = j.acceptedAt + j.f 4 4 → j.met = false → j.dispatched = false → (j.dueBy e).waitHolds = false → e ≤ s.gtc j.owner →
      ∃ t, exec (.waitTimeout q n) s = .next t ∧
        s.Ends q n (if j.f 0x18 8 ≠ 0 ∧ j.f 0x18 8 < e then outExpired else outTimeout 0xFF) t) ∧
    (j.dispatched = false → j.f 0x18 8 ≠ 0 → j.f 0x18 8 < s.gtc j.owner → ∃ t, exec (.deadlineExpiry q n) s = .next t ∧ s.Ends q n outExpired t) ∧
    (∀ r p st rec e, s.runJob q n = some (j, r, p) → p.stages[st]? = some rec → (r.stage st).st = .pending → j.cancelBy = none →
      e = (r.stage st).since + (if rec.timeout = 0 then j.f 4 4 else rec.timeout) → stageReady (j.dueBy e) r p st = false → e ≤ s.gtc j.owner →
      ∃ t, exec (.stageTimeout q n st) s = .next t ∧ s.Ends q n (outTimeout st) t) ∧
    (j.st ≠ .running → ∃ t k, exec (.gtcBinding q n) s = .next t ∧ t.job q n = some k ∧ k.st = j.st ∧
      (∀ b ∈ j.binds, b.source = 1 → b.value ≤ s.gtc j.owner → bit k.flags b.flag = true) ∧ (∀ f, bit j.flags f = true → bit k.flags f = true) ∧
      (∀ q' n', (q', n') ≠ (q, n) → t.job q' n' = s.job q' n') ∧ t = { s with jobs := t.jobs })

/-- Sync objects (R465, R489, R495 to R497, R615). No arbiter on the way holding the message: a watch marks every SYNC binding of its job, with a notice where the object already holds, and the holder's
notices are sent; one that arrives, after those sent before it (R43), raises its flags on the jobs of its die, running ones go on; a surviving holder copies an object, or a channel, to the holders its number now has. -/
def Obligations.NoticesRaiseFlags : Prop :=
  ∀ (s : State) (q n o d : Nat),
    (∀ j l, s.job q n = some j → j.st ≠ .accepting → j.st ≠ .finished →
      l = (((j.binds.filter (fun b => b.source = 0)).map (·.object)).eraseDups).flatMap (fun o => s.overUmlin j.owner (s.holdersOf o).1 0 o) →
      s.arbOpen l = true → ∃ t, exec (.syncWatch q n) s = .next t ∧
      t.job q n = some { j with binds := j.binds.map (fun b => if b.source = 0 then { b with watched := true, notice := b.notice || s.syncHolds b } else b) } ∧
      (∀ q' n', (q', n') ≠ (q, n) → t.job q' n' = s.job q' n') ∧ t = { s.granted l with jobs := t.jobs, ctrl := t.ctrl } ∧
      ∃ ms, t.ctrl = s.ctrl ++ ms ∧ ∀ m ∈ ms, ∃ o, m.body = .notify o) ∧
    (∀ h l g, h = (s.holdersOf o).1 → (∀ j ∈ s.jobs, j.st ≠ .running) →
      ((∀ m ∈ s.ctrl, m.body ≠ .notify o) ∧ l = s.overUmlin h d 0 o ∧ g = s.granted l ∨
        h ≠ d ∧ s.firstCtrl h d = some (.notify o) ∧ l = s.umlinPorts h d 0 0 ∧ g = (s.granted l).takeCtrl h d) → s.arbOpen l = true →
      ∃ t, exec (.syncNotify o d) s = .next t ∧ t = { g with jobs := t.jobs } ∧
      (∀ j, s.job q n = some j → j.owner = d → j.st ≠ .accepting → j.st ≠ .finished → ∃ k, t.job q n = some k ∧ k.st = j.st ∧
        (∀ b ∈ j.binds, b.source = 0 → b.object = o → b.watched = true → b.notice = true → bit k.flags b.flag = true) ∧
        (∀ b ∈ k.binds, b.source = 0 → b.object = o → b.watched = true → b.notice = false)) ∧
      (∀ j, s.job q n = some j → j.owner ≠ d → t.job q n = some j)) ∧
    ((s.holdersOf o).1 ≠ d → (∃ m ∈ s.ctrl, m.src = (s.holdersOf o).1 ∧ m.dst = d ∧ m.body = .notify o) →
      s.firstCtrl (s.holdersOf o).1 d ≠ some (.notify o) → exec (.syncNotify o d) s = .next s) ∧
    (∀ x, s.syncs.get o = some x → x.exposed = true → (s.healthy x.holders.1 = true ∨ s.healthy x.holders.2 = true) →
      exec (.syncHolderCopy o) s = .next { s with syncs := s.syncs.insert o { x with exposed := false, holders := s.holdersOf o } }) ∧
    (∀ y, s.syncs.get o = none → s.chans.get o = some y → y.exposed = true → (s.healthy y.holders.1 = true ∨ s.healthy y.holders.2 = true) →
      exec (.syncHolderCopy o) s = .next { s with chans := s.chans.insert o { y with exposed := false, holders := s.holdersOf o } })

/-- Atomic flows (R498 to R501). A job that waits for its flow asks once, with its time; a free flow goes to the request first by time, then queue, then
serial, and to no other while it is held; its job becomes READY; no arbiter on the way holds the message. A new home has the requests in that order. -/
def Obligations.FlowsAreGrantedInOrder : Prop :=
  ∀ (s : State) (q n f : Nat),
    (∀ j, s.job q n = some j → j.st ≠ .accepting → j.st ≠ .finished → j.met = true → j.dispatched = false → j.flow = f → f ≠ 0 →
      (s.flowState f).holder ≠ some (q, n) → (∀ w ∈ (s.flowState f).waiting, (w.1, w.2.1) ≠ (q, n)) →
      s.arbOpen (s.overUmlin j.owner (s.holderAt f) 0 f) = true →
      ∃ t, exec (.flowReq q n) s = .next t ∧ t.flowState f = { s.flowState f with waiting := (s.flowState f).waiting ++ [(q, n, s.gtc j.owner)] } ∧
        (∀ g, g ≠ f → t.flowState g = s.flowState g) ∧ t.jobs = s.jobs ∧ t.queues = s.queues ∧ t.host = s.host) ∧
    (∀ w, (s.flowState f).holder = none → (s.flowState f).lostHome = false → w ∈ (s.flowState f).waiting →
      (∀ v ∈ (s.flowState f).waiting, v ≠ w → flowBefore w v = true) →
      (∀ j, s.job w.1 w.2.1 = some j → s.arbOpen (s.overUmlin (s.holderAt f) j.owner 0 f) = true) → ∃ t, exec (.flowGrant f) s = .next t ∧
        (t.flowState f).holder = some (w.1, w.2.1) ∧ (t.flowState f).waiting = (s.flowState f).waiting.filter (fun v => v ≠ w) ∧
        (∀ g, g ≠ f → t.flowState g = s.flowState g) ∧ (∀ j, s.job w.1 w.2.1 = some j → j.st = .flowWait →
          t.job w.1 w.2.1 = some { j with st := .ready, readyAt := some s.now }) ∧
        (∀ q' n', (q', n') ≠ (w.1, w.2.1) → t.job q' n' = s.job q' n')) ∧
    ((s.flowState f).holder.isSome = true ∨ (s.flowState f).lostHome = true → exec (.flowGrant f) s = .next s) ∧
    ((s.flowState f).lostHome = true → ∃ t, exec (.flowHomeRebuild f) s = .next t ∧ (t.flowState f).lostHome = false ∧
      (t.flowState f).holder = (s.flowState f).holder ∧ (∀ w, w ∈ (t.flowState f).waiting ↔ w ∈ (s.flowState f).waiting) ∧
      (t.flowState f).waiting.Pairwise (fun a b => flowBefore b a = false) ∧ t = { s with flows := t.flows })

/-- NEXT_DISPATCH (R483, R504 to R507, R511). One decision per partition at a time: with none made at this time and no DIVERSE stage waiting, it tries the job at the head of group 0 first: one dispatched or ended opens the
other groups, one that waits closes them. A NOP or control job within its deadline is always dispatched: it runs and leaves the ready
lists. With group 0 empty and its group in turn, the same of another group, whose deficit falls by one. A reservation is granted to one
job at a time, and only for a die that its placement uses. -/
def Obligations.GroupZeroIsDispatchedFirst : Prop :=
  ∀ (s : State) (d p q n : Nat) (hv : HostView) (j : Job), s.healthy d = true → s.job q n = some j → j.owner = d → partOf q = p →
    ((s.part d p).decided = some s.now → exec (.nextDispatch d p hv) s = .next s) ∧
    (∀ v, (s.die d).passDone = true → s.pins.fatal = false → (s.part d p).differs = none → (∀ i ∈ s.jobs, (i.run.map (·.waitsDiverse)) ≠ some true) →
      (s.part d p).decided ≠ some s.now → v = (s.merge hv).modPart d p (fun x => { x with decided := some s.now }) →
      ((s.part d p).head 0 = some (q, n) →
        (∀ u, v.attempt hv q n = (.waits, u) → ∃ t, exec (.nextDispatch d p hv) s = .next t ∧
          t = u.modPart d p (fun x => { x with wait0 := true })) ∧
        (∀ u, v.attempt hv q n = (.completed, u) → ∃ t, exec (.nextDispatch d p hv) s = .next t ∧
          t = u.modPart d p (fun x => { x with wait0 := false })) ∧
        (∀ u, v.attempt hv q n = (.dispatched, u) → ∃ t, exec (.nextDispatch d p hv) s = .next t ∧
          t = (u.modPart d p (fun x => { x with wait0 := false })).noteGap d p) ∧
        (j.kind ≠ 1 → j.kind ≠ 6 → (j.f 0x18 8 = 0 ∨ s.gtc d ≤ j.f 0x18 8) → ∃ t k, exec (.nextDispatch d p hv) s = .next t ∧ t.job q n = some k ∧
          k.st = .running ∧ k.dispatched = true ∧ k.phase = 0 ∧ k.order = s.dispatchCount + 1 ∧ k.desc = j.desc ∧
          t.dispatchCount = s.dispatchCount + 1 ∧ (∀ x ∈ t.dies, ∀ y ∈ x.parts, ∀ l ∈ y.ready, (q, n) ∉ l) ∧ (t.part d p).wait0 = false ∧
          (∀ q' n', (q', n') ≠ (q, n) → t.job q' n' = s.job q' n') ∧ t.queues = s.queues)) ∧
      (∀ g, (s.part d p).head 0 = none → (s.part d p).cur = g → 1 ≤ g → g ≤ 15 → (s.part d p).head g = some (q, n) → (s.part d p).deficit.length = 16 →
        j.kind ≠ 1 → j.kind ≠ 6 → (j.f 0x18 8 = 0 ∨ s.gtc d ≤ j.f 0x18 8) →
        ∃ t k, exec (.nextDispatch d p hv) s = .next t ∧ t.job q n = some k ∧ k.st = .running ∧ k.dispatched = true ∧
          (t.part d p).deficit.getD g 0 = (if (s.part d p).deficit.getD g 0 = 0 then s.regs.weight.getD g 1
            else Min.min ((s.part d p).deficit.getD g 0) (s.regs.weight.getD g 1)) - 1 ∧
          (∀ q' n', (q', n') ≠ (q, n) → t.job q' n' = s.job q' n'))) ∧
    (∀ e, s.healthy e = true → s.asks j = true →
      (s.reservedElse q n e = false → (s.touches j).contains e = true → ∃ t, exec (.reservationRequest e q n) s = .next t ∧ (q, n) ∈ (t.die e).reserved ∧
        t = s.modDie e (fun x => { x with reserved := (t.die e).reserved })) ∧
      (s.reservedElse q n e = true ∨ (s.touches j).contains e = false → ∃ t, exec (.reservationRequest e q n) s = .next t ∧
        (∀ x ∈ t.dies, (q, n) ∉ x.reserved) ∧
        t = { s with dies := t.dies }))

/-! ### Plans and worlds (chapters 2, 5 and 6) -/

/-- LOAD_PLAN and DROP_PLAN (R76 to R87), with no drop waiting on the slot and no arbiter on the way holding the step. A load takes a FREE slot; one held by another is refused with SLOT_BUSY; the
image is checked, then its signature, then the rest of its structure, then its weights and the resources; each refusal leaves the slot FREE and
ends the job MALFORMED; the last step makes the slot READY. A drop waits for the pins to go and leaves the slot FREE. -/
def Obligations.PlanLoadsGoStepByStep : Prop :=
  ∀ (s : State) (q n i : Nat) (j : Job) (hv : HostView), s.waitingDrops i = [] →
    (s.inPhase q n 2 0 = some j → j.f 0x40 1 = i →
      ((s.planSlot i).st = .free → ∃ t, exec (.loadPlan q n) s = .next t ∧
        t.planSlot i = { PlanSlot.empty with st := .loading, owner := (q, n), progress := 1 } ∧ (∀ k, k ≠ i → t.planSlot k = s.planSlot k) ∧
        (∃ k, t.job q n = some k ∧ k.phase = 1 ∧ k.st = .running) ∧ t.host = s.host ∧ t.queues = s.queues) ∧
      ((s.planSlot i).st ≠ .free → (s.planSlot i).owner ≠ (q, n) → ∃ (t u : State), exec (.loadPlan q n) s = .next t ∧
        u = (s.sealOther j (zeros 64) (zeros 64) [] false).writeReport j (some (LoadFault.at_ 1 noIndex noOffset)) 0 ∧
        u.Ends q n (refusedLoad (LoadFault.at_ 1 noIndex noOffset)) t ∧ t.planSlot i = s.planSlot i)) ∧
    (s.loader i 1 = some j → s.arbOpen [atEgress j.owner 2] = true → (s.merge hv).readHost hv (j.f 0x48 8) (j.f 0x50 8) = none →
      ∃ (t u : State), exec (.planImageFetched i hv) s = .next t ∧ u = ((s.merge hv).granted [atEgress j.owner 2]).freeSlot i ∧ u.Ends j.q j.s outMemory t ∧ (t.planSlot i).st = .free) ∧
    (∀ img, s.loader i 1 = some j → s.arbOpen [atEgress j.owner 2] = true → (s.merge hv).readHost hv (j.f 0x48 8) (j.f 0x50 8) = some img →
      (∀ f, imageFault img = some f → ∃ (t u : State), exec (.planImageFetched i hv) s = .next t ∧ (t.planSlot i).st = .free ∧
        u.Ends j.q j.s (refusedLoad f) t ∧ u.queues = s.queues) ∧
      (imageFault img = none → signatureFault img s.fuse.signRequired = none →
        ((parsePlan img).signed = true → ∃ t, exec (.planImageFetched i hv) s = .next t ∧ (t.planSlot i).st = .loading ∧ (t.planSlot i).progress = 2 ∧
          (t.planSlot i).image = img ∧ (t.planSlot i).digest = sha512 (digestSpan img) ∧ (t.planSlot i).plan = some (parsePlan img) ∧ t.queues = s.queues) ∧
        ((parsePlan img).signed = false → (parsePlan img).structureFault img s.regs.warmSlotBytes = none → ∃ t, exec (.planImageFetched i hv) s = .next t ∧
          (t.planSlot i).st = .loading ∧ (t.planSlot i).progress = 3 ∧ (t.planSlot i).plan = some (parsePlan img) ∧ t.queues = s.queues))) ∧
    (∀ p k, s.loader i 2 = some j → (s.planSlot i).plan = some p → s.customerKey j.owner ((s.planSlot i).keySlot.getD 0) = some k →
      s.arbOpen [atVault j.owner 2] = true →
      (pssVerify k (slice (s.planSlot i).image ((imgSection (s.planSlot i).image 0x70).1 + 8) 512) (s.planSlot i).digest = true →
        p.structureFault (s.planSlot i).image s.regs.warmSlotBytes = none →
        exec (.signatureVerified i) s = .next ((s.granted [atVault j.owner 2]).modSlot i (fun x => { x with progress := 3 }))) ∧
      (pssVerify k (slice (s.planSlot i).image ((imgSection (s.planSlot i).image 0x70).1 + 8) 512) (s.planSlot i).digest = false →
        ∃ (t u : State) (f : LoadFault), exec (.signatureVerified i) s = .next t ∧ f = LoadFault.at_ 3 noIndex (imgSection (s.planSlot i).image 0x70).1 ∧ u.Ends j.q j.s (refusedLoad f) t ∧
          u = ((s.granted [atVault j.owner 2]).freeSlot i).writeReport j (some f) 0 ∧ (t.planSlot i).st = .free)) ∧
    (∀ p blob, s.loader i 3 = some j → (s.planSlot i).plan = some p → s.arbOpen [atEgress j.owner 2] = true → (s.merge hv).readHost hv (j.f 0x58 8) (j.f 0x60 8) = some blob →
      (p.weightFault (s.planSlot i).image blob = none → (s.merge hv).resourceFault p = none → ∃ t, exec (.weightBlobFetched i hv) s = .next t ∧
        (t.planSlot i).st = .loading ∧ (t.planSlot i).progress = 5 ∧ (t.planSlot i).weights = blob ∧ t.jobs = s.jobs ∧ t.queues = s.queues) ∧
      (∀ f, p.weightFault (s.planSlot i).image blob = some f → ∃ (t u : State), exec (.weightBlobFetched i hv) s = .next t ∧
        u = (((s.merge hv).granted [atEgress j.owner 2]).freeSlot i).writeReport j (some f) 0 ∧ u.Ends j.q j.s (refusedLoad f) t ∧ (t.planSlot i).st = .free)) ∧
    (∀ p b l, s.loader i 5 = some j → (s.planSlot i).plan = some p → (s.planSlot i).base = some b →
      l = s.healthyDies.flatMap (fun d => s.overUmlin j.owner d 1 b ++ atHbm d b p.hbmPersist (if d = j.owner then 2 else 3)) → s.arbOpen l = true →
      ∃ (t u : State), exec (.planReplicated i) s = .next t ∧
      u.Ends j.q j.s (outDone (planTag (s.planSlot i).digest)) t ∧ (j.f 0x68 8 = 0 ∨ s.mayReach j.owner = true → u.jobs = s.jobs) ∧ u.queues = s.queues ∧ (t.planSlot i).st = .ready ∧
      (t.planSlot i).plan = some p ∧ (t.planSlot i).digest = (s.planSlot i).digest ∧
      ∀ d, s.healthy d = true → (u.die d).hbm = ((s.die d).storePlan b p (s.planSlot i).image (s.planSlot i).weights).hbm) ∧
    (s.inPhase q n 3 0 = some j → j.f 0x40 1 = i →
      ((s.planSlot i).st = .free → ∃ t, exec (.dropPlan q n) s = .next t ∧ s.Ends q n outDone t) ∧
      ((s.planSlot i).st = .ready → ∃ t k, exec (.dropPlan q n) s = .next t ∧ (t.planSlot i).st = .dropping ∧ (t.planSlot i).dropper = (q, n) ∧
        t.job q n = some k ∧ k.phase = 1 ∧ t.queues = s.queues))

/-- The last steps of a drop (R79, R80), of a body load (R175, R176) and of a world's release (R244). No pin remains on a DROPPING slot: it is FREE
and the DROP_PLAN that waits completes DONE; while one remains nothing changes. A body record that is sound and newer is to be replicated,
and then is the slot's, and its job ends DONE; a broken one ends MALFORMED, one not newer DONE, and the slot stays. A RELEASE of a READY world
without an update makes it RELEASING, of an EMPTY one ends DONE, of a LOADING one MALFORMED; with no version pinned the world is EMPTY, no die
holds it, and its job ends DONE; while one is pinned nothing changes. -/
def Obligations.DropsAndReleasesWaitForPins : Prop :=
  ∀ (s : State) (q n i : Nat) (j : Job) (hv : HostView),
    ((s.planSlot i).st = .dropping → (s.planSlot i).dropper = (q, n) →
      (s.planPinned i = false → s.inPhase q n 3 1 = some j → s.waitingDrops i = [(q, n)] → ∃ t, exec (.dropPlanUnpinned i) s = .next t ∧ (t.planSlot i).st = .free ∧
        (s.freeSlot i).Ends q n outDone t) ∧
      (s.planPinned i = true → exec (.dropPlanUnpinned i) s = .next s)) ∧
    (∀ r, s.worldJob q n 4 1 0 = some j → j.f 0x42 2 = i → (s.body i).loading = none → (s.merge hv).readHost hv (j.f 0x48 8) bodyBytes = some r →
      (bodyValid r = true → ((s.body i).record = [] ∨ (s.body i).version < j.f 0x50 8) → ∃ t k, exec (.bodyLoad q n hv) s = .next t ∧
        t.body i = { s.body i with loading := some ((q, n), j.f 0x50 8, r) } ∧ (∀ b, b ≠ i → t.body b = s.body b) ∧ t.job q n = some k ∧ k.phase = 1 ∧
        t.queues = s.queues ∧ t.host = (s.merge hv).host) ∧
      (bodyValid r = true → (s.body i).record ≠ [] → j.f 0x50 8 ≤ (s.body i).version → ∃ (t u : State), exec (.bodyLoad q n hv) s = .next t ∧
        u = (s.merge hv).sealWorld j r ∧ u.Ends q n outDone t ∧ t.body i = s.body i) ∧
      (bodyValid r = false → ∃ (t u : State), exec (.bodyLoad q n hv) s = .next t ∧ u = (s.merge hv).sealWorld j r ∧ u.Ends q n (outField 0x48 fcContent) t ∧
        t.body i = s.body i)) ∧
    (∀ v r l, (s.body i).loading = some ((q, n), v, r) → s.worldJob q n 4 1 1 = some j →
      l = s.healthyDies.flatMap (fun d => s.overUmlin j.owner d 1 i) → s.arbOpen l = true → ∃ (t u : State), exec (.bodyReplicated i) s = .next t ∧
      t.body i = { version := v, record := r, loading := none } ∧ u = (s.granted l).modBody i (fun _ => { version := v, record := r, loading := none }) ∧
      u.Ends q n outDone t) ∧
    (s.worldJob q n 4 2 0 = some j → j.f 0x42 2 = i →
      ((s.world i).st = .ready → (s.world i).update = none → ∃ t k, exec (.release q n) s = .next t ∧ (t.world i).st = .releasing ∧
        (t.world i).owner = (q, n) ∧ t.job q n = some k ∧ k.phase = 1 ∧ (∀ w, w ≠ i → t.world w = s.world w) ∧ t.queues = s.queues) ∧
      ((s.world i).st = .empty → ∃ t, exec (.release q n) s = .next t ∧ (s.sealWorld j []).Ends q n outDone t) ∧
      ((s.world i).st = .loading → ∃ t, exec (.release q n) s = .next t ∧ (s.sealWorld j []).Ends q n (worldPlain 3) t)) ∧
    ((s.world i).st = .releasing → (s.world i).owner = (q, n) → s.worldJob q n 4 2 1 = some j →
      (s.pinnedVersions i = [] → ∃ t, exec (.releaseUnpinned i) s = .next t ∧ (t.world i).st = .empty ∧ (∀ x ∈ t.dies, x.worlds.get i = none) ∧
        (s.emptyWorld i).Ends q n outDone t) ∧
      (s.pinnedVersions i ≠ [] → exec (.releaseUnpinned i) s = .next s))

/-- A LATTICE load and a WORLD_UPDATE begin (R225, R230 to R234). A load of an EMPTY slot that fits makes it LOADING; on a READY slot a load or an update of a newer
version begins while no other is under way, against the visible version, which stays; a version not newer ends DONE at once; a slot that
is not READY, or another base, refuses an update. An update without room among the retained versions waits for it, and for its home die. -/
def Obligations.WorldUpdatesBeginAgainstTheVisibleVersion : Prop :=
  ∀ (s : State) (q n w : Nat) (j : Job) (hv : HostView) (delta obst : List Byte), j.f 0x42 2 = w →
    (s.worldJob q n 4 0 0 = some j →
      (∀ h, (s.world w).st = .empty → (s.merge hv).readHost hv (j.f 0x48 8) 64 = some h → headerOk h = true →
        ((s.merge hv).emptyWorld w).readWorldData hv j = some (delta, obst) → badRecord h delta = none → ((s.merge hv).emptyWorld w).worldFits w h = true →
        ∃ t u k, exec (.latticeLoad q n hv) s = .next t ∧ (t.world w).st = .loading ∧ (t.world w).header = h ∧ (t.world w).update = some u ∧ u.job = (q, n) ∧
          u.version = j.f 0x50 8 ∧ u.base = 0 ∧ u.load = true ∧ t.job q n = some k ∧ k.phase = 1 ∧ t.queues = s.queues) ∧
      ((s.world w).st = .ready → j.f 0x50 8 ≤ (s.world w).visible → ∃ t, exec (.latticeLoad q n hv) s = .next t ∧
        ((s.merge hv).sealWorld j []).Ends q n outDone t) ∧
      ((s.world w).st = .ready → (s.world w).visible < j.f 0x50 8 → (s.world w).update = none →
        (s.merge hv).readHost hv (j.f 0x48 8) 64 = some (s.world w).header → (s.merge hv).readWorldData hv j = some (delta, obst) →
        badRecord (s.world w).header delta = none → ∃ t u k, exec (.latticeLoad q n hv) s = .next t ∧ (t.world w).update = some u ∧ u.job = (q, n) ∧
          u.version = j.f 0x50 8 ∧ u.base = (s.world w).visible ∧ u.load = true ∧ (t.world w).visible = (s.world w).visible ∧ (t.world w).st = .ready ∧
          t.job q n = some k ∧ k.phase = 1 ∧ t.queues = s.queues)) ∧
    (s.worldJob q n 5 0 0 = some j →
      ((s.world w).st ≠ .ready → ∃ t, exec (.worldUpdate q n hv) s = .next t ∧ ((s.merge hv).sealWorld j []).Ends q n (worldPlain 1) t) ∧
      ((s.world w).st = .ready → (s.world w).update = none →
        (j.f 0x50 8 ≤ (s.world w).visible → ∃ t, exec (.worldUpdate q n hv) s = .next t ∧ ((s.merge hv).sealWorld j []).Ends q n outDone t) ∧
        ((s.world w).visible < j.f 0x50 8 → j.f 0x48 8 ≠ (s.world w).visible → ∃ t, exec (.worldUpdate q n hv) s = .next t ∧
          ((s.merge hv).sealWorld j []).Ends q n (worldPlain 2) t) ∧
        ((s.world w).visible < j.f 0x50 8 → j.f 0x48 8 = (s.world w).visible → (s.merge hv).readWorldData hv j = some (delta, obst) →
          (∀ o, badRecord (s.world w).header delta = some o → ∃ t, exec (.worldUpdate q n hv) s = .next t ∧
            ((s.merge hv).sealWorld j (delta ++ obst)).Ends q n (worldRefused 5 o 0xFFFFFFFF) t) ∧
          (badRecord (s.world w).header delta = none → ∃ t u k, exec (.worldUpdate q n hv) s = .next t ∧ (t.world w).update = some u ∧ u.job = (q, n) ∧
            u.version = j.f 0x50 8 ∧ u.base = (s.world w).visible ∧ u.load = false ∧ (t.world w).visible = (s.world w).visible ∧
            ((t.world w).waitRoom = none ↔ s.versionRoom w (j.f 0x50 8) = true ) ∧ t.job q n = some k ∧ k.phase = 1 ∧ t.queues = s.queues)))) ∧
    (∀ k u, (s.world w).waitRoom = some k → (s.world w).update = some u →
      (s.versionRoom w u.version = true → s.homeLives u = true → ∃ t, exec (.worldVersionRoom w) s = .next t ∧ (t.world w).waitRoom = none ∧
        (∀ d, s.healthy d = true → ((t.world w).update.bind (fun x => x.dies.get d)).isSome = true) ∧ t.jobs = s.jobs ∧ t.queues = s.queues) ∧
      (s.versionRoom w u.version = false ∨ s.homeLives u = false → exec (.worldVersionRoom w) s = .next s))

/-- The steps of an application on a die while its home die lives (R225, R228, R232 to R239, R366, R367, R377). Data received, it prepares;
each record is applied under its lock once no line it reads awaits a repair, and a poisoned one is a refusal, and none while the die's initial pass
is not done (R606); prepared, it reports; the
home die commits once every die is prepared, none has refused and there is room, and abandons the version where one has; acknowledged by
all, it becomes visible die by die, and with the last one is the slot's visible version. No arbiter on the way holds a message. With the
home die lost no step is made (R241). -/
def Obligations.WorldVersionsCommitTogether : Prop :=
  ∀ (s : State) (d w : Nat) (u : WorldUpdate), (s.world w).update = some u → s.healthy d = true →
    (s.homeLives u = false → ∀ c ∈ [Instr.worldDataReceived d w, .prepareLost d w, .abandon w, .commit d w, .commitAck d w, .visible d w], exec c s = .next s) ∧
    (s.homeLives u = true →
    (u.dies.get d = some 0 → s.arbOpen (s.overUmlin (s.homeOf u) d 1 w) = true → ∃ t y, exec (.worldDataReceived d w) s = .next t ∧ (t.world w).update = some { u with dies := u.dies.insert d 1 } ∧
      (t.die d).worlds.get w = some y ∧ y.prepared = some u.version ∧ y.applied = 0 ∧ t.jobs = s.jobs ∧ t.queues = s.queues ∧ t.host = s.host) ∧
    (∀ y, u.dies.get d = some 1 → (s.die d).worlds.get w = some y →
      ((s.die d).passDone = false → exec (.worldRecordApply d w) s = .next s) ∧
      (∀ r o t0, (s.die d).passDone = true → u.records[y.applied]? = some r → ((s.die d).arb (r.home w)).lock = some (o, t0) → o / 64 = w →
        ((y.lat.recordLines w u.version r).any (s.lineWaits d) = true → exec (.worldRecordApply d w) s = .next s) ∧
        ((y.lat.recordLines w u.version r).any (s.lineWaits d) = false → (y.lat.recordLines w u.version r).any (s.linePoisoned d) = true →
          exec (.worldRecordApply d w) s = .next (s.prepareSpoilt d w)) ∧
        ((y.lat.recordLines w u.version r).any (s.lineWaits d) = false → (y.lat.recordLines w u.version r).any (s.linePoisoned d) = false →
          ∃ t z, exec (.worldRecordApply d w) s = .next t ∧ (t.die d).worlds.get w = some z ∧ z.applied = y.applied + 1 ∧
            z.lat = ((y.lat.reclaim w (u.version :: s.retainedOf w)).applyRecord y.err w u.version r).1 ∧ z.visible = y.visible ∧
            t.worlds = s.worlds ∧ t.jobs = s.jobs ∧ t.queues = s.queues ∧ t.host = s.host)) ∧
      (u.records.length ≤ y.applied → ∃ t v, exec (.prepared d w) s = .next t ∧ (t.world w).update = some v ∧ v.dies = u.dies.insert d 3 ∧
        v.refusal = lowerRefusal u.refusal ((prepRefusal y.err (y.lat.solidCell u.version u.records) none).map (fun e => (e.1, e.2, 0xFFFFFFFF))) ∧
        v.lost = u.lost ∧ t.jobs = s.jobs ∧ t.queues = s.queues ∧ t.host = s.host)) ∧
    (u.dies.get d = some 2 → ∃ t, exec (.prepareLost d w) s = .next t ∧ (t.world w).update = some { u with dies := u.dies.insert d 3, lost := true } ∧
      t = { s with worlds := t.worlds }) ∧
    (∀ r g, g = s.granted (s.abandonWay w u) → s.arbOpen (s.abandonWay w u) = true → u.lost = false → u.refusal = some r → s.allApplied u 3 = true → (∃ j, s.job u.job.1 u.job.2 = some j ∧ j.st = .running) → (s.world w).st = .ready →
      ∃ t v, exec (.abandon w) s = .next t ∧ (t.world w).update = none ∧ (t.world w).visible = (s.world w).visible ∧ v = g.discardUpdate w ∧
        v.Ends u.job.1 u.job.2 (if r.1 = worldMemory then outMemory else worldRefused r.1 r.2.1 r.2.2) t) ∧
    (s.arbOpen (s.abandonWay w u) = true → u.lost = true →
      exec (.abandon w) s = .next (((s.granted (s.abandonWay w u)).discardUpdate w).redispatch u.job.1 u.job.2)) ∧
    (u.dies.get d = some 3 → s.allApplied u 3 = true →
      (u.refusal = none → u.lost = false → s.versionRoom w u.version = true →
        s.arbOpen (s.overUmlin (s.homeOf u) d 0 w) = true → ∃ t, exec (.commit d w) s = .next t ∧ (t.world w).update = some { u with dies := u.dies.insert d 4 } ∧
        t = { s.granted (s.overUmlin (s.homeOf u) d 0 w) with worlds := t.worlds }) ∧
      (u.refusal.isSome = true ∨ u.lost = true ∨ s.versionRoom w u.version = false → exec (.commit d w) s = .next s)) ∧
    (u.dies.get d = some 4 → ∃ t, exec (.commitAck d w) s = .next t ∧ (t.world w).update = some { u with dies := u.dies.insert d 5 } ∧
      t = { s with worlds := t.worlds }) ∧
    (∀ y, u.dies.get d = some 5 → s.allApplied u 5 = true → s.versionRoom w u.version = true → (s.die d).worlds.get w = some y → s.arbOpen (s.overUmlin (s.homeOf u) d 0 w) = true → ∃ t z, exec (.visible d w) s = .next t ∧
      (t.die d).worlds.get w = some z ∧ z.visible = u.version ∧
      ((∃ e, s.healthy e = true ∧ e ≠ d ∧ u.dies.get e = some 5) → (t.world w).visible = (s.world w).visible ∧ (t.world w).update = some { u with dies := u.dies.insert d 6 } ∧
        t.jobs = s.jobs) ∧
      ((∀ e, s.healthy e = true → e ≠ d → u.dies.get e = some 6) → (t.world w).visible = u.version ∧ (t.world w).st = .ready ∧ (t.world w).update = none)))

/-! ### Signals, control jobs and stages (chapters 2, 12, 14, 15) -/

/-- NOP, SIGNAL and ATTEST jobs (R424, R465, R491 to R494, R672). A NOP that runs ends DONE. A SIGNAL changes its object once under its key and ends DONE with the result: a post adds,
saturating, and gives the value after; a fire fires; an init sets type and state; a repeat gives the kept result and changes nothing. An
ATTEST whose request the Vault's arbiter grants writes its quote once the key of its die is there, and waits till then. -/
def Obligations.SignalsChangeTheirObjectOnce : Prop :=
  ∀ (s : State) (q n o : Nat) (j : Job), s.job q n = some j → j.f 0x42 2 = o →
    (j.st = .running → j.kind = 0 → ∃ t, exec (.nop q n) s = .next t ∧ s.Ends q n outDone t) ∧
    (∀ x, s.syncs.get o = some x → x.exposed = false →
      (∀ k, x.keys.find? (fun k => k.q = q && k.s = n) = some k →
        (s.signalJob q n 0 = some j → ∃ t, exec (.signalPost q n) s = .next t ∧ s.Ends q n (outDone k.result) t) ∧
        (s.signalJob q n 1 = some j → ∃ t, exec (.signalFire q n) s = .next t ∧ s.Ends q n (outDone k.result) t) ∧
        (s.signalJob q n 2 = some j → ∃ t, exec (.signalInit q n) s = .next t ∧ s.Ends q n (outDone k.result) t)) ∧
      (x.keys.find? (fun k => k.q = q && k.s = n) = none →
        (∀ v, s.signalJob q n 0 = some j → v = Min.min (x.value + j.f 0x48 8) (2 ^ 64 - 1) → ∃ t u, exec (.signalPost q n) s = .next t ∧
          State.Ends u q n (outDone v) t ∧ u.syncs = s.syncs.insert o { x with value := v, keys := x.keys ++ [⟨q, n, v⟩] } ∧ t.syncs = u.syncs ∧ u.queues = s.queues) ∧
        (s.signalJob q n 1 = some j → ∃ t u, exec (.signalFire q n) s = .next t ∧ State.Ends u q n outDone t ∧
          u.syncs = s.syncs.insert o { x with fired := true, keys := x.keys ++ [⟨q, n, 0⟩] } ∧ t.syncs = u.syncs ∧ u.queues = s.queues))) ∧
    (∀ y, s.signalJob q n 2 = some j → (s.syncs.get o = none ∨ ∃ x, s.syncs.get o = some x ∧ x.exposed = false ∧ x.keys.find? (fun k => k.q = q && k.s = n) = none) →
      y = (s.syncs.get o).getD (s.blankObject o) → ∃ t u, exec (.signalInit q n) s = .next t ∧ State.Ends u q n outDone t ∧ t.syncs = u.syncs ∧
        u.syncs = s.syncs.insert o { y with typ := j.f 0x50 8 % 4, value := if j.f 0x50 8 % 4 = 0 then j.f 0x48 8 else 0, fired := false,
                                            world := j.f 0x50 8 / 256 % 64, keys := y.keys ++ [⟨q, n, 0⟩] } ∧ u.queues = s.queues) ∧
    (s.inPhase q n 10 0 = some j →
      (∀ v, ((s.die j.owner).keyReady || s.sec.tamper || s.sec.glitch) = true → s.arbOpen [atVault j.owner 2] = true → v = s.granted [atVault j.owner 2] →
        ∃ t u, exec (.attest q n) s = .next t ∧ u = (v.signQuote j.owner j.quote).2.jobWrite q n (j.f 0x60 8) (v.signQuote j.owner j.quote).1 ∧
          State.Ends u q n (outDone quoteBytes) t) ∧
      (((s.die j.owner).keyReady || s.sec.tamper || s.sec.glitch) = false → exec (.attest q n) s = .next s))

/-- SUSPEND, RESUME and CANCEL (R446, R447, R466, R520 to R526). A SUSPEND asks a running RUN to stop at its next boundary and suspends a job that waits at once; a RESUME makes a
suspended job wait again, or READY once it has been dispatched; a CANCEL ends a job that does not run CANCELLED, and itself DONE. Each ends without effect
on a target that is gone, and SUSPEND and RESUME on one that is suspended already, or not. -/
def Obligations.ControlJobsActOnTheirTarget : Prop :=
  ∀ (s : State) (q n tq tn : Nat) (j : Job), s.job q n = some j → j.st = .running → j.phase = 0 → j.target = (tq, tn) → (tq, tn) ≠ (q, n) →
    (j.kind = 7 → (∀ k, s.job tq tn = some k → k.st ≠ .accepting → k.st ≠ .finished →
        (k.st = .running → k.kind = 1 → k.suspending = false → ∃ t i, exec (.suspend q n) s = .next t ∧ t.job tq tn = some { k with suspending := true } ∧
          t.job q n = some i ∧ i.phase = 1 ∧ i.st = .running ∧ t = { s with jobs := t.jobs }) ∧
        (k.st = .waiting ∨ k.st = .flowWait ∨ k.st = .ready ∨ k.st = .parked → k.suspending = false → ∃ t h i, exec (.suspend q n) s = .next t ∧
          t.job tq tn = some h ∧ h.st = .suspended ∧ h.desc = k.desc ∧ t.job q n = some i ∧ i.phase = 2 ∧ i.st = .running ∧
          (∀ x ∈ t.dies, ∀ y ∈ x.parts, ∀ l ∈ y.ready, (tq, tn) ∉ l)) ∧
        (k.st = .suspended → ∃ t, exec (.suspend q n) s = .next t ∧ (s.advise q n advNoEffect).Ends q n outDone t)) ∧
      (s.job tq tn = none → (∀ e ∈ (s.queue tq).recovered, e.serial ≠ tn) → ∃ t, exec (.suspend q n) s = .next t ∧ (s.advise q n advNoEffect).Ends q n outDone t)) ∧
    (j.kind = 8 → (∀ k, s.job tq tn = some k → k.st ≠ .accepting → k.st ≠ .finished →
        (k.st = .suspended → (s.queue tq).st ≠ .withdrawing → (s.queue tq).st ≠ .withdrawn → ∃ t h i, exec (.resume q n) s = .next t ∧ t.job tq tn = some h ∧
          h.desc = k.desc ∧ (k.dispatched = false → k.met = false → h.st = .waiting) ∧ (k.dispatched = true → h.st = .ready) ∧
          t.job q n = some i ∧ i.phase = 1 ∧ i.st = .running) ∧
        (k.st ≠ .suspended → ∃ t, exec (.resume q n) s = .next t ∧ (s.advise q n advNoEffect).Ends q n outDone t)) ∧
      (s.job tq tn = none → (∀ e ∈ (s.queue tq).recovered, e.serial ≠ tn) → ∃ t, exec (.resume q n) s = .next t ∧ (s.advise q n advNoEffect).Ends q n outDone t)) ∧
    (j.kind = 9 → (∀ k, s.job tq tn = some k → k.st ≠ .accepting → k.st ≠ .finished → (k.dispatched = true ∨ s.expired k = false) →
        (k.st ≠ .running → ∃ t u, exec (.cancel q n) s = .next t ∧ (s.undefOutputs k).Ends tq tn outCancelled u ∧ u.Ends q n outDone t) ∧
        (k.st = .running → k.kind = 1 → s.opUnderWay tq tn = true → ∃ t h i, exec (.cancel q n) s = .next t ∧ t.job tq tn = some h ∧ h.st = .running ∧
          h.cancelBy.isSome = true ∧ t.job q n = some i ∧ i.phase = 1 ∧ i.st = .running)) ∧
      (s.job tq tn = none → (∀ e ∈ (s.queue tq).recovered, e.serial ≠ tn) → ∃ t, exec (.cancel q n) s = .next t ∧ (s.advise q n advNoEffect).Ends q n outDone t))

/-- A RUN through its stages (R27, R43, R57 to R60, R92, R483, R520, R548 to R550, R578). Begun, it makes every stage eligible whose wait holds; launch messages, ARRIVE and
GO arrive in the order sent and set one launch count, the last arrival's GTC and the lead; from that count a die's instances launch, those
of a stage launched on another die already too, and keep their die's mapping of slices (R22); an operation whose effect is in completes, and stays complete until the boundary; a job that is to be suspended is, once its regions are written;
a logical cluster that waits outside its cluster comes in for one that goes out. No arbiter on the way holds the step. -/
def Obligations.StagesLaunchTogetherAndComplete : Prop :=
  ∀ (s : State) (q n st d : Nat) (j : Job) (r : RunData) (p : Plan) (rec : StageRec), s.runJob q n = some (j, r, p) → p.stages[st]? = some rec → st < r.stages.length →
    (j.phase = 0 → r.checkFail = none → j.suspending = false → j.parking = false → j.cancelBy = none → p.loops = [] → rec.placement ≤ 1 → stageReady j r p st = true →
      ∃ t k x, exec (.run q n) s = .next t ∧ t.job q n = some k ∧ k.phase = 1 ∧ k.run = some x ∧ (x.stage st).st = .eligible ∧
        (x.stage st).insts.map (·.lc) = (if rec.placement = 0 then List.range p.lcs else [0]) ∧ (∀ q' n', (q', n') ≠ (q, n) → t.job q' n' = s.job q' n') ∧
        t.queues = s.queues ∧ t.host = s.host) ∧
    (∀ u v, (r.stage st).st = .eligible → s.healthy d = true →
      (j.owner ≠ d → s.firstCtrl j.owner d = some (.launch q n st) ∧ s.arbOpen (s.umlinPorts j.owner d 0 0) = true) →
      u = (if j.owner = d then s else (s.granted (s.umlinPorts j.owner d 0 0)).takeCtrl j.owner d) →
      v = u.modStage q n st (fun x => { x with insts := x.insts.map (fun i => if i.die = d then { i with launchSent := true } else i) }) →
      exec (.stageLaunchMessage d q n st) s = .next (if (r.stage st).dies.length ≤ 1 then v else v.sendCtrl d j.owner (.arrive q n st))) ∧
    (j.owner ≠ d → s.firstCtrl j.owner d ≠ some (.launch q n st) → exec (.stageLaunchMessage d q n st) s = .next s) ∧
    (∀ u, (r.stage st).st = .eligible → 1 < (r.stage st).dies.length → (∃ i ∈ (r.stage st).insts, i.die = d ∧ i.launchSent = true ∧ i.arrived = false) →
      (d ≠ j.owner → s.firstCtrl d j.owner = some (.arrive q n st) ∧ s.arbOpen (s.umlinPorts d j.owner 0 0) = true) →
      u = (if d = j.owner then s else (s.granted (s.umlinPorts d j.owner 0 0)).takeCtrl d j.owner) →
      ∃ t k x, exec (.bugleArrive d q n st) s = .next t ∧ t.job q n = some k ∧ k.run = some x ∧
        (x.stage st).insts = (r.stage st).insts.map (fun i => if i.die = d && i.launchSent then { i with arrived := true } else i) ∧
        ((∀ i ∈ (x.stage st).insts, i.arrived = true) → (x.stage st).launchAt = some (s.gtc j.owner + s.regs.bugleLead) ∧ (x.stage st).go = true ∧
          t.ctrl = u.ctrl ++ ((r.stage st).dies.filter (fun e => e ≠ j.owner)).map (fun e => ⟨j.owner, e, .go q n st, false⟩)) ∧
        ((∃ i ∈ (x.stage st).insts, i.arrived = false) → (x.stage st).launchAt = (r.stage st).launchAt ∧ t.ctrl = u.ctrl) ∧
        t = { u with jobs := t.jobs, ctrl := t.ctrl }) ∧
    (∀ g, (r.stage st).go = true → (r.stage st).launchAt = some g → (∃ i ∈ (r.stage st).insts, i.die = d ∧ i.go = false) → s.healthy d = true →
      (j.owner ≠ d → s.firstCtrl j.owner d = some (.go q n st) ∧ s.arbOpen (s.umlinPorts j.owner d 0 0) = true) →
      ∃ t k x, exec (.bugleGo d q n st) s = .next t ∧ t.job q n = some k ∧ k.run = some x ∧
        (x.stage st).insts = (r.stage st).insts.map (fun i => if i.die = d then { i with go := true } else i) ∧
        (s.gtc d ≤ g → (t.die d).unacked = (s.die d).unacked) ∧
        (g < s.gtc d → ∃ e, (t.die d).unacked = (s.die d).unacked ++ [e] ∧ e.code = 0x0008 ∧ e.detail = g % 2 ^ 64)) ∧
    (∀ g i f, (r.stage st).launchAt = some g → g ≤ s.gtc d → f = r.gquFail.getD d (s.die d).spares.gquFail →
      ((r.stage st).st = .eligible ∧ j.proceeds = true ∨ (r.stage st).st = .launched ∧ j.phase = 1 ∧ j.cancelBy = none) → i ∈ (r.stage st).insts → i.die = d →
      i.launched = false → i.launchSent = true → ((r.stage st).dies.length ≤ 1 ∨ i.go = true) → i.completed.length < rec.ops.length →
      ∃ t k x, exec (.stageLaunch d q n st) s = .next t ∧ t.job q n = some k ∧ k.run = some x ∧ (x.stage st).st = .launched ∧
        { i with launched := true, gqu := f } ∈ (x.stage st).insts ∧ (∀ e ∈ (r.stage st).insts, e.die ≠ d → e ∈ (x.stage st).insts) ∧ t.queues = s.queues) ∧
    (∀ (o : OpRef) hv i op, o.q = q → o.s = n → o.stage = st → (r.stage st).insts.find? (fun i => i.lc = o.lc) = some i → rec.ops[o.idx]? = some op →
      (r.stage st).st = .launched → o.iter = (r.stage st).iter → i.ran.contains o.idx = true → i.completed.contains o.idx = false → op.opcode ≠ 0x0603 →
      (∀ x ∈ (s.die i.die).tests, x.r ≠ o) → j.cancelBy = none → i.completed.length + 1 < rec.ops.length →
      ∃ t k x y, exec (.operationComplete o hv) s = .next t ∧ t.job q n = some k ∧ k.run = some x ∧ (x.stage st).st = .launched ∧
        (x.stage st).insts.find? (fun i => i.lc = o.lc) = some y ∧ y.completed = i.completed ++ [o.idx] ∧ t.queues = s.queues) ∧
    (∀ z l, r.diverse.get st = some z → r.lcs[0]? = some l → z.resident = false → ((r.stage st).st = .eligible ∨ (r.stage st).st = .launched) →
      s.arbOpen ([atBanks l.die l.cl 6, atBanks z.die z.cl 6] ++ s.overUmlin l.die z.die 1 st) = true →
      ∃ t k x y, exec (.diverseRegionCopy q n st false) s = .next t ∧ t.job q n = some k ∧ k.run = some x ∧ x.diverse.get st = some y ∧ y.resident = true ∧
        (∀ q' n', (q', n') ≠ (q, n) → t.job q' n' = s.job q' n') ∧ t.queues = s.queues ∧ t.host = s.host) ∧
    (∀ z l way, r.diverse.get st = some z → r.lcs[0]? = some l → l.resident = true → (r.stage st).st = .launched → stageComplete (r.stage st) rec = true →
      p.copiesBack st ≠ [] → way = [atBanks z.die z.cl 6, atBanks l.die l.cl 6] ++ s.overUmlin z.die l.die 1 st → s.arbOpen way = true →
      ∃ t u, exec (.diverseRegionCopy q n st true) s = .next t ∧ t = State.boundary u q n st ∧ u = { s.granted way with jobs := u.jobs } ∧
        ∀ q' n', (q', n') ≠ (q, n) → u.job q' n' = s.job q' n') ∧
    (j.suspending = true → (∀ x ∈ r.stages, x.st ≠ .launched) →
      s.arbOpen (r.lcs.flatMap (fun l => if l.resident then atBanks l.die l.cl 6 :: atHbm l.ckpt.die l.ckpt.base l.ckpt.size 1 else [])) = true → ∃ t k x, exec (.checkpointWritten q n) s = .next t ∧ t.job q n = some k ∧ k.st = .suspended ∧
      k.suspending = false ∧ k.run = some x ∧ x.placed = false ∧ (∀ l ∈ x.lcs, l.resident = false) ∧ (∀ y ∈ x.stages, y.st ≠ .eligible)) ∧
    (∀ c lc o out x a b, s.swapOut j r p lc = some o → r.lcs[o]? = some out → r.lcs[lc]? = some x → x.die = d → x.cl = c →
      (s.die x.ckpt.die).unread x.ckpt.base x.ckpt.size = false → (s.die x.ckpt.die).poisoned x.ckpt.base x.ckpt.size = false →
      s.arbOpen ([atBanks d c 6] ++ atHbm x.ckpt.die x.ckpt.base x.ckpt.size 1 ++ atHbm out.ckpt.die out.ckpt.base out.ckpt.size 1) = true →
      (a, b) = unpackRegion p.spadPerLc ((s.die x.ckpt.die).loadRegion x.ckpt.base x.ckpt.size) →
      ∃ t k y, exec (.logicalClusterSwap d c q n lc) s = .next t ∧ t.job q n = some k ∧ k.run = some y ∧ y.lcs[lc]? = some { x with resident := true, spad := a, acc := b } ∧
        y.lcs[o]? = some { out with resident := false, spad := [], acc := [] } ∧ (∀ i, i ≠ lc → i ≠ o → y.lcs[i]? = r.lcs[i]?) ∧ t.queues = s.queues ∧ t.host = s.host)

/-! ### Operations (chapters 6 to 11, 18) -/

/-- Operations of the tensor arrays and of the vector, kinematics and selection engines, gather, scatter, generation and digest. An
operation that its engine holds completes when no arbiter on its way holds it back (R33, R374), a host port serves its operands in host
memory (R410) and its die may write those that lie there (R457), no word it reads holds an uncorrectable error (R346), no line of it is
poisoned (R367), and its operands in host memory can be read (R445): what its rule computes from the operands is written to its outputs,
its numeric flags join the job's, and it runs once. For the tensor arrays the row checksums must agree too (R155). Otherwise: an operand
that cannot be read ends the job MEMORY_ERROR (R367, R445); checksums that do not agree (R155), a residue mismatch (R573, R574) or a write
discarded at a bank (R348) end the operation without an effect, and its job is to be dispatched again from its beginning. -/
def Obligations.OperationsRunOnceOnTheirOperands : Prop :=
  ∀ (s : State) (r : OpRef) (hv : HostView) (c : OpCtx), s.opCtx r = some c → s.arbOpen (s.opReqs c) = true →
    (c.usesHost = true → (s.portOf c.ins.die).isSome = true) → (c.writesHost = true → s.mayWrite c.ins.die = true) →
    ((∀ h ∈ s.sramHits c, h.single = true) → s.readsPoison c = false →
      (∀ x ∈ c.op.ins, x ≠ 0xFFFF → ((s.merge hv).tensorBytes hv c x).isSome = true) →
      (c.op.opcode = 0x0200 → ∃ d t, (s.merge hv).opData hv c = some d ∧ exec (.elementwise r hv none) s = .next t ∧
        (s.merge hv).OpRan c (elementwiseBody (s.merge hv) c d).1 (elementwiseBody (s.merge hv) c d).2 t) ∧
      (c.op.opcode = 0x0201 → ∃ d t, (s.merge hv).opData hv c = some d ∧ exec (.normalisation r hv none) s = .next t ∧
        (s.merge hv).OpRan c (normalisationBody (s.merge hv) c d).1 (normalisationBody (s.merge hv) c d).2 t) ∧
      (c.op.opcode = 0x0202 → ∃ d t, (s.merge hv).opData hv c = some d ∧ exec (.activation r hv none) s = .next t ∧
        (s.merge hv).OpRan c (activationBody (s.merge hv) c d).1 (activationBody (s.merge hv) c d).2 t) ∧
      (c.op.opcode = 0x0203 → ∃ d t, (s.merge hv).opData hv c = some d ∧ exec (.reduction r hv none) s = .next t ∧
        (s.merge hv).OpRan c (reductionBody (s.merge hv) c d).1 (reductionBody (s.merge hv) c d).2 t) ∧
      (c.op.opcode = 0x0204 → ∃ d t, (s.merge hv).opData hv c = some d ∧ exec (.gather r hv) s = .next t ∧
        (s.merge hv).OpRan c (gatherBody (s.merge hv) c d).1 (gatherBody (s.merge hv) c d).2 t) ∧
      (c.op.opcode = 0x0205 → ∃ d t, (s.merge hv).opData hv c = some d ∧ exec (.scatter r hv) s = .next t ∧
        (s.merge hv).OpRan c (scatterBody (s.merge hv) c d).1 (scatterBody (s.merge hv) c d).2 t) ∧
      (c.op.opcode = 0x0206 → ∃ d t, (s.merge hv).opData hv c = some d ∧ exec (.randomGeneration r hv) s = .next t ∧
        (s.merge hv).OpRan c (randomBody (s.merge hv) c d).1 (randomBody (s.merge hv) c d).2 t) ∧
      (c.op.opcode = 0x0300 → ∃ d t, (s.merge hv).opData hv c = some d ∧ exec (.pointForwardKinematics r hv) s = .next t ∧
        (s.merge hv).OpRan c (pointFkBody (s.merge hv) c d).1 (pointFkBody (s.merge hv) c d).2 t) ∧
      (c.op.opcode = 0x0301 → ∃ d t, (s.merge hv).opData hv c = some d ∧ exec (.intervalForwardKinematics r hv) s = .next t ∧
        (s.merge hv).OpRan c (intervalFkBody (s.merge hv) c d).1 (intervalFkBody (s.merge hv) c d).2 t) ∧
      (c.op.opcode = 0x0500 → ∃ d t, (s.merge hv).opData hv c = some d ∧ exec (.topK r hv) s = .next t ∧
        (s.merge hv).OpRan c (topKBody (s.merge hv) c d).1 (topKBody (s.merge hv) c d).2 t) ∧
      (c.op.opcode = 0x0704 → ∃ d t, (s.merge hv).opData hv c = some d ∧ exec (.digest r hv) s = .next t ∧
        (s.merge hv).OpRan c [c.rawOut d 0 (if c.op.par 0 1 = 0 then sha512 (c.raw0 d).1 else natLE 8 (crc64 (c.raw0 d).1))] (c.raw0 d).2 t) ∧
      (c.op.opcode = 0x0100 → ∀ fs : List ArrFault, s.checksumInjection c = none →
        (∀ d, (s.merge hv).opData hv c = some d → (matrixBody (s.merge hv) c d fs).bad = none) → ∃ d t, (s.merge hv).opData hv c = some d ∧ exec (.matrixMultiply r hv fs) s = .next t ∧
        (s.merge hv).OpRan c (matrixBody (s.merge hv) c d fs).outs (matrixBody (s.merge hv) c d fs).flags t) ∧
      (c.op.opcode = 0x0101 → ∀ fs : List ArrFault, s.checksumInjection c = none →
        (∀ d, (s.merge hv).opData hv c = some d → (matrixBody (s.merge hv) c d fs).bad = none) → ∃ d t, (s.merge hv).opData hv c = some d ∧ exec (.batchedMatrixMultiply r hv fs) s = .next t ∧
        (s.merge hv).OpRan c (matrixBody (s.merge hv) c d fs).outs (matrixBody (s.merge hv) c d fs).flags t) ∧
      (c.op.opcode = 0x0102 → ∀ fs : List ArrFault, s.checksumInjection c = none →
        (∀ d, (s.merge hv).opData hv c = some d → (attentionBody (s.merge hv) c d fs).bad = none) → ∃ d t, (s.merge hv).opData hv c = some d ∧ exec (.fusedAttention r hv fs) s = .next t ∧
        (s.merge hv).OpRan c (attentionBody (s.merge hv) c d fs).outs (attentionBody (s.merge hv) c d fs).flags t) ∧
      (c.op.opcode = 0x0103 → ∀ fs : List ArrFault, s.checksumInjection c = none →
        (∀ d, (s.merge hv).opData hv c = some d → (convolutionBody (s.merge hv) c d fs).bad = none) → ∃ d t, (s.merge hv).opData hv c = some d ∧ exec (.temporalConvolution r hv fs) s = .next t ∧
        (s.merge hv).OpRan c (convolutionBody (s.merge hv) c d fs).outs (convolutionBody (s.merge hv) c d fs).flags t)) ∧
    (c.j.cancelBy = none →
      ((s.merge hv).opData hv c = none → (∀ h ∈ s.sramHits c, h.single = true) → ∀ (i : Instr) (code : Nat),
        (i, code) ∈ ([(.elementwise r hv none, 0x0200), (.normalisation r hv none, 0x0201), (.activation r hv none, 0x0202),
          (.reduction r hv none, 0x0203), (.gather r hv, 0x0204), (.scatter r hv, 0x0205), (.randomGeneration r hv, 0x0206),
          (.pointForwardKinematics r hv, 0x0300), (.intervalForwardKinematics r hv, 0x0301), (.topK r hv, 0x0500),
          (.digest r hv, 0x0704), (.matrixMultiply r hv [], 0x0100), (.batchedMatrixMultiply r hv [], 0x0101),
          (.fusedAttention r hv [], 0x0102), (.temporalConvolution r hv [], 0x0103)] : List (Instr × Nat)) →
        c.op.opcode = code → ∃ t, exec i s = .next t ∧ (s.merge hv).Ends r.q r.s outMemory t) ∧
      ((∀ u, ((s.die c.ins.die).unit u).mismatchAt = []) →
        (∀ (f : List ArrFault → Instr) (code : Nat) (body : State → OpCtx → OpData → List ArrFault → ArrOut),
          (f, code, body) ∈ ([(fun fs => .matrixMultiply r hv fs, 0x0100, matrixBody), (fun fs => .batchedMatrixMultiply r hv fs, 0x0101, matrixBody),
            (fun fs => .fusedAttention r hv fs, 0x0102, attentionBody), (fun fs => .temporalConvolution r hv fs, 0x0103, convolutionBody)] :
            List ((List ArrFault → Instr) × Nat × (State → OpCtx → OpData → List ArrFault → ArrOut))) →
          c.op.opcode = code → s.checksumInjection c = none → ∀ (fs : List ArrFault) (d : OpData), (s.merge hv).opData hv c = some d →
          (body (s.merge hv) c d fs).bad.isSome = true → ∃ t, exec (f fs) s = .next t ∧ s.RunsAgain hv r c t) ∧
        (∀ (i : Instr) (code lane : Nat) (h : BankHit),
          (i, code) ∈ ([(.elementwise r hv (some lane), 0x0200), (.normalisation r hv (some lane), 0x0201),
          (.activation r hv (some lane), 0x0202), (.reduction r hv (some lane), 0x0203), (.scatter r hv (some lane), 0x0205),
          (.randomGeneration r hv (some lane), 0x0206), (.fusedAttention r hv [] (some lane), 0x0102),
          (.factor r hv (some lane), 0x0600), (.solve r hv (some lane), 0x0601), (.riccatiSweep r hv (some lane), 0x0602),
          (.refine r hv (some lane), 0x0603), (.matrixMultiply r hv [] (some h), 0x0100),
          (.batchedMatrixMultiply r hv [] (some h), 0x0101), (.fusedAttention r hv [] none (some h), 0x0102),
          (.temporalConvolution r hv [] (some h), 0x0103), (.elementwise r hv none (some h), 0x0200),
          (.normalisation r hv none (some h), 0x0201), (.activation r hv none (some h), 0x0202),
          (.reduction r hv none (some h), 0x0203), (.gather r hv (some h), 0x0204), (.scatter r hv none (some h), 0x0205),
          (.randomGeneration r hv none (some h), 0x0206), (.pointForwardKinematics r hv (some h), 0x0300),
          (.intervalForwardKinematics r hv (some h), 0x0301), (.topK r hv (some h), 0x0500), (.merge r hv (some h), 0x0501),
          (.factor r hv none (some h), 0x0600), (.solve r hv none (some h), 0x0601), (.riccatiSweep r hv none (some h), 0x0602),
          (.refine r hv none (some h), 0x0603), (.copy r hv (some h), 0x0700), (.checkValueWrap r hv (some h), 0x0701),
          (.checkValueUnwrap r hv (some h), 0x0702), (.checkValueScan r hv (some h), 0x0703), (.digest r hv (some h), 0x0704)] : List (Instr × Nat)) →
          c.op.opcode = code → ∃ t, exec i s = .next t ∧ s.RunsAgain hv r c t)))

/-- Solver, copy, merge and check-value operations, where nothing holds them back and their operands can be read (R33, R346, R367, R374, R410, R445,
R457). Factor, Solve, Riccati sweep and Refine write their problems' results, and a status that counts makes the outcome NUMERIC from that
stage on, with pivot substitution off (R325). Copy reads a named logical cluster's region, or its own (R742). A Merge waits for the lists on
other dies, each arrives once, and a conflict is advised (R299, R305). Wrap numbers its envelope with the channel's counter, which goes on
by one (R618); Unwrap takes an accepted counter and keeps its own at any other (R620); Scan reads a tensor or a host range (R622). A
Refine's records go to the store of every healthy die; where a die has written one, another job reads it there, and the job itself what it
read before (R342). -/
def Obligations.SolverAndCheckOperationsKeepTheirRecords : Prop :=
  ∀ (s : State) (r : OpRef) (hv : HostView) (c : OpCtx), s.opCtx r = some c → s.arbOpen (s.opReqs c) = true →
    (c.usesHost = true → (s.portOf c.ins.die).isSome = true) → (c.writesHost = true → s.mayWrite c.ins.die = true) →
    ((∀ h ∈ s.sramHits c, h.single = true) → s.readsPoison c = false →
      (∀ x ∈ c.op.ins, x ≠ 0xFFFF → ((s.merge hv).tensorBytes hv c x).isSome = true) →
      (c.op.opcode = 0x0600 → ∃ d t, (s.merge hv).opData hv c = some d ∧ exec (.factor r hv none) s = .next t ∧
        (s.merge hv).OpRan c (c.putBatch d (factorBatch (s.merge hv) c d)).1 (c.putBatch d (factorBatch (s.merge hv) c d)).2 t ∧ s.SolverRan c 1 (factorBatch (s.merge hv) c d) t) ∧
      (c.op.opcode = 0x0601 → ∃ d t, (s.merge hv).opData hv c = some d ∧ exec (.solve r hv none) s = .next t ∧
        (s.merge hv).OpRan c (c.putBatch d (solveBatch (s.merge hv) c d)).1 (c.putBatch d (solveBatch (s.merge hv) c d)).2 t ∧ s.SolverRan c 1 (solveBatch (s.merge hv) c d) t) ∧
      (c.op.opcode = 0x0602 → ∃ d t, (s.merge hv).opData hv c = some d ∧ exec (.riccatiSweep r hv none) s = .next t ∧
        (s.merge hv).OpRan c (c.putBatch d (riccatiBatch (s.merge hv) c d)).1 (c.putBatch d (riccatiBatch (s.merge hv) c d)).2 t ∧ s.SolverRan c 2 (riccatiBatch (s.merge hv) c d) t) ∧
      (c.op.opcode = 0x0603 → ∃ d t, (s.merge hv).opData hv c = some d ∧ exec (.refine r hv none) s = .next t ∧
        (s.merge hv).OpRan c (c.putBatch d (refineBatch (s.merge hv) c d)).1 (c.putBatch d (refineBatch (s.merge hv) c d)).2 t ∧ s.SolverRan c 3 (refineBatch (s.merge hv) c d) t) ∧
      (c.op.opcode = 0x0700 → c.op.par 2 1 = 0xFF → ∃ d t, (s.merge hv).opData hv c = some d ∧ exec (.copy r hv) s = .next t ∧
        (s.merge hv).OpRan c (copyBody (s.merge hv) c d).1 (copyBody (s.merge hv) c d).2 t) ∧
      (∀ e m, c.op.opcode = 0x0700 → c.op.par 2 1 ≠ 0xFF → c.p.tensors[c.op.inp 0]? = some e → s.regionOf c (c.op.par 2 1) = some m →
        ∃ d d' t, (s.merge hv).opData hv c = some d ∧ d' = { d with ins := d.ins.set 0 (m.1.read e.offset (c.inDesc 0).footprint).toArray } ∧
          exec (.copy r hv) s = .next t ∧ (s.merge hv).OpRan c (copyBody (s.merge hv) c d').1 (copyBody (s.merge hv) c d').2 t) ∧
      (c.op.opcode = 0x0501 → (∀ i, i < c.op.par 3 1 → c.remote i = true → (r.idx, i) ∈ c.ins.lists) → ∃ d t, (s.merge hv).opData hv c = some d ∧ exec (.merge r hv) s = .next t ∧
        (s.merge hv).OpRan c (mergeBody (s.merge hv) c d).1 (mergeBody (s.merge hv) c d).2 t ∧
        (anyConflict (c.outDesc 1) ((mergeBody (s.merge hv) c d).1.getD 1 #[]) = true → ∃ k, t.job r.q r.s = some k ∧ bit k.advisory advConflict = true)) ∧
      (c.op.opcode = 0x0701 → ∀ alive, (s.chan c.channel).exposed = false → (s.useHalf c true).ctr.getD 0 = alive → ∃ d t, (s.merge hv).opData hv c = some d ∧ exec (.checkValueWrap r hv) s = .next t ∧
        (s.merge hv).OpRan c [c.rawOut d 0 (envelope (c.op.par 4 2) alive (c.raw0 d).1)] (c.raw0 d).2 t ∧
        (t.chan c.channel).tx.ctr = some ((alive + 1) % 65536) ∧ (t.chan c.channel).rx = (s.chan c.channel).rx) ∧
      (c.op.opcode = 0x0702 → (s.chan c.channel).exposed = false → ∃ d t n data tail f, (s.merge hv).opData hv c = some d ∧
        n = (c.raw0 d).1.length - 12 ∧ data = (c.raw0 d).1.take n ∧ tail = (c.raw0 d).1.drop n ∧
        f = checkFrame (c.op.par 4 2) (c.op.par 6 2) n (s.useHalf c false).ctr data tail ∧ exec (.checkValueUnwrap r hv) s = .next t ∧
        (s.merge hv).OpRan c [c.rawOut d 0 (if f.accepted then data else zeros n), c.rawOut d 1 (statusRecord f (s.useHalf c false).ctr tail)] (c.raw0 d).2 t ∧
        (t.chan c.channel).tx = (s.chan c.channel).tx ∧ (f.accepted = true → (t.chan c.channel).rx.ctr = some (field tail 2 2)) ∧
        (f.accepted = false → (t.chan c.channel).rx.ctr = (s.useHalf c false).ctr)) ∧
      (c.op.opcode = 0x0703 → c.op.par 1 1 ≠ 1 → ∃ d t, (s.merge hv).opData hv c = some d ∧ exec (.checkValueScan r hv) s = .next t ∧
        (s.merge hv).OpRan c [c.rawOut d 0 (scanResult (c.op.par 0 1) (c.raw0 d).1)] (c.raw0 d).2 t) ∧
      (c.op.opcode = 0x0703 → ∀ b, c.op.par 1 1 = 1 → (s.merge hv).readHost hv c.scanRange.1 c.scanRange.2 = some b → ∃ d t, (s.merge hv).opData hv c = some d ∧ exec (.checkValueScan r hv) s = .next t ∧
        (s.merge hv).OpRan c [c.rawOut d 0 (scanResult (c.op.par 0 1) b)] NumFlags.none t)) ∧
    (∀ i l, c.op.opcode = 0x0501 → i < c.op.par 3 1 → c.remote i = true → (r.idx, i) ∉ c.ins.lists →
      l = s.overUmlin (((c.rd.lcs[c.listLc i]?).map (·.die)).getD c.ins.die) c.ins.die 1 i → s.arbOpen l = true →
      exec (.merge r hv) s = .next (s.merge hv) ∧
      ∃ t k, exec (.listArrival r i) s = .next t ∧ t.opCtx r = some k ∧ k.ins.lists = c.ins.lists ++ [(r.idx, i)] ∧ k.op = c.op ∧
        exec (.listArrival r i) t = .next t ∧ t = { s.granted l with jobs := t.jobs }) ∧
    (∀ d w, s.nextStoreWrite d = some w → s.healthy d = true →
      s.arbOpen (s.overUmlin (s.sup.die.getD d) d 1 w.slot ++ atHbm d (s.regs.warmRange w.slot).1 w.bytes.length 3) = true →
      ∃ (t u : State) (e : WarmEnt), exec (.warmStoreWrite d w.slot) s = .next t ∧ t = u.writeCompletions w.q ∧ u.jobs = s.jobs ∧ u.queues = s.queues ∧
        (u.die d).warm.get w.slot = some e ∧ e.read w.q w.s = ((s.die d).warm.getD w.slot WarmEnt.empty).read w.q w.s ∧
        (∀ q n, (q, n) ≠ (w.q, w.s) → e.read q n = some ⟨w.q, w.s, w.bytes⟩) ∧
        (u.storeWrites.filter (fun v => v.dies.contains d)).length + 1 = (s.storeWrites.filter (fun v => v.dies.contains d)).length ∧
        (∀ x, x ≠ d → (u.die x).warm = (s.die x).warm))

/-- Geometry operations, where nothing holds them back and their operands can be read (R33, R346, R367, R374, R410, R445, R457). A test operation
outside compare mode writes the records that its tests decide, with injected verdicts, once (R261, R266, R651); a distance operation writes
its records (R273, R274). The tests and queries that the emitter does not answer itself leave for the GQUs (R265, R276): packets of up to 8
of one operation go out and enter a window with room (R277, R279), those of DIVERSE stages first (R579), at a GQU that serves them (R598)
and once no entry line of theirs awaits a repair (R280); a fragment reads its lines for as many, a partial result joins its test, and
records return up to 8 at a time (R278); a line that arrives is waited for no more, and its slice holds no more lines than it has (R249,
R352). No job changes by a packet's way. -/
def Obligations.GeometryTestsAreDecidedAndRouted : Prop :=
  (∀ (s : State) (r : OpRef) (hv : HostView) (c : OpCtx), s.opCtx r = some c → s.arbOpen (s.opReqs c) = true →
    (c.usesHost = true → (s.portOf c.ins.die).isSome = true) → (c.writesHost = true → s.mayWrite c.ins.die = true) → c.ins.die < s.n →
    (∀ h ∈ s.sramHits c, h.single = true) → s.readsPoison c = false →
      (∀ x ∈ c.op.ins, x ≠ 0xFFFF → ((s.merge hv).tensorBytes hv c x).isSome = true) →
      (c.op.opcode = 0x0402 → c.primary = none → ∃ d t, (s.merge hv).opData hv c = some d ∧ exec (.sphereTest r hv) s = .next t ∧ (s.merge hv).TestsRan c d t) ∧
      (c.op.opcode = 0x0403 → c.primary = none → ∃ d t, (s.merge hv).opData hv c = some d ∧ exec (.capsuleTest r hv) s = .next t ∧ (s.merge hv).TestsRan c d t) ∧
      (c.op.opcode = 0x0404 → c.primary = none → ∃ d t, (s.merge hv).opData hv c = some d ∧ exec (.sweptSphereTest r hv) s = .next t ∧ (s.merge hv).TestsRan c d t) ∧
      (c.op.opcode = 0x0400 → ∃ d t, (s.merge hv).opData hv c = some d ∧ exec (.pointDistance r hv) s = .next t ∧
        (s.merge hv).OpRan c (distanceBody false (s.merge hv) c d).1 (distanceBody false (s.merge hv) c d).2 t ∧
        (t.die c.ins.die).tests = (s.die c.ins.die).tests ++ c.queryFlights (s.worldView c) c.ins.gqu ((c.inDesc 0).rawWords (d.inp 0))) ∧
      (c.op.opcode = 0x0401 → ∃ d t, (s.merge hv).opData hv c = some d ∧ exec (.distanceWithGradient r hv) s = .next t ∧
        (s.merge hv).OpRan c (distanceBody true (s.merge hv) c d).1 (distanceBody true (s.merge hv) c d).2 t ∧
        (t.die c.ins.die).tests = (s.die c.ins.die).tests ++ c.queryFlights (s.worldView c) c.ins.gqu ((c.inDesc 0).rawWords (d.inp 0)))) ∧
  (∀ (s : State) (d cl g k line : Nat) (z : GeoTest) (here : GeoTest → Bool),
    (here = (fun t => t.phase = 0 && t.cl = cl && t.gqu = g && t.r = z.r) →
      (s.die d).tests.find? (fun t => t.phase = 0 && t.cl = cl && t.gqu = g) = some z →
      ∃ t, exec (.queryPacketSend d cl g) s = .next t ∧ ((t.die d).tests.filter here).length = ((s.die d).tests.filter here).length - 8 ∧
        (t.die d).tests.length = (s.die d).tests.length ∧ (∀ e, e ≠ d → t.die e = s.die e) ∧ t.jobs = s.jobs) ∧
    (∀ (v : Bool) (room err : Nat), v = (s.die d).tests.any (fun t => t.phase = 1 && t.gqu = g && t.diverse && s.gquServes d g t.r) →
      (∀ t ∈ (s.die d).tests, s.cellsWait d t.world t.version t.cells = false ∧ s.cellsPoisoned d t.world t.version t.cells = false) →
      here = (fun t => t.phase = 1 && t.gqu = g && t.diverse = v && s.gquServes d g t.r) → (s.die d).tests.any here = true → room = Min.min 8 ((s.die d).windowRoom g v) → 0 < room →
      ∃ t, exec (.queryPacketArrival d g err) s = .next t ∧ ((t.die d).tests.filter here).length = ((s.die d).tests.filter here).length - room ∧
        (t.die d).tests.length = (s.die d).tests.length ∧ (∀ e, e ≠ d → t.die e = s.die e) ∧ t.jobs = s.jobs) ∧
    (∀ (v : Bool) (room err key : Nat), v = (s.die d).tests.any (fun t => t.diverse && s.gquServes d g t.r && (t.fragFor g).isSome) →
      (s.die d).tests.find? (fun t => t.diverse = v && s.gquServes d g t.r && (t.fragFor g).isSome) = some z → z.fragFor g = some key →
      here = (fun t => t.phase = 2 && t.diverse = v && s.gquServes d g t.r && t.world = z.world && t.frags.contains key && gquOf t.map (brickHome t.world key) = g) →
      room = Min.min 8 ((s.die d).windowRoom g v) → 0 < room →
      ∃ t, exec (.fragment d g err) s = .next t ∧ ((t.die d).tests.filter here).length = ((s.die d).tests.filter here).length - room ∧
        (t.die d).tests.length = (s.die d).tests.length ∧ (∀ e, e ≠ d → t.die e = s.die e) ∧ t.jobs = s.jobs) ∧
    ((s.die d).tests.any (fun t => t.phase = 2 && t.cl = cl && !t.parts.isEmpty) = true →
      ∃ t, exec (.partialResult d cl) s = .next t ∧ (((t.die d).tests.map (·.parts.length)).sum + 1 = ((s.die d).tests.map (·.parts.length)).sum) ∧
        (t.die d).tests.length = (s.die d).tests.length ∧ (∀ e, e ≠ d → t.die e = s.die e) ∧ t.jobs = s.jobs) ∧
    (here = (fun t => t.phase = 3 && t.cl = cl) → (s.die d).tests.find? here = some z →
      (s.arbOpen [atBanks d cl 5] = true → ∃ t, exec (.resultRecord d cl none) s = .next t ∧
        ((t.die d).tests.filter here).length = ((s.die d).tests.filter here).length - 8 ∧
        (t.die d).tests.length + Min.min 8 ((s.die d).tests.filter here).length = (s.die d).tests.length ∧
        (t.die d).tests.filter (fun x => !here x) = (s.die d).tests.filter (fun x => !here x) ∧ (∀ e, e ≠ d → t.die e = s.die e) ∧ t.jobs = s.jobs) ∧
      (∀ h j, s.job z.r.q z.r.s = some j → j.st = .running → j.cancelBy = none → ∃ t i, exec (.resultRecord d cl (some h)) s = .next t ∧
        t.job z.r.q z.r.s = some i ∧ i.st = .waiting ∧ i.run = none ∧ i.desc = j.desc ∧ t.queues = s.queues)) ∧
    ((s.die d).fills.find? (fun l => lineSlice l = k && !s.lineWaits d l) = some line → s.arbOpen [atPc d k 0, atPortB d k 1] = true →
      (s.linePoisoned d line = false → ∃ t, exec (.lineFill d k) s = .next t ∧ line ∉ (t.die d).fills ∧ (t.die d).holdsLine line = true ∧
        (∀ x ∈ (t.die d).tests, ∀ w ∈ x.waits, w.2 ≠ line) ∧
        (0 < s.regs.cacheLines → ((t.die d).wsLines.filter (fun c => lineSlice c.line = k)).length ≤ s.regs.cacheLines) ∧
        (t.die d).tests.length = (s.die d).tests.length ∧ (∀ e, e ≠ d → t.die e = s.die e) ∧ t.jobs = s.jobs) ∧
      (s.linePoisoned d line = true → ∃ t, exec (.lineFill d k) s = .next t ∧ line ∉ (t.die d).fills)))

/-! ### Number formats (chapter 5) -/

/-- R95, R98, R110: a bit pattern of a floating-point format that is no NaN is the pattern of the value it stands for, and that value rounds to itself in
every mode, without a flag. A rounding that does not overflow lies on its mode's side of the exact value (R109), and a saturating one
never leaves the finite range (R115). -/
def Obligations.PatternsKeepTheirValues : Prop :=
  ∀ f ∈ [f32, f16, fbf16, fe4m3, fe5m2],
    (∀ w, w < 2 ^ (1 + f.expBits + f.mant) → (f.decode w).isNan = false →
      f.encode (f.decode w) = w ∧ ∀ m : RMode, (f.roundVal m (f.decode w)).runFlags = (f.decode w, NumFlags.none)) ∧
    (∀ (q : Rat) (v : Val), ((f.round .rdn false q).runFlags.1 = v → v.isNan = false → Val.le v (Val.ofRat q) = true) ∧
      ((f.round .rup false q).runFlags.1 = v → v.isNan = false → Val.le (Val.ofRat q) v = true) ∧
      (∀ m : RMode, (f.round m true q).runFlags.1 = v → v.isFinite = true ∧ ratAbs v.toRat ≤ f.largest))

/-- R119, R120, R122: the sum, the difference and the negation of two intervals in a device format hold the sum, the difference and the negation of any real numbers
that lie in them. -/
def Obligations.IntervalSumsEnclose : Prop :=
  ∀ f ∈ [f32, f16], ∀ (a b : Iv) (x y : Rat), a.valid = true → b.valid = true →
    Val.le a.lo (Val.ofRat x) = true → Val.le (Val.ofRat x) a.hi = true → Val.le b.lo (Val.ofRat y) = true → Val.le (Val.ofRat y) b.hi = true →
    (Val.le (Iv.add f a b).runFlags.1.lo (Val.ofRat (x + y)) = true ∧ Val.le (Val.ofRat (x + y)) (Iv.add f a b).runFlags.1.hi = true) ∧
    (Val.le (Iv.sub f a b).runFlags.1.lo (Val.ofRat (x - y)) = true ∧ Val.le (Val.ofRat (x - y)) (Iv.sub f a b).runFlags.1.hi = true) ∧
    (Val.le a.neg.lo (Val.ofRat (-x)) = true ∧ Val.le (Val.ofRat (-x)) a.neg.hi = true)
end

