-- ==== Sys2Proof/Laws/Codes.lean ====
section
/-!
SUPPORT. SHA-512, MGF1 and EMSA-PSS (R658): the lengths of their results, and that an encoded message verifies.
-/
namespace Sys2Proof.Machine

@[simp] theorem zeros_length (n : Nat) : (zeros n).length = n := by simp [zeros]

@[simp] theorem natLE_length : ∀ n v : Nat, (natLE n v).length = n
  | 0, _ => rfl
  | n + 1, v => by simp [natLE, natLE_length n]

@[simp] theorem natBE_length (n v : Nat) : (natBE n v).length = n := by simp [natBE]

/-- A round keeps the number of working variables. -/
theorem sha512Round_length (st : List Word64) (kw : Word64 × Word64) : (sha512Round st kw).length = st.length := by
  unfold sha512Round
  split <;> rfl

/-- A block gives eight words from eight. -/
theorem sha512Block_length {h : List Word64} (hh : h.length = 8) (blk : List Byte) : (sha512Block h blk).length = 8 := by
  have key : ∀ (l : List (Word64 × Word64)) (st : List Word64), (l.foldl sha512Round st).length = st.length := by
    intro l
    induction l with
    | nil => intro _; rfl
    | cons x l ih => intro st; rw [List.foldl_cons, ih, sha512Round_length]
  simp [sha512Block, key, hh]

/-- SHA-512 gives 64 bytes. -/
@[simp] theorem sha512_length (m : List Byte) : (sha512 m).length = 64 := by
  have key : ∀ (l : List (List Byte)) (h : List Word64), h.length = 8 → (l.foldl sha512Block h).length = 8 := by
    intro l
    induction l with
    | nil => intro _ h; exact h
    | cons x l ih => intro h hh; exact ih _ (sha512Block_length hh x)
  have h8 : (sha512H).length = 8 := rfl
  have := key (chunks 128 (m ++ [0x80] ++ zeros ((239 - m.length % 128) % 128) ++ natBE 16 (8 * m.length))) sha512H h8
  simp only [sha512, List.length_flatMap, natBE_length]
  rw [List.map_const', this]; rfl

/-- MGF1 gives the bytes asked for. -/
@[simp] theorem mgf1_length (seed : List Byte) : (mgf1 seed 447).length = 447 := by
  simp only [mgf1, ceilDiv, List.length_take, List.length_flatMap, sha512_length, List.map_const']
  decide

/-- Exclusive-or twice is nothing. -/
theorem zipWith_xor_xor : ∀ {a m : List Byte}, a.length = m.length → List.zipWith (fun x y => x ^^^ y) (List.zipWith (fun x y => x ^^^ y) a m) m = a
  | [], [], _ => rfl
  | x :: a, y :: m, h => by
    simp only [List.zipWith_cons_cons, List.cons.injEq]
    exact ⟨by rw [BitVec.xor_assoc, BitVec.xor_self, BitVec.xor_zero], zipWith_xor_xor (by simpa using h)⟩
  | [], _ :: _, h => by simp at h
  | _ :: _, [], h => by simp at h

/-- The head of an encoded message's data block. -/
theorem pssHead (m : Byte) : (((0 ^^^ m) &&& 0x7F) ^^^ m) &&& 0x7F = (0 : Byte) ∧ ((0 ^^^ m) &&& 0x7F) &&& 0x80 = (0 : Byte) := by
  revert m; decide

/-- An encoded message verifies. -/
theorem pssEncodedOk_pssEncode (mHash salt : List Byte) (hs : salt.length = 64) : pssEncodedOk (pssEncode mHash salt) mHash = true := by
  obtain ⟨h, hh⟩ : ∃ h, h = sha512 (zeros 8 ++ mHash ++ salt) := ⟨_, rfl⟩
  have hl : h.length = 64 := by rw [hh, sha512_length]
  obtain ⟨m0, ms, hm⟩ : ∃ m0 ms, mgf1 h 447 = m0 :: ms := List.exists_cons_of_length_eq_add_one (mgf1_length h)
  have hml : ms.length = 446 := by have := mgf1_length h; rw [hm] at this; simpa using this
  obtain ⟨rest, hr⟩ : ∃ rest, rest = zeros 381 ++ [0x01] ++ salt := ⟨_, rfl⟩
  have hrl : rest.length = ms.length := by simp [hr, hs, hml]
  have hdb : zeros 382 ++ [0x01] ++ salt = (0 : Byte) :: rest := by rw [hr]; rfl
  obtain ⟨x, hx⟩ : ∃ x, x = List.zipWith (fun a b => a ^^^ b) rest ms := ⟨_, rfl⟩
  have hxl : x.length = 446 := by simp [hx, hrl, hml]
  have he : pssEncode mHash salt = ((0 ^^^ m0) &&& 0x7F) :: (x ++ h ++ [0xBC]) := by
    simp only [pssEncode, ← hh, hdb, hm, List.zipWith_cons_cons, ← hx]
    rfl
  have hxx : List.zipWith (fun a b => a ^^^ b) x ms = rest := by rw [hx]; exact zipWith_xor_xor hrl
  have hsl : slice (pssEncode mHash salt) 447 64 = h := by
    rw [he]; simp [slice, hxl, hl, zeros]
  have htk : (pssEncode mHash salt).take 447 = ((0 ^^^ m0) &&& 0x7F) :: x := by
    rw [he]; simp [hxl]
  have hbc : (pssEncode mHash salt).getD 511 0 = 0xBC := by
    rw [he]; simp [hxl, hl]
  have h0 : (pssEncode mHash salt).getD 0 0 = (0 ^^^ m0) &&& 0x7F := by rw [he]; rfl
  simp only [pssEncodedOk, hsl, htk, hbc, h0, hm, List.zipWith_cons_cons, hxx, (pssHead m0).1, (pssHead m0).2]
  obtain ⟨z, hz⟩ : ∃ z, z = zeros 381 := ⟨_, rfl⟩
  have hzl : z.length = 381 := by rw [hz, zeros_length]
  have hz0 : ∀ b ∈ z, b = (0 : Byte) := fun b hb => List.eq_of_mem_replicate (by rw [hz] at hb; exact hb)
  have hrest : rest = z ++ ([0x01] ++ salt) := by rw [hr, hz, List.append_assoc]
  have ht : rest.take 381 = z := by rw [hrest]; simp [hzl]
  have hd : rest.drop 382 = salt := by rw [hrest, List.drop_append, hzl, List.drop_eq_nil_of_le (by omega)]; rfl
  have hg : rest[381]? = some 1 := by rw [hrest, List.getElem?_append_right (by omega), hzl]; rfl
  have hg' : ((0 : Byte) :: rest).getD 382 0 = 1 := by rw [List.getD_eq_getElem?_getD, List.getElem?_cons_succ, hg]; rfl
  simp only [List.take_succ_cons, List.drop_succ_cons, ht, hd, ← hh, hg']
  simpa using hz0

/-- The bytes of a string's value are the string. -/
@[simp] theorem natLE_leNat : ∀ l : List Byte, natLE l.length (leNat l) = l
  | [] => rfl
  | b :: l => by
    have h1 : (b.toNat + 256 * leNat l) / 256 = leNat l := by have := b.isLt; omega
    have h2 : BitVec.ofNat 8 (b.toNat + 256 * leNat l) = b := by
      apply BitVec.eq_of_toNat_eq; have := b.isLt; simp only [BitVec.toNat_ofNat]; omega
    simp only [leNat, List.length_cons, natLE, h1, h2, natLE_leNat l]

/-- A string's value lies below the values of its length. -/
theorem leNat_lt : ∀ l : List Byte, leNat l < 256 ^ l.length
  | [] => by decide
  | b :: l => by
    have := leNat_lt l
    have := b.isLt
    simp only [leNat, List.length_cons, Nat.pow_succ]
    omega

/-- The value of a string with bytes above it. -/
theorem leNat_append : ∀ l m : List Byte, leNat (l ++ m) = leNat l + 256 ^ l.length * leNat m
  | [], m => by simp [leNat]
  | b :: l, m => by
    simp only [List.cons_append, leNat, leNat_append l m, List.length_cons, Nat.pow_succ]
    rw [Nat.mul_add, ← Nat.add_assoc, ← Nat.mul_assoc, Nat.mul_comm 256 (256 ^ l.length)]

/-- The big-endian value is the little-endian value of the string reversed. -/
theorem beNat_eq (l : List Byte) : beNat l = leNat l.reverse := by
  have key : ∀ (l : List Byte) (a : Nat), l.foldl (fun a b => a * 256 + b.toNat) a = leNat l.reverse + 256 ^ l.length * a := by
    intro l
    induction l with
    | nil => intro a; simp [leNat]
    | cons b l ih =>
      intro a
      rw [List.foldl_cons, ih, List.reverse_cons, leNat_append]
      simp only [leNat, List.length_reverse, List.length_cons, Nat.pow_succ, Nat.mul_zero, Nat.add_zero]
      rw [Nat.mul_add, ← Nat.mul_assoc, Nat.mul_right_comm, Nat.mul_assoc (256 ^ l.length) 256 a, Nat.mul_comm 256 a]
      omega
  simpa [beNat] using key l 0

/-- A string is the bytes of its big-endian value. -/
theorem natBE_beNat (l : List Byte) : natBE l.length (beNat l) = l := by
  have := natLE_leNat l.reverse
  rw [List.length_reverse] at this
  rw [natBE, beNat_eq, this, List.reverse_reverse]

/-- The value of a string by its first byte. -/
theorem beNat_cons (b : Byte) (l : List Byte) : beNat (b :: l) = b.toNat * 256 ^ l.length + beNat l := by
  rw [beNat_eq, List.reverse_cons, leNat_append, beNat_eq]
  simp only [leNat, List.length_reverse, Nat.mul_zero, Nat.add_zero]
  rw [Nat.mul_comm, Nat.add_comm]

/-- Nothing more is multiplied by an exponent of zero. -/
theorem modPow_zero (m : Nat) : ∀ (k b acc : Nat), modPow m k b 0 acc = acc
  | 0, _, _ => rfl
  | k + 1, b, acc => by simp [modPow, modPow_zero m k]

/-- The first power. -/
theorem modPow_one {m s : Nat} (k : Nat) (h : s < m) : modPow m (k + 1) s 1 1 = s := by
  simp [modPow, modPow_zero, Nat.mod_eq_of_lt h]

/-- An encoded message has 512 bytes, and its first bit is clear. -/
theorem pssEncode_head (mHash salt : List Byte) (hs : salt.length = 64) :
    ∃ b l, pssEncode mHash salt = b :: l ∧ b.toNat < 128 ∧ l.length = 511 := by
  obtain ⟨m0, ms, hm⟩ : ∃ m0 ms, mgf1 (sha512 (zeros 8 ++ mHash ++ salt)) 447 = m0 :: ms :=
    List.exists_cons_of_length_eq_add_one (mgf1_length _)
  have hml : ms.length = 446 := by have := mgf1_length (sha512 (zeros 8 ++ mHash ++ salt)); rw [hm] at this; simpa using this
  have hlt : ((0 ^^^ m0 : Byte) &&& 0x7F).toNat < 128 :=
    (by decide : ∀ m : Byte, ((0 ^^^ m : Byte) &&& 0x7F).toNat < 128) m0
  refine ⟨(0 ^^^ m0) &&& 0x7F, List.zipWith (fun a b => a ^^^ b) (zeros 381 ++ [0x01] ++ salt) ms ++ sha512 (zeros 8 ++ mHash ++ salt) ++ [0xBC], ?_, hlt, ?_⟩
  · simp only [pssEncode, hm]
    rfl
  · simp [hs, hml]

/-- A power of 256 is 256 times the one before. -/
theorem pow_step {n k : Nat} (h : n = k + 1) : (256 : Nat) ^ n = 256 * 256 ^ k := by rw [h, Nat.pow_succ, Nat.mul_comm]
/-- Powers of 256 are positive. -/
theorem pow_positive (n : Nat) : 0 < (256 : Nat) ^ n := Nat.pow_pos (by decide)

/-- An encoded message is its own signature under a 4,096-bit modulus of ones and the exponent 1. -/
theorem pssVerify_ones {key : List Byte} (hn : beNat (key.take 512) = 256 ^ 512 - 1) (he : beNat (slice key 512 4) = 1) (message salt : List Byte)
    (hs : salt.length = 64) : pssVerify key (pssEncode (sha512 message) salt) message = true := by
  obtain ⟨b, l, hbl, hb, hl⟩ := pssEncode_head (sha512 message) salt hs
  have hlen : (pssEncode (sha512 message) salt).length = 512 := by rw [hbl, List.length_cons, hl]
  have hlt : beNat (pssEncode (sha512 message) salt) < 256 ^ 512 - 1 := by
    have h1 := leNat_lt l.reverse
    rw [List.length_reverse, ← beNat_eq, hl] at h1
    rw [hbl, beNat_cons, hl]
    have h3 := pow_step (show 512 = 511 + 1 by decide)
    have h4 : 0 < (256 : Nat) ^ 511 := pow_positive 511
    rw [h3]
    generalize (256 : Nat) ^ 511 = k at *
    have h2 : b.toNat * k ≤ 127 * k := Nat.mul_le_mul_right _ (by omega)
    omega
  have hk := natBE_beNat (pssEncode (sha512 message) salt)
  rw [hlen] at hk
  have h31 : (32 : Nat) = 31 + 1 := rfl
  simp only [pssVerify, hn, he, hlen, hlt, h31, modPow_one _ hlt, hk, pssEncodedOk_pssEncode _ _ hs]
  rfl

end Sys2Proof.Machine
end

