-- ==== Sys2Proof/Laws/Memory.lean ====
section
/-!
SUPPORT. Memory keeps its canonical form under every operation, a read after a write gives the bytes written, and a write
leaves every other address alone.
-/
namespace Sys2Proof.Machine

/-- A form that holds from an address on holds from any lower one. -/
theorem Memory.wfFrom_lower {lo lo' : Nat} (h : lo' ≤ lo) : ∀ {m : Memory}, m.wfFrom lo = true → m.wfFrom lo' = true
  | [], _ => rfl
  | (a, b) :: m, hm => by
    simp only [Memory.wfFrom, Bool.and_eq_true, decide_eq_true_eq] at hm ⊢
    exact ⟨⟨by omega, hm.1.2⟩, hm.2⟩

/-- Below the first listed address every byte reads as unlisted. -/
theorem Memory.get_below {lo : Nat} : ∀ {m : Memory} {a : Nat}, m.wfFrom lo = true → a < lo → m.get a = Memory.unlisted
  | [], _, _, _ => rfl
  | (x, v) :: m, a, hm, ha => by
    simp only [Memory.wfFrom, Bool.and_eq_true, decide_eq_true_eq] at hm
    have h1 : a ≠ x := by omega
    have h2 : a < x := by omega
    simp [Memory.get, h1, h2]

/-- A byte set keeps the canonical form. -/
theorem Memory.wfFrom_set {b : Byte} : ∀ {m : Memory} {lo a : Nat}, m.wfFrom lo = true → lo ≤ a → (m.set a b).wfFrom lo = true
  | [], lo, a, _, ha => by
    by_cases hb : b = Memory.unlisted
    · simp [Memory.set, hb, Memory.wfFrom]
    · simp [Memory.set, hb, Memory.wfFrom, ha]
  | (x, v) :: m, lo, a, hm, ha => by
    have hm' := hm
    simp only [Memory.wfFrom, Bool.and_eq_true, decide_eq_true_eq] at hm
    obtain ⟨⟨hx, hv⟩, ht⟩ := hm
    by_cases h1 : a < x
    · by_cases hb : b = Memory.unlisted
      · simpa [Memory.set, h1, hb] using hm'
      · have h2 : a + 1 ≤ x := h1
        simp [Memory.set, h1, hb, Memory.wfFrom, ha, h2, hv, ht]
    · by_cases h2 : a = x
      · subst h2
        by_cases hb : b = Memory.unlisted
        · simpa [Memory.set, hb] using Memory.wfFrom_lower (Nat.le_succ_of_le ha) ht
        · simp [Memory.set, hb, Memory.wfFrom, ha, ht]
      · have h3 : x + 1 ≤ a := by omega
        have := Memory.wfFrom_set (b := b) ht h3
        simp [Memory.set, h1, h2, Memory.wfFrom, hx, hv, this]

/-- A byte set keeps the canonical form. -/
theorem Memory.wf_set {m : Memory} (h : m.wf = true) (a : Nat) (b : Byte) : (m.set a b).wf = true :=
  Memory.wfFrom_set h (Nat.zero_le a)

/-- Bytes written keep the canonical form. -/
theorem Memory.wf_write : ∀ (bs : List Byte) {m : Memory} (_ : m.wf = true) (a : Nat), (m.write a bs).wf = true
  | [], _, h, _ => h
  | _ :: bs, _, h, a => Memory.wf_write bs (Memory.wf_set h a _) (a + 1)

/-- A value written keeps the canonical form. -/
theorem Memory.wf_writeLE {m : Memory} (h : m.wf = true) (a n v : Nat) : (m.writeLE a n v).wf = true := Memory.wf_write _ h a

/-- Cells left out keep the canonical form. -/
theorem Memory.wfFrom_filter (p : Host.Cell → Bool) : ∀ {m : Memory} {lo : Nat}, m.wfFrom lo = true → Memory.wfFrom lo (m.filter p) = true
  | [], _, _ => rfl
  | (x, v) :: m, lo, hm => by
    simp only [Memory.wfFrom, Bool.and_eq_true, decide_eq_true_eq] at hm
    obtain ⟨⟨hx, hv⟩, ht⟩ := hm
    have ih := Memory.wfFrom_filter p ht
    by_cases hp : p (x, v) = true
    · simp [List.filter, hp, Memory.wfFrom, hx, hv, ih]
    · simpa [List.filter, hp] using Memory.wfFrom_lower (Nat.le_succ_of_le hx) ih

/-- Bytes cleared keep the canonical form. -/
theorem Memory.wf_clear {m : Memory} (h : m.wf = true) (a n : Nat) : (m.clear a n).wf = true := Memory.wfFrom_filter _ h

/-- The byte set is the byte read. -/
theorem Memory.get_set_same {b : Byte} : ∀ {m : Memory} {lo a : Nat}, m.wfFrom lo = true → (m.set a b).get a = b
  | [], _, a, _ => by
    by_cases hb : b = Memory.unlisted
    · simp [Memory.set, hb, Memory.get]
    · simp [Memory.set, hb, Memory.get]
  | (x, v) :: m, lo, a, hm => by
    simp only [Memory.wfFrom, Bool.and_eq_true, decide_eq_true_eq] at hm
    obtain ⟨⟨hx, hv⟩, ht⟩ := hm
    by_cases h1 : a < x
    · have h2 : a ≠ x := by omega
      by_cases hb : b = Memory.unlisted
      · simp [Memory.set, h1, hb, Memory.get, h2]
      · simp [Memory.set, h1, hb, Memory.get]
    · by_cases h2 : a = x
      · subst h2
        by_cases hb : b = Memory.unlisted
        · simpa [Memory.set, hb] using Memory.get_below ht (Nat.lt_succ_self a)
        · simp [Memory.set, hb, Memory.get]
      · simpa [Memory.set, h1, h2, Memory.get] using Memory.get_set_same ht

/-- A byte set leaves every other address alone. -/
theorem Memory.get_set_other {b : Byte} : ∀ {m : Memory} {lo a c : Nat}, m.wfFrom lo = true → c ≠ a → (m.set a b).get c = m.get c
  | [], _, a, c, _, hc => by
    by_cases hb : b = Memory.unlisted
    · simp [Memory.set, hb]
    · simp [Memory.set, hb, Memory.get, hc]
  | (x, v) :: m, lo, a, c, hm, hc => by
    simp only [Memory.wfFrom, Bool.and_eq_true, decide_eq_true_eq] at hm
    obtain ⟨⟨hx, hv⟩, ht⟩ := hm
    by_cases h1 : a < x
    · by_cases hb : b = Memory.unlisted
      · simp [Memory.set, h1, hb]
      · by_cases h3 : c < a
        · have h4 : c ≠ x := by omega
          have h5 : c < x := by omega
          simp [Memory.set, h1, hb, Memory.get, hc, h3, h4, h5]
        · simp [Memory.set, h1, hb, Memory.get, hc, h3]
    · by_cases h2 : a = x
      · subst h2
        by_cases hb : b = Memory.unlisted
        · by_cases h3 : c < a
          · have := Memory.get_below ht (Nat.lt_succ_of_lt h3)
            simp [Memory.set, hb, Memory.get, hc, h3, this]
          · simp [Memory.set, hb, Memory.get, hc, h3]
        · simp [Memory.set, hb, Memory.get, hc]
      · by_cases h3 : c = x
        · simp [Memory.set, h1, h2, Memory.get, h3]
        · by_cases h4 : c < x
          · simp [Memory.set, h1, h2, Memory.get, h3, h4]
          · simpa [Memory.set, h1, h2, Memory.get, h3, h4] using Memory.get_set_other ht hc

/-- A write leaves every address outside its bytes alone. -/
theorem Memory.get_write_outside : ∀ {bs : List Byte} {m : Memory} {a c : Nat}, m.wf = true → (c < a ∨ a + bs.length ≤ c) →
    (m.write a bs).get c = m.get c
  | [], _, _, _, _, _ => rfl
  | b :: bs, m, a, c, h, hc => by
    have hc' : c < a + 1 ∨ a + 1 + bs.length ≤ c := by
      simp only [List.length_cons] at hc; omega
    have hne : c ≠ a := by
      simp only [List.length_cons] at hc; omega
    rw [Memory.write, Memory.get_write_outside (Memory.wf_set h a b) hc', Memory.get_set_other h hne]

/-- A byte written is the byte read. -/
theorem Memory.get_write_inside : ∀ {bs : List Byte} {m : Memory} {a i : Nat} (_ : m.wf = true) (hi : i < bs.length),
    (m.write a bs).get (a + i) = bs[i]
  | b :: bs, m, a, 0, h, _ => by
    show ((m.set a b).write (a + 1) bs).get a = b
    rw [Memory.get_write_outside (Memory.wf_set h a b) (Or.inl (Nat.lt_succ_self a)), Memory.get_set_same h]
  | b :: bs, m, a, i + 1, h, hi => by
    have := Memory.get_write_inside (a := a + 1) (i := i) (Memory.wf_set h a b) (Nat.lt_of_succ_lt_succ hi)
    rw [Memory.write, show a + (i + 1) = a + 1 + i by omega, this]
    rfl

/-- The bytes written are the bytes read. -/
theorem Memory.read_write {bs : List Byte} {m : Memory} {a : Nat} (h : m.wf = true) : (m.write a bs).read a bs.length = bs := by
  apply List.ext_getElem
  · simp [Memory.read, tabulate]
  · intro i h1 h2
    simp only [Memory.read, tabulate, List.getElem_map, List.getElem_range]
    exact Memory.get_write_inside h h2

/-- Bytes beside those written read as before. -/
theorem Memory.read_write_outside {bs : List Byte} {m : Memory} {a c n : Nat} (h : m.wf = true) (hc : c + n ≤ a ∨ a + bs.length ≤ c) :
    (m.write a bs).read c n = m.read c n := by
  simp only [Memory.read, tabulate]
  refine List.map_congr_left (fun i hi => Memory.get_write_outside h ?_)
  have := List.mem_range.mp hi
  omega

end Sys2Proof.Machine
end

