-- ==== Sys2Proof/Laws/Keeps.lean ====
section
/-!
SUPPORT. What every operation keeps: one relation between the state before and the state after, reflexive and transitive, and one
lemma for each way in which an operation is put together.
-/
namespace Sys2Proof.Machine

/-! ### Fuses -/

/-- The fuses as they are. -/
theorem Fuses.Le.refl (f : Fuses) : Fuses.Le f f :=
  ⟨Nat.le_refl _, fun _ _ h => h, fun _ h => h, Nat.le_refl _, fun h => h, rfl, rfl, rfl, rfl, rfl⟩

/-- Blown, and blown further. -/
theorem Fuses.Le.trans {f g h : Fuses} (a : Fuses.Le f g) (b : Fuses.Le g h) : Fuses.Le f h := by
  obtain ⟨a0, a1, a2, a3, a4, a5, a6, a7, a8, a9⟩ := a
  obtain ⟨b0, b1, b2, b3, b4, b5, b6, b7, b8, b9⟩ := b
  exact ⟨Nat.le_trans a0 b0, fun c x y => b1 c x (a1 c x y), fun c x => b2 c (a2 c x), Nat.le_trans a3 b3, fun x => b4 (a4 x),
    b5.trans a5, b6.trans a6, b7.trans a7, b8.trans a8, b9.trans a9⟩

/-- A revocation blown. -/
theorem Fuses.Le.revoke (f : Fuses) (c : Nat) : Fuses.Le f { f with revoked := setBit f.revoked c } :=
  ⟨Nat.le_refl _, fun _ _ h => h, fun i h => by simp only [bit, setBit, Nat.testBit_or] at h ⊢; simp [h], Nat.le_refl _, fun h => h, rfl, rfl, rfl,
    rfl, rfl⟩

/-- The rollback counter raised. -/
theorem Fuses.Le.rollBack (f : Fuses) (v : Nat) : Fuses.Le f { f with rollback := Max.max f.rollback v } :=
  ⟨Nat.le_refl _, fun _ _ h => h, fun _ h => h, Nat.le_max_left _ _, fun h => h, rfl, rfl, rfl, rfl, rfl⟩

/-- SIGN_REQUIRED blown. -/
theorem Fuses.Le.sign (f : Fuses) : Fuses.Le f { f with signRequired := true } :=
  ⟨Nat.le_refl _, fun _ _ h => h, fun _ h => h, Nat.le_refl _, fun _ => rfl, rfl, rfl, rfl, rfl, rfl⟩

/-- A lifecycle state blown. -/
theorem Fuses.Le.advance (f : Fuses) (v : Nat) : Fuses.Le f { f with life := Max.max f.life v } :=
  ⟨Nat.le_max_left _ _, fun _ _ h => h, fun _ h => h, Nat.le_refl _, fun h => h, rfl, rfl, rfl, rfl, rfl⟩

/-- SCRAPPED blown, with the device key's private part and its certificate. -/
theorem Fuses.Le.scrap (f : Fuses) (v : Nat) (c : List Byte) :
    Fuses.Le f { f with life := Max.max f.life v, devKey := { f.devKey with d := none }, cert := c } :=
  ⟨Nat.le_max_left _ _, fun _ _ h => h, fun _ h => h, Nat.le_refl _, fun h => h, rfl, rfl, rfl, rfl, rfl⟩

/-- The hash of an empty key slot blown. -/
theorem Fuses.Le.slot (f : Fuses) (c : Nat) (k : List Byte) :
    Fuses.Le f (if (f.slotHash.getD c none).isSome then f else { f with slotHash := f.slotHash.set c (some k) }) := by
  by_cases hs : (f.slotHash.getD c none).isSome = true
  · rw [if_pos hs]; exact Fuses.Le.refl f
  · rw [if_neg hs]
    refine ⟨Nat.le_refl _, fun i x hx => ?_, fun _ h => h, Nat.le_refl _, fun h => h, rfl, rfl, rfl, rfl, rfl⟩
    by_cases hi : c = i
    · subst hi
      simp [hx] at hs
    · simpa [List.getElem?_set, hi] using hx

/-! ### Dies -/

/-- What becomes of a die: its HBM keeps its form, its fuses only advance. -/
structure Die.Keeps (x y : Die) : Prop where
  hbm : x.hbm.wf = true → y.hbm.wf = true
  fuse : Fuses.Le x.fuse y.fuse

/-- A die as it is. -/
theorem Die.Keeps.refl (x : Die) : Die.Keeps x x := ⟨fun h => h, Fuses.Le.refl _⟩

/-- One change after another. -/
theorem Die.Keeps.trans {x y z : Die} (a : Die.Keeps x y) (b : Die.Keeps y z) : Die.Keeps x z :=
  ⟨fun h => b.hbm (a.hbm h), a.fuse.trans b.fuse⟩

/-- A change of other fields. -/
theorem Die.Keeps.upd {x y z : Die} (h : Die.Keeps x y) (e1 : z.hbm = y.hbm) (e2 : z.fuse = y.fuse) : Die.Keeps x z :=
  ⟨fun w => e1 ▸ h.hbm w, e2 ▸ h.fuse⟩

/-- A change of HBM that keeps its form. -/
theorem Die.Keeps.updHbm {x y z : Die} (h : Die.Keeps x y) (e1 : y.hbm.wf = true → z.hbm.wf = true) (e2 : z.fuse = y.fuse) :
    Die.Keeps x z :=
  ⟨fun w => e1 (h.hbm w), e2 ▸ h.fuse⟩

/-- A fold of changes. -/
theorem Die.Keeps.foldl {α : Type} {g : Die → α → Die} {x : Die} (hg : ∀ y a, Die.Keeps x y → Die.Keeps x (g y a)) :
    ∀ {l : List α} {y : Die}, Die.Keeps x y → Die.Keeps x (l.foldl g y)
  | [], _, h => h
  | a :: l, y, h => Die.Keeps.foldl hg (l := l) (hg y a h)

/-- Die by die. -/
def Die.KeepsAll : List Die → List Die → Prop
  | [], [] => True
  | x :: l, y :: m => Die.Keeps x y ∧ Die.KeepsAll l m
  | _, _ => False

/-- Dies as they are. -/
theorem Die.KeepsAll.refl : ∀ l : List Die, Die.KeepsAll l l
  | [] => trivial
  | x :: l => ⟨Die.Keeps.refl x, Die.KeepsAll.refl l⟩

/-- Lists of dies, one change after another. -/
theorem Die.KeepsAll.trans : ∀ {a b c : List Die}, Die.KeepsAll a b → Die.KeepsAll b c → Die.KeepsAll a c
  | [], [], [], _, _ => trivial
  | _ :: _, _ :: _, _ :: _, h, h' => ⟨h.1.trans h'.1, Die.KeepsAll.trans h.2 h'.2⟩
  | [], _ :: _, _, h, _ => h.elim
  | _ :: _, [], _, h, _ => h.elim
  | [], [], _ :: _, _, h => h.elim
  | _ :: _, _ :: _, [], _, h => h.elim

/-- A die of a list changed. -/
theorem Die.KeepsAll.modify {f : Die → Die} (hf : ∀ x, Die.Keeps x (f x)) : ∀ (l : List Die) (d : Nat), Die.KeepsAll l (l.modify d f)
  | [], d => by simp [Die.KeepsAll]
  | x :: l, 0 => by
    rw [List.modify_zero_cons]
    exact ⟨hf x, Die.KeepsAll.refl l⟩
  | x :: l, d + 1 => by
    rw [List.modify_succ_cons]
    exact ⟨Die.Keeps.refl x, Die.KeepsAll.modify hf l d⟩

/-- Every die of a list changed. -/
theorem Die.KeepsAll.map {f : Die → Die} (hf : ∀ x, Die.Keeps x (f x)) : ∀ l : List Die, Die.KeepsAll l (l.map f)
  | [] => trivial
  | x :: l => ⟨hf x, Die.KeepsAll.map hf l⟩

/-- Every die of a list changed, by its number. -/
theorem Die.KeepsAll.zipMap {f : Die × Nat → Die} (hf : ∀ x n, Die.Keeps x (f (x, n))) : ∀ (l : List Die) (k : Nat),
    Die.KeepsAll l ((l.zipIdx k).map f)
  | [], _ => trivial
  | x :: l, k => ⟨hf x k, Die.KeepsAll.zipMap hf l (k + 1)⟩

/-- Every die started anew with its fuses. -/
theorem Die.KeepsAll.fuses : ∀ l : List Die, Die.KeepsAll l ((l.map (·.fuse)).map Die.reset)
  | [] => trivial
  | x :: l => ⟨⟨fun _ => rfl, Fuses.Le.refl _⟩, Die.KeepsAll.fuses l⟩

/-- As many dies as before. -/
theorem Die.KeepsAll.length : ∀ {l m : List Die}, Die.KeepsAll l m → m.length = l.length
  | [], [], _ => rfl
  | _ :: _, _ :: _, h => by simp [Die.KeepsAll.length h.2]
  | [], _ :: _, h => h.elim
  | _ :: _, [], h => h.elim

/-- The die of each number. -/
theorem Die.KeepsAll.getD : ∀ {l m : List Die} (_ : Die.KeepsAll l m) (d : Nat) (z : Die), Die.Keeps (l.getD d z) (m.getD d z)
  | [], [], _, _, z => Die.Keeps.refl z
  | _ :: _, _ :: _, h, 0, _ => h.1
  | _ :: _, _ :: _, h, d + 1, z => by simpa using Die.KeepsAll.getD h.2 d z
  | [], _ :: _, h, _, _ => h.elim
  | _ :: _, [], h, _, _ => h.elim

/-- The form of HBM on every die. -/
theorem Die.KeepsAll.hbm : ∀ {l m : List Die}, Die.KeepsAll l m → (∀ x ∈ l, x.hbm.wf = true) → ∀ x ∈ m, x.hbm.wf = true
  | [], [], _, _, _, hx => by cases hx
  | x :: l, y :: m, h, hl, z, hz => by
    cases hz with
    | head => exact h.1.hbm (hl x (List.mem_cons_self ..))
    | tail _ hz => exact Die.KeepsAll.hbm h.2 (fun w hw => hl w (List.mem_cons_of_mem _ hw)) z hz
  | [], _ :: _, h, _, _, _ => h.elim
  | _ :: _, [], h, _, _, _ => h.elim

/-! ### The state -/

/-- What an operation keeps: the part, the form of its memories, the number of its ports, what a latched PACKAGE_FATAL shows, the
commands that wait; with `board`, also what only start-up, resets, security, time and the pins' commands change. -/
structure State.Keeps (board : Bool) (s t : State) : Prop where
  ident : t.ident = s.ident
  dies : Die.KeepsAll s.dies t.dies
  ports : s.ports.length = 2 → t.ports.length = 2
  host : s.host.wf = true → t.host.wf = true
  fatal : s.FatalShown → t.FatalShown
  pending : t.pending = s.pending
  frame : board = true → State.SameBoard s t

variable {o : Bool} {s t u : State}

/-- A state as it is. -/
theorem State.Keeps.refl (o : Bool) (s : State) : State.Keeps o s s :=
  ⟨rfl, Die.KeepsAll.refl s.dies, fun h => h, fun h => h, fun h => h, rfl,
    fun _ => ⟨rfl, .inl rfl, rfl, rfl, rfl, rfl⟩⟩

/-- One operation after another. -/
theorem State.Keeps.trans (a : State.Keeps o s t) (b : State.Keeps o t u) : State.Keeps o s u :=
  ⟨b.ident.trans a.ident, Die.KeepsAll.trans a.dies b.dies, fun h => b.ports (a.ports h), fun h => b.host (a.host h),
    fun h => b.fatal (a.fatal h), b.pending.trans a.pending,
    fun h => by
      obtain ⟨a1, a2, a3, a4, a5, a6⟩ := a.frame h
      obtain ⟨b1, b2, b3, b4, b5, b6⟩ := b.frame h
      refine ⟨b1.trans a1, ?_, b3.trans a3, b4.trans a4, b5.trans a5, b6.trans a6⟩
      rcases a2 with a2 | a2 <;> rcases b2 with b2 | b2 <;> rw [b2, a2]
      · exact .inl rfl
      all_goals exact .inr rfl⟩

/-- Without the board. -/
theorem State.Keeps.weaken (h : State.Keeps true s t) : State.Keeps o s t :=
  ⟨h.ident, h.dies, h.ports, h.host, h.fatal, h.pending, fun _ => h.frame rfl⟩

/-- A change of fields that the relation does not speak of. -/
theorem State.Keeps.upd (h : State.Keeps o s t) (e1 : u.ident = t.ident) (e2 : u.dies = t.dies) (e3 : u.ports = t.ports)
    (e4 : u.host = t.host) (e5 : u.pins = t.pins) (e6 : u.pending = t.pending) (e7 : State.SameBoard t u) : State.Keeps o s u :=
  h.trans ⟨e1, e2 ▸ Die.KeepsAll.refl _, fun w => e3 ▸ w, fun w => e4 ▸ w,
    fun w f => by rw [e5] at f ⊢; exact w f, e6, fun _ => e7⟩

/-- The same without the board. -/
theorem State.Keeps.updBoard (h : State.Keeps false s t) (e1 : u.ident = t.ident) (e2 : u.dies = t.dies) (e3 : u.ports = t.ports)
    (e4 : u.host = t.host) (e5 : u.pins = t.pins) (e6 : u.pending = t.pending) : State.Keeps false s u :=
  h.trans ⟨e1, e2 ▸ Die.KeepsAll.refl _, fun w => e3 ▸ w, fun w => e4 ▸ w,
    fun w f => by rw [e5] at f ⊢; exact w f, e6, fun h => by cases h⟩

/-- A change of the pins that shows a latched PACKAGE_FATAL. -/
theorem State.Keeps.updPins (h : State.Keeps o s t) (e1 : u.ident = t.ident) (e2 : u.dies = t.dies) (e3 : u.ports = t.ports)
    (e4 : u.host = t.host) (e5 : t.FatalShown → u.FatalShown) (e6 : u.pending = t.pending) (e7 : o = true → State.SameBoard t u) :
    State.Keeps o s u :=
  h.trans ⟨e1, e2 ▸ Die.KeepsAll.refl _, fun w => e3 ▸ w, fun w => e4 ▸ w, e5, e6, e7⟩

/-- A change of the ports that leaves as many. -/
theorem State.Keeps.updPorts (h : State.Keeps o s t) (e1 : u.ident = t.ident) (e2 : u.dies = t.dies)
    (e3 : u.ports.length = t.ports.length) (e4 : u.host = t.host) (e5 : u.pins = t.pins) (e6 : u.pending = t.pending)
    (e7 : o = true → State.SameBoard t u) : State.Keeps o s u :=
  h.trans ⟨e1, e2 ▸ Die.KeepsAll.refl _, fun w => e3 ▸ w, fun w => e4 ▸ w,
    fun w f => by rw [e5] at f ⊢; exact w f, e6, e7⟩

/-- The outstanding challenge discarded (R668). -/
theorem State.Keeps.dropChallenge (h : State.Keeps o s t) :
    State.Keeps o s { t with sec := { t.sec with challenge := none } } :=
  h.upd rfl rfl rfl rfl rfl rfl ⟨rfl, .inr rfl, rfl, rfl, rfl, rfl⟩

/-- A fold of operations. -/
theorem State.Keeps.foldl {α : Type} {g : State → α → State} (hg : ∀ y a, State.Keeps o s y → State.Keeps o s (g y a)) :
    ∀ {l : List α} {y : State}, State.Keeps o s y → State.Keeps o s (l.foldl g y)
  | [], _, h => h
  | a :: l, y, h => State.Keeps.foldl hg (l := l) (hg y a h)

/-- A die changed. -/
theorem State.Keeps.modDie (h : State.Keeps o s t) {d : Nat} {f : Die → Die} (hf : ∀ x, Die.Keeps x (f x)) :
    State.Keeps o s (t.modDie d f) :=
  h.trans ⟨rfl, Die.KeepsAll.modify hf t.dies d, fun w => w, fun w => w, fun w => w, rfl, fun _ => ⟨rfl, .inl rfl, rfl, rfl, rfl, rfl⟩⟩

/-- Every die changed. -/
theorem State.Keeps.modDies (h : State.Keeps o s t) {f : Die → Die} (hf : ∀ x, Die.Keeps x (f x)) : State.Keeps o s (t.modDies f) :=
  h.trans ⟨rfl, Die.KeepsAll.map hf t.dies, fun w => w, fun w => w, fun w => w, rfl, fun _ => ⟨rfl, .inl rfl, rfl, rfl, rfl, rfl⟩⟩

/-- A port changed. -/
theorem State.Keeps.modPort (h : State.Keeps o s t) {k : Nat} {f : Port → Port} : State.Keeps o s (t.modPort k f) :=
  h.updPorts rfl rfl (by simp [State.modPort]) rfl rfl rfl (fun _ => ⟨rfl, .inl rfl, rfl, rfl, rfl, rfl⟩)

/-- The registers changed. -/
theorem State.Keeps.modRegs (h : State.Keeps o s t) {f : Regs → Regs} : State.Keeps o s (t.modRegs f) :=
  h.upd rfl rfl rfl rfl rfl rfl ⟨rfl, .inl rfl, rfl, rfl, rfl, rfl⟩

/-- The state after an operation that answers a pair. -/
theorem State.Keeps.ofPair {α : Type} {p : α × State} {a : α} {v : State} (e : p = (a, v)) (h : State.Keeps o s p.2) : State.Keeps o s v := by
  subst e; exact h

/-! ### Record updates -/

/-- Fields that the relation does not speak of, replaced. -/
theorem State.Keeps.rest (h : State.Keeps o s t) {x7 : Regs} {x8 : Msix} {x10 : KMap Queue} {x11 : List Job}
    {x12 : Nat} {x13 : KMap PlanSlot} {x14 : KMap World} {x15 : KMap BodySlot} {x16 : KMap SyncObj}
    {x17 : List (Nat × Nat)} {x18 : KMap Flow} {x19 : KMap Chan} {x20 : List StoreWrite} {x21 : List CtrlMsg}
    {x22 : Supervisor} {x24 : TraceMem} {x27 : Option Nat} {x28 : Nat} : State.Keeps o s
    { now := t.now, ident := t.ident, dies := t.dies, sec := t.sec, boot := t.boot, pins := t.pins, pps := t.pps,
      regs := x7, msix := x8, ports := t.ports, queues := x10, jobs := x11, dispatchCount := x12, plans := x13,
      worlds := x14, bodies := x15, syncs := x16, openAborts := x17, flows := x18, chans := x19, storeWrites := x20,
      ctrl := x21, sup := x22, sideband := t.sideband, traceMem := x24, testPort := t.testPort, host := t.host,
      badWrite := x27, free := x28, pending := t.pending } :=
  h.upd rfl rfl rfl rfl rfl rfl ⟨rfl, .inl rfl, rfl, rfl, rfl, rfl⟩

/-- The same without the board. -/
theorem State.Keeps.restBoard (h : State.Keeps false s t) {x0 : Nat} {x3 : Security} {x4 : Boot} {x6 : Pps}
    {x7 : Regs} {x8 : Msix} {x10 : KMap Queue} {x11 : List Job} {x12 : Nat} {x13 : KMap PlanSlot} {x14 : KMap World}
    {x15 : KMap BodySlot} {x16 : KMap SyncObj} {x17 : List (Nat × Nat)} {x18 : KMap Flow} {x19 : KMap Chan}
    {x20 : List StoreWrite} {x21 : List CtrlMsg} {x22 : Supervisor} {x23 : Sideband} {x24 : TraceMem} {x25 : TestPort}
    {x27 : Option Nat} {x28 : Nat} : State.Keeps false s
    { now := x0, ident := t.ident, dies := t.dies, sec := x3, boot := x4, pins := t.pins, pps := x6, regs := x7,
      msix := x8, ports := t.ports, queues := x10, jobs := x11, dispatchCount := x12, plans := x13, worlds := x14,
      bodies := x15, syncs := x16, openAborts := x17, flows := x18, chans := x19, storeWrites := x20, ctrl := x21,
      sup := x22, sideband := x23, traceMem := x24, testPort := x25, host := t.host, badWrite := x27, free := x28,
      pending := t.pending } :=
  h.updBoard rfl rfl rfl rfl rfl rfl

/-- The pins replaced too. -/
theorem State.Keeps.pins (h : State.Keeps o s t) {x5 : Pins} {x7 : Regs} {x8 : Msix} {x10 : KMap Queue}
    {x11 : List Job} {x12 : Nat} {x13 : KMap PlanSlot} {x14 : KMap World} {x15 : KMap BodySlot} {x16 : KMap SyncObj}
    {x17 : List (Nat × Nat)} {x18 : KMap Flow} {x19 : KMap Chan} {x20 : List StoreWrite} {x21 : List CtrlMsg}
    {x22 : Supervisor} {x24 : TraceMem} {x27 : Option Nat} {x28 : Nat}
    (hp : (t.pins.fatal = true → t.pins.healthy = false ∧ t.pins.faultN = false) → x5.fatal = true → x5.healthy = false ∧ x5.faultN = false)
    : State.Keeps o s
    { now := t.now, ident := t.ident, dies := t.dies, sec := t.sec, boot := t.boot, pins := x5, pps := t.pps,
      regs := x7, msix := x8, ports := t.ports, queues := x10, jobs := x11, dispatchCount := x12, plans := x13,
      worlds := x14, bodies := x15, syncs := x16, openAborts := x17, flows := x18, chans := x19, storeWrites := x20,
      ctrl := x21, sup := x22, sideband := t.sideband, traceMem := x24, testPort := t.testPort, host := t.host,
      badWrite := x27, free := x28, pending := t.pending } :=
  h.updPins rfl rfl rfl rfl hp rfl (fun _ => ⟨rfl, .inl rfl, rfl, rfl, rfl, rfl⟩)

/-- Memory replaced too. -/
theorem State.Keeps.memory (h : State.Keeps o s t) {x7 : Regs} {x8 : Msix} {x10 : KMap Queue} {x11 : List Job}
    {x12 : Nat} {x13 : KMap PlanSlot} {x14 : KMap World} {x15 : KMap BodySlot} {x16 : KMap SyncObj}
    {x17 : List (Nat × Nat)} {x18 : KMap Flow} {x19 : KMap Chan} {x20 : List StoreWrite} {x21 : List CtrlMsg}
    {x22 : Supervisor} {x24 : TraceMem} {x26 : Memory} {x27 : Option Nat} {x28 : Nat}
    (hm : t.host.wf = true → Memory.wf x26 = true) : State.Keeps o s
    { now := t.now, ident := t.ident, dies := t.dies, sec := t.sec, boot := t.boot, pins := t.pins, pps := t.pps,
      regs := x7, msix := x8, ports := t.ports, queues := x10, jobs := x11, dispatchCount := x12, plans := x13,
      worlds := x14, bodies := x15, syncs := x16, openAborts := x17, flows := x18, chans := x19, storeWrites := x20,
      ctrl := x21, sup := x22, sideband := t.sideband, traceMem := x24, testPort := t.testPort, host := x26,
      badWrite := x27, free := x28, pending := t.pending } :=
  h.trans ⟨rfl, Die.KeepsAll.refl _, fun w => w, hm, fun w => w, rfl, fun _ => ⟨rfl, .inl rfl, rfl, rfl, rfl, rfl⟩⟩

/-- Fields of a die that the relation does not speak of, replaced. -/
theorem Die.Keeps.rest {x y : Die} (h : Die.Keeps x y) {x0 : Bool} {x1 : Bool} {x3 : List (Option (List Byte))}
    {x4 : Bool} {x5 : Option Nat} {x6 : Option Firmware} {x7 : Nat} {x8 : Bool} {x9 : DiePower} {x10 : Spares}
    {x11 : List Partition} {x12 : List InjSlot} {x13 : Bool} {x14 : Bool} {x15 : KMap Arb} {x17 : List (Nat × Nat)}
    {x18 : List (Nat × Nat)} {x19 : List ((Nat × Nat) × Option (Nat × Nat))} {x20 : List (Nat × Nat × Nat)}
    {x21 : List (Nat × Nat)} {x22 : Nat} {x23 : List (Nat × Nat)} {x24 : List Flip} {x25 : List CacheLine}
    {x26 : List Nat} {x27 : KMap (List (Nat × Nat))} {x28 : List Nat} {x29 : List Nat} {x30 : List Bool} {x31 : Bool}
    {x32 : List Cluster} {x33 : KMap Slot} {x34 : List GeoTest} {x35 : KMap WarmEnt} {x36 : KMap DieWorld}
    {x37 : Ledger} {x38 : List Peer} {x39 : KMap TestUnit} {x40 : List (Nat × Nat)} {x41 : Nat} {x42 : List ErrRec}
    {x43 : Nat} {x44 : Trace} {x45 : List (Nat × Nat)} : Die.Keeps x
    { lost := x0, returning := x1, fuse := y.fuse, keys := x3, keyReady := x4, vaultWork := x5, fw := x6, gtc := x7,
      gtcRun := x8, power := x9, spares := x10, parts := x11, inj := x12, injUnlocked := x13, injRefused := x14,
      arbs := x15, hbm := y.hbm, poison := x17, injected := x18, repairs := x19, innerSev := x20, corrLogged := x21,
      scrubFrom := x22, scrubbed := x23, flips := x24, wsLines := x25, fills := x26, l0Cache := x27, lattices := x28,
      lanesUmlin := x29, linksUp := x30, stays := x31, clusters := x32, slots := x33, tests := x34, warm := x35,
      worlds := x36, ldg := x37, peers := x38, units := x39, charges := x40, dseq := x41, unacked := x42, sent := x43,
      trace := x44, reserved := x45 } :=
  h.upd rfl rfl

/-- HBM replaced too. -/
theorem Die.Keeps.memory {x y : Die} (h : Die.Keeps x y) {x0 : Bool} {x1 : Bool} {x3 : List (Option (List Byte))}
    {x4 : Bool} {x5 : Option Nat} {x6 : Option Firmware} {x7 : Nat} {x8 : Bool} {x9 : DiePower} {x10 : Spares}
    {x11 : List Partition} {x12 : List InjSlot} {x13 : Bool} {x14 : Bool} {x15 : KMap Arb} {x16 : Memory}
    {x17 : List (Nat × Nat)} {x18 : List (Nat × Nat)} {x19 : List ((Nat × Nat) × Option (Nat × Nat))}
    {x20 : List (Nat × Nat × Nat)} {x21 : List (Nat × Nat)} {x22 : Nat} {x23 : List (Nat × Nat)} {x24 : List Flip}
    {x25 : List CacheLine} {x26 : List Nat} {x27 : KMap (List (Nat × Nat))} {x28 : List Nat} {x29 : List Nat}
    {x30 : List Bool} {x31 : Bool} {x32 : List Cluster} {x33 : KMap Slot} {x34 : List GeoTest} {x35 : KMap WarmEnt}
    {x36 : KMap DieWorld} {x37 : Ledger} {x38 : List Peer} {x39 : KMap TestUnit} {x40 : List (Nat × Nat)} {x41 : Nat}
    {x42 : List ErrRec} {x43 : Nat} {x44 : Trace} {x45 : List (Nat × Nat)}
    (hm : y.hbm.wf = true → Memory.wf x16 = true) : Die.Keeps x
    { lost := x0, returning := x1, fuse := y.fuse, keys := x3, keyReady := x4, vaultWork := x5, fw := x6, gtc := x7,
      gtcRun := x8, power := x9, spares := x10, parts := x11, inj := x12, injUnlocked := x13, injRefused := x14,
      arbs := x15, hbm := x16, poison := x17, injected := x18, repairs := x19, innerSev := x20, corrLogged := x21,
      scrubFrom := x22, scrubbed := x23, flips := x24, wsLines := x25, fills := x26, l0Cache := x27, lattices := x28,
      lanesUmlin := x29, linksUp := x30, stays := x31, clusters := x32, slots := x33, tests := x34, warm := x35,
      worlds := x36, ldg := x37, peers := x38, units := x39, charges := x40, dseq := x41, unacked := x42, sent := x43,
      trace := x44, reserved := x45 } :=
  h.updHbm hm rfl

/-! ### Outcomes -/

/-- What a command's outcome keeps, where it is a next state. -/
def State.KeepsOut (o : Bool) (s : State) (r : Host.Outcome State Fault Refusal) : Prop := ∀ t, r = .next t → State.Keeps o s t

/-- What a state keeps, where there is one. -/
def State.KeepsOpt (o : Bool) (s : State) (r : Option State) : Prop := ∀ t, r = some t → State.Keeps o s t

/-- A state there is. -/
theorem State.KeepsOpt.some (h : State.Keeps o s t) : State.KeepsOpt o s (some t) := fun _ e => by cases e; exact h
/-- No state. -/
theorem State.KeepsOpt.none : State.KeepsOpt o s none := fun _ e => by cases e

/-- A choice between two. -/
theorem State.KeepsOpt.ite {c : Prop} [Decidable c] {a b : Option State} (ha : State.KeepsOpt o s a) (hb : State.KeepsOpt o s b) :
    State.KeepsOpt o s (if c then a else b) := by split <;> assumption
/-- A choice between two states. -/
theorem State.Keeps.ite {c : Prop} [Decidable c] {a b : State} (ha : State.Keeps o s a) (hb : State.Keeps o s b) :
    State.Keeps o s (if c then a else b) := by split <;> assumption

/-- The outcome of a command that had an effect. -/
theorem State.KeepsOut.next (h : State.Keeps o s t) : State.KeepsOut o s (.next t) := fun _ e => by cases e; exact h
/-- The same, by its name. -/
theorem State.KeepsOut.done (h : State.Keeps o s t) : State.KeepsOut o s t.done := State.KeepsOut.next h
/-- The outcome of a command whose condition is not met. -/
theorem State.KeepsOut.idle (h : State.Keeps o s t) : State.KeepsOut o s t.idle := State.KeepsOut.next h

end Sys2Proof.Machine
end

