-- ==== Sys2Proof/Laws/KeepsOps.lean ====
section
/-!
SUPPORT. Every operation on a die or on the state keeps what the relation says: one lemma each, by the file of its definition.
-/
namespace Sys2Proof.Machine

/-! ### Ops -/

theorem State.raised_keeps {bd : Bool} {zz s : State} {k : Nat} (h : State.Keeps bd zz s) : State.Keeps bd zz
    (State.raised s k) := by
  unfold State.raised
  try dsimp only
  repeat' first | with_reducible assumption | with_reducible apply State.Keeps.modRegs

theorem State.modQueue_keeps {bd : Bool} {zz s : State} {q : Nat} {f : Queue → Queue} (h : State.Keeps bd zz s) :
    State.Keeps bd zz (State.modQueue s q f) := by
  unfold State.modQueue
  try dsimp only
  repeat' first | with_reducible assumption | with_reducible apply State.Keeps.rest

theorem State.modJob_keeps {bd : Bool} {zz s : State} {q n : Nat} {f : Job → Job} (h : State.Keeps bd zz s) : State.Keeps
    bd zz (State.modJob s q n f) := by
  unfold State.modJob
  try dsimp only
  repeat' first | with_reducible assumption | with_reducible apply State.Keeps.rest

theorem State.setPhase_keeps {bd : Bool} {zz s : State} {q : Nat} {n k : Nat} (h : State.Keeps bd zz s) : State.Keeps bd
    zz (State.setPhase s q n k) := by
  unfold State.setPhase
  try dsimp only
  repeat' first | with_reducible assumption | with_reducible apply State.modJob_keeps

theorem State.dropJob_keeps {bd : Bool} {zz s : State} {q n : Nat} (h : State.Keeps bd zz s) : State.Keeps bd zz
    (State.dropJob s q n) := by
  unfold State.dropJob
  try dsimp only
  repeat' first | with_reducible assumption | with_reducible apply State.Keeps.rest

theorem State.modPart_keeps {bd : Bool} {zz s : State} {d p : Nat} {f : Partition → Partition} (h : State.Keeps bd zz s) :
    State.Keeps bd zz (State.modPart s d p f) := by
  unfold State.modPart
  try dsimp only
  repeat' first
    | with_reducible assumption | with_reducible refine State.Keeps.modDie ?_ (fun _ => ?_)
    | with_reducible exact Die.Keeps.refl _ | with_reducible apply Die.Keeps.rest

theorem State.fresh_keeps {bd : Bool} {zz s : State} (h : State.Keeps bd zz s) : State.Keeps bd zz (State.fresh s).2 := by
  unfold State.fresh
  try dsimp only
  repeat' first | with_reducible assumption | with_reducible apply State.Keeps.rest

theorem State.merge_keeps {bd : Bool} {zz s : State} {hv : HostView} (h : State.Keeps bd zz s) : State.Keeps bd zz
    (State.merge s hv) := by
  unfold State.merge
  refine State.Keeps.memory h (fun w => ?_)
  generalize s.host = m at w
  induction hv.writes generalizing m with
  | nil => exact w
  | cons e l ih =>
    refine ih _ ?_
    dsimp only
    split
    · exact Memory.wf_write _ w _
    · exact w

theorem State.writeHost_keeps {bd : Bool} {zz s : State} {a : Nat} {bs : List Byte} (h : State.Keeps bd zz s) :
    State.Keeps bd zz (State.writeHost s a bs) := by
  unfold State.writeHost
  split
  · exact State.Keeps.memory h (fun w => Memory.wf_write _ w _)
  · exact State.Keeps.rest h

theorem State.done_keeps {bd : Bool} {zz s : State} (h : State.Keeps bd zz s) : State.KeepsOut bd zz (State.done s) := by
  unfold State.done
  try dsimp only
  repeat' first | with_reducible assumption | with_reducible apply State.KeepsOut.next

theorem State.idle_keeps {bd : Bool} {zz s : State} (h : State.Keeps bd zz s) : State.KeepsOut bd zz (State.idle s) := by
  unfold State.idle
  try dsimp only
  repeat' first | with_reducible assumption | with_reducible apply State.KeepsOut.next

theorem Die.writeLine_keeps {zz x : Die} {pc line : Nat} {bs : List Byte} (h : Die.Keeps zz x) : Die.Keeps zz
    (Die.writeLine x pc line bs) := by
  unfold Die.writeLine
  exact Die.Keeps.memory h (fun w => Memory.wf_write _ (Memory.wf_write _ w _) _)

theorem Die.recheck_keeps {zz y : Die} {x n : Nat} (h : Die.Keeps zz y) : Die.Keeps zz (Die.recheck y x n) := by
  unfold Die.recheck
  try dsimp only
  repeat' first
    | with_reducible assumption | with_reducible apply Die.writeLine_keeps
    | refine Die.Keeps.foldl (fun _ _ _ => ?_) ?_

theorem Die.writeHbm_keeps {zz y : Die} {x : Nat} {bs : List Byte} (h : Die.Keeps zz y) : Die.Keeps zz
    (Die.writeHbm y x bs) := by
  unfold Die.writeHbm
  dsimp only
  refine Die.recheck_keeps (Die.Keeps.memory (y := _) h (fun w => ?_))
  generalize Die.hbm _ = m at w ⊢
  induction (List.range bs.length).zip bs generalizing m with
  | nil => exact w
  | cons e l ih => exact ih _ (Memory.wf_set w _ _)

theorem Die.clearHbm_keeps {zz y : Die} {x n : Nat} (h : Die.Keeps zz y) : Die.Keeps zz (Die.clearHbm y x n) := by
  unfold Die.clearHbm
  exact Die.Keeps.memory h (fun w => Memory.wfFrom_filter _ w)

theorem Die.moveHbm_keeps {zz x : Die} {f : Nat} {t n : Nat} (h : Die.Keeps zz x) : Die.Keeps zz (Die.moveHbm x f t n) := by
  unfold Die.moveHbm
  dsimp only
  refine Die.Keeps.memory (Die.clearHbm_keeps (Die.clearHbm_keeps h)) (fun w => ?_)
  generalize Die.hbm _ = m at w ⊢
  generalize List.map _ _ = l
  induction l generalizing m with
  | nil => exact w
  | cons e l ih => exact ih _ (Memory.wf_set w _ _)

theorem Die.storeRegion_keeps {zz y : Die} {x n : Nat} {m : Memory} (h : Die.Keeps zz y) : Die.Keeps zz
    (Die.storeRegion y x n m) := by
  unfold Die.storeRegion
  try dsimp only
  repeat' first
    | with_reducible assumption | with_reducible apply Die.writeHbm_keeps | with_reducible apply Die.clearHbm_keeps
    | refine Die.Keeps.foldl (fun _ _ _ => ?_) ?_

theorem State.logErr_keeps {bd : Bool} {zz s : State} {d : Nat} {code unit detail : Nat} {job : Option (Nat × Nat)}
    {injected : Bool} (h : State.Keeps bd zz s) : State.Keeps bd zz (State.logErr s d code unit detail job injected) := by
  unfold State.logErr
  try dsimp only
  repeat' first
    | with_reducible assumption | with_reducible refine State.Keeps.modDie ?_ (fun _ => ?_)
    | with_reducible exact Die.Keeps.refl _ | with_reducible apply Die.Keeps.rest

theorem State.ackError_keeps {bd : Bool} {zz s : State} {d k : Nat} (h : State.Keeps bd zz s) : State.Keeps bd zz
    (State.ackError s d k) := by
  unfold State.ackError
  try dsimp only
  repeat' first
    | with_reducible assumption | with_reducible refine State.Keeps.modDie ?_ (fun _ => ?_)
    | with_reducible exact Die.Keeps.refl _ | with_reducible apply Die.Keeps.rest

theorem State.readFlip_keeps {bd : Bool} {zz s : State} {d : Nat} {job : Option (Nat × Nat)} {f : Flip}
    (h : State.Keeps bd zz s) : State.Keeps bd zz (State.readFlip s d job f) := by
  unfold State.readFlip
  try dsimp only
  repeat' first
    | with_reducible assumption | with_reducible apply State.logErr_keeps
    | with_reducible refine State.Keeps.modDie ?_ (fun _ => ?_) | with_reducible exact Die.Keeps.refl _
    | with_reducible apply Die.Keeps.rest

theorem State.readContext_keeps {bd : Bool} {zz s : State} {d q : Nat} (h : State.Keeps bd zz s) : State.Keeps bd zz
    (State.readContext s d q) := by
  unfold State.readContext
  try dsimp only
  repeat' first
    | with_reducible assumption | with_reducible apply State.readFlip_keeps
    | with_reducible refine State.Keeps.foldl (fun _ _ _ => ?_) ?_

theorem State.packageFatal_keeps {bd : Bool} {zz s : State} (h : State.Keeps bd zz s) : State.Keeps bd zz
    (State.packageFatal s) := by
  unfold State.packageFatal
  try dsimp only
  repeat' first
    | with_reducible assumption
    | with_reducible refine State.Keeps.pins ?_ (by first | exact fun hp hf => hp hf | exact fun hp hf => ⟨(hp hf).1, rfl⟩ | exact fun hp hf => ⟨rfl, (hp hf).2⟩ | exact fun _ _ => ⟨rfl, rfl⟩)

theorem Die.pushTrace_keeps {zz x : Die} {d mask : Nat} {r : Option (List Byte)} (h : Die.Keeps zz x) : Die.Keeps zz
    (Die.pushTrace x d mask r) := by
  unfold Die.pushTrace
  try dsimp only
  repeat' first | with_reducible assumption | split | with_reducible apply Die.Keeps.rest

theorem State.traceEv_keeps {bd : Bool} {zz s : State} {d : Nat} {event q n unit arg : Nat} (h : State.Keeps bd zz s) :
    State.Keeps bd zz (State.traceEv s d event q n unit arg) := by
  unfold State.traceEv
  try dsimp only
  repeat' first
    | with_reducible assumption | with_reducible apply Die.pushTrace_keeps
    | with_reducible refine State.Keeps.modDie ?_ (fun _ => ?_) | split | with_reducible exact Die.Keeps.refl _

theorem State.sendVector_keeps {bd : Bool} {zz s : State} {v : Nat} (h : State.Keeps bd zz s) : State.Keeps bd zz
    (State.sendVector s v) := by
  unfold State.sendVector
  try dsimp only
  repeat' first
    | with_reducible assumption | with_reducible apply State.writeHost_keeps | split
    | with_reducible apply State.Keeps.rest

theorem State.vectorEvent_keeps {bd : Bool} {zz s : State} {k v : Nat} (h : State.Keeps bd zz s) : State.Keeps bd zz
    (State.vectorEvent s k v) := by
  unfold State.vectorEvent
  try dsimp only
  repeat' first
    | with_reducible assumption | with_reducible apply State.sendVector_keeps
    | with_reducible apply State.Keeps.modPort | split

/-! ### Issue -/

theorem Die.setSlot_keeps {zz x : Die} {c e : Nat} {v : Slot} (h : Die.Keeps zz x) : Die.Keeps zz (Die.setSlot x c e v) := by
  unfold Die.setSlot
  try dsimp only
  repeat' first | with_reducible assumption | split | with_reducible apply Die.Keeps.rest

theorem Die.wake_keeps {zz x : Die} {c : Nat} (h : Die.Keeps zz x) : Die.Keeps zz (Die.wake x c) := by
  unfold Die.wake
  try dsimp only
  repeat' first | with_reducible assumption | with_reducible apply Die.Keeps.rest

theorem Die.wakeDma_keeps {zz x : Die} (h : Die.Keeps zz x) : Die.Keeps zz (Die.wakeDma x) := by
  unfold Die.wakeDma
  try dsimp only
  repeat' first
    | with_reducible assumption | with_reducible apply Die.wake_keeps | refine Die.Keeps.foldl (fun _ _ _ => ?_) ?_
    | split

theorem State.noteDma_keeps {bd : Bool} {zz s : State} (h : State.Keeps bd zz s) : State.Keeps bd zz (State.noteDma s) := by
  unfold State.noteDma
  dsimp only
  refine h.trans ⟨rfl, Die.KeepsAll.zipMap (fun x n => ?_) _ 0, fun w => w, fun w => w, fun w => w, rfl,
    fun _ => ⟨rfl, .inl rfl, rfl, rfl, rfl, rfl⟩⟩
  dsimp only
  split
  · exact Die.Keeps.refl x
  · exact Die.wakeDma_keeps (Die.Keeps.rest (Die.Keeps.refl x))

theorem State.take_keeps {bd : Bool} {zz s : State} {d : Nat} {c e : Nat} {r : OpRef} (h : State.Keeps bd zz s) :
    State.Keeps bd zz (State.take s d c e r) := by
  unfold State.take
  try dsimp only
  repeat' first
    | with_reducible assumption | with_reducible apply Die.setSlot_keeps | with_reducible apply Die.wake_keeps
    | with_reducible refine State.Keeps.modDie ?_ (fun _ => ?_) | with_reducible exact Die.Keeps.refl _

theorem State.fillCurrent_keeps {bd : Bool} {zz s : State} {d : Nat} {c e : Nat} (h : State.Keeps bd zz s) : State.Keeps
    bd zz (State.fillCurrent s d c e) := by
  unfold State.fillCurrent
  try dsimp only
  repeat' first
    | with_reducible assumption | with_reducible apply Die.setSlot_keeps | with_reducible apply State.take_keeps
    | with_reducible refine State.Keeps.modDie ?_ (fun _ => ?_) | split | with_reducible exact Die.Keeps.refl _

theorem State.fillPrefetch_keeps {bd : Bool} {zz s : State} {d : Nat} {c e : Nat} (h : State.Keeps bd zz s) : State.Keeps
    bd zz (State.fillPrefetch s d c e) := by
  unfold State.fillPrefetch
  try dsimp only
  repeat' first
    | with_reducible assumption | with_reducible apply Die.setSlot_keeps
    | with_reducible refine State.Keeps.modDie ?_ (fun _ => ?_) | split | with_reducible exact Die.Keeps.refl _

theorem State.issueOne_keeps {bd : Bool} {zz s : State} {d : Nat} {c e : Nat} (h : State.Keeps bd zz s) : State.Keeps bd
    zz (State.issueOne s d c e) := by
  unfold State.issueOne
  try dsimp only
  repeat' first
    | with_reducible assumption | with_reducible apply State.fillCurrent_keeps
    | with_reducible apply State.fillPrefetch_keeps

theorem State.issueDie_keeps {bd : Bool} {zz s : State} {d : Nat} (h : State.Keeps bd zz s) : State.Keeps bd zz
    (State.issueDie s d) := by
  unfold State.issueDie
  try dsimp only
  repeat' first
    | with_reducible assumption | with_reducible apply State.issueOne_keeps
    | with_reducible refine State.Keeps.foldl (fun _ _ _ => ?_) ?_

theorem State.issueAll_keeps {bd : Bool} {zz s : State} (h : State.Keeps bd zz s) : State.Keeps bd zz (State.issueAll s) := by
  unfold State.issueAll
  try dsimp only
  repeat' first
    | with_reducible assumption | with_reducible apply State.noteDma_keeps | with_reducible apply State.issueDie_keeps
    | with_reducible refine State.Keeps.foldl (fun _ _ _ => ?_) ?_

/-! ### Arbiters -/

theorem State.modArb_keeps {bd : Bool} {zz s : State} {d n : Nat} {f : Arb → Arb} (h : State.Keeps bd zz s) : State.Keeps
    bd zz (State.modArb s d n f) := by
  unfold State.modArb
  try dsimp only
  repeat' first
    | with_reducible assumption | with_reducible refine State.Keeps.modDie ?_ (fun _ => ?_)
    | with_reducible exact Die.Keeps.refl _ | with_reducible apply Die.Keeps.rest

theorem State.granted_keeps {bd : Bool} {zz s : State} {l : List ArbReq} (h : State.Keeps bd zz s) : State.Keeps bd zz
    (State.granted s l) := by
  unfold State.granted
  try dsimp only
  repeat' first
    | with_reducible assumption | with_reducible apply State.modArb_keeps
    | with_reducible refine State.Keeps.foldl (fun _ _ _ => ?_) ?_

theorem State.queued_keeps {bd : Bool} {zz s : State} {l : List ArbReq} (h : State.Keeps bd zz s) : State.Keeps bd zz
    (State.queued s l) := by
  unfold State.queued
  try dsimp only
  repeat' first
    | with_reducible assumption | with_reducible apply State.modArb_keeps
    | with_reducible refine State.Keeps.foldl (fun _ _ _ => ?_) ?_ | split

theorem State.cross_keeps {bd : Bool} {zz s : State} {l : List ArbReq} {f : State → Host.Outcome State Fault Refusal}
    (hf : ∀ a0, State.Keeps bd zz a0 → State.KeepsOut bd zz (f a0)) (h : State.Keeps bd zz s) : State.KeepsOut bd zz
    (State.cross s l f) := by
  unfold State.cross
  split
  · exact hf _ (State.granted_keeps h)
  · exact State.KeepsOut.next (State.queued_keeps h)

theorem State.sendCtrl_keeps {bd : Bool} {zz s : State} {a b : Nat} {m : CtrlBody} (h : State.Keeps bd zz s) : State.Keeps
    bd zz (State.sendCtrl s a b m) := by
  unfold State.sendCtrl
  try dsimp only
  repeat' first | with_reducible assumption | split | with_reducible apply State.Keeps.rest

theorem State.takeCtrl_keeps {bd : Bool} {zz s : State} {a b : Nat} (h : State.Keeps bd zz s) : State.Keeps bd zz
    (State.takeCtrl s a b) := by
  unfold State.takeCtrl
  try dsimp only
  repeat' first | with_reducible assumption | with_reducible apply State.Keeps.rest

theorem State.arrive_keeps {bd : Bool} {zz s : State} {a b : Nat} {m : CtrlBody}
    {f : State → Host.Outcome State Fault Refusal} (hf : ∀ a0, State.Keeps bd zz a0 → State.KeepsOut bd zz (f a0))
    (h : State.Keeps bd zz s) : State.KeepsOut bd zz (State.arrive s a b m f) := by
  unfold State.arrive
  split
  · exact hf _ h
  · split
    · exact State.cross_keeps (fun _ w => hf _ (State.takeCtrl_keeps w)) h
    · exact State.KeepsOut.next h

theorem State.retryCtrl_keeps {bd : Bool} {zz s : State} {ends : List (Nat × Nat)} (h : State.Keeps bd zz s) : State.Keeps
    bd zz (State.retryCtrl s ends) := by
  unfold State.retryCtrl
  try dsimp only
  repeat' first | with_reducible assumption | with_reducible apply State.Keeps.rest

/-! ### Digests -/

theorem State.jobWrite_keeps {bd : Bool} {zz s : State} {q : Nat} {n a : Nat} {bs : List Byte} (h : State.Keeps bd zz s) :
    State.Keeps bd zz (State.jobWrite s q n a bs) := by
  unfold State.jobWrite
  try dsimp only
  repeat' first
    | with_reducible assumption | with_reducible apply State.modJob_keeps | with_reducible apply State.writeHost_keeps
    | with_reducible apply State.granted_keeps | with_reducible apply State.queued_keeps | split

theorem State.writeLayers_keeps {bd : Bool} {zz s : State} {j : Job} (h : State.Keeps bd zz s) : State.Keeps bd zz
    (State.writeLayers s j) := by
  unfold State.writeLayers
  try dsimp only
  repeat' first | with_reducible assumption | with_reducible apply State.jobWrite_keeps | split

/-! ### Jobs -/

theorem State.putRecord_keeps {bd : Bool} {zz s : State} {d : Nat} {it : LedgerItem} (h : State.Keeps bd zz s) :
    State.Keeps bd zz (State.putRecord s d it) := by
  unfold State.putRecord
  try dsimp only
  repeat' first
    | with_reducible assumption | with_reducible apply State.modQueue_keeps
    | with_reducible apply State.writeHost_keeps | with_reducible apply State.granted_keeps
    | with_reducible refine State.Keeps.modDie ?_ (fun _ => ?_) | split | with_reducible exact Die.Keeps.refl _
    | with_reducible apply Die.Keeps.rest | with_reducible apply State.Keeps.rest

theorem State.carry_keeps {bd : Bool} {zz s : State} {d : Nat} (h : State.Keeps bd zz s) : State.Keeps bd zz
    (State.carry s d) := by
  unfold State.carry
  try dsimp only
  repeat' first
    | with_reducible assumption | with_reducible apply State.putRecord_keeps
    | with_reducible refine State.Keeps.foldl (fun _ _ _ => ?_) ?_

theorem State.flushRecords_keeps {bd : Bool} {zz : State} {d x0_ : Nat} {x1_ : State} (h : State.Keeps bd zz x1_) :
    State.Keeps bd zz (State.flushRecords d x0_ x1_) := by
  induction x0_ generalizing x1_ with
  | zero => exact h
  | succ k ih =>
    unfold State.flushRecords
    dsimp only
    split
    · exact h
    · split
      · exact h
      · split
        · exact State.queued_keeps h
        · split
          · exact State.carry_keeps (State.Keeps.modDie h (fun x => Die.Keeps.rest (Die.Keeps.refl x)))
          · exact ih (State.putRecord_keeps (State.Keeps.modDie h (fun x => Die.Keeps.rest (Die.Keeps.refl x))))

theorem State.ledgerWrite_keeps {bd : Bool} {zz s : State} {d : Nat} {it : LedgerItem} (h : State.Keeps bd zz s) :
    State.Keeps bd zz (State.ledgerWrite s d it) := by
  unfold State.ledgerWrite
  exact State.flushRecords_keeps (State.Keeps.modDie h (fun x => Die.Keeps.rest (Die.Keeps.refl x)))

theorem State.writeHeader_keeps {bd : Bool} {zz s : State} {d : Nat} {st live : Nat} (h : State.Keeps bd zz s) :
    State.Keeps bd zz (State.writeHeader s d st live) := by
  unfold State.writeHeader
  try dsimp only
  repeat' first
    | with_reducible assumption | with_reducible apply State.writeHost_keeps
    | with_reducible refine State.Keeps.modDie ?_ (fun _ => ?_) | with_reducible exact Die.Keeps.refl _
    | with_reducible apply Die.Keeps.rest

theorem State.putEntry_keeps {bd : Bool} {zz s : State} {q : Nat} (h : State.Keeps bd zz s) : State.Keeps bd zz
    (State.putEntry s q) := by
  unfold State.putEntry
  try dsimp only
  repeat' first
    | with_reducible assumption | with_reducible apply State.modQueue_keeps
    | with_reducible apply State.writeHost_keeps | with_reducible apply State.granted_keeps
    | with_reducible apply State.queued_keeps | with_reducible apply State.Keeps.modRegs | split

theorem State.setQState_keeps {bd : Bool} {zz s : State} {q : Nat} {st : QState} (h : State.Keeps bd zz s) : State.Keeps
    bd zz (State.setQState s q st) := by
  unfold State.setQState
  try dsimp only
  repeat' first
    | with_reducible assumption | with_reducible apply State.modQueue_keeps
    | with_reducible apply State.putEntry_keeps

theorem State.publishAccepted_keeps {bd : Bool} {zz s : State} {q v : Nat} (h : State.Keeps bd zz s) : State.Keeps bd zz
    (State.publishAccepted s q v) := by
  unfold State.publishAccepted
  try dsimp only
  repeat' first
    | with_reducible assumption | with_reducible apply State.modQueue_keeps
    | with_reducible apply State.putEntry_keeps

theorem State.noteStall_keeps {bd : Bool} {zz s : State} {q : Nat} (h : State.Keeps bd zz s) : State.Keeps bd zz
    (State.noteStall s q) := by
  unfold State.noteStall
  try dsimp only
  repeat' first | with_reducible assumption | with_reducible apply State.modQueue_keeps | split

theorem State.noteStalls_keeps {bd : Bool} {zz s : State} {d : Nat} (h : State.Keeps bd zz s) : State.Keeps bd zz
    (State.noteStalls s d) := by
  unfold State.noteStalls
  try dsimp only
  repeat' first
    | with_reducible assumption | with_reducible apply State.noteStall_keeps
    | with_reducible refine State.Keeps.foldl (fun _ _ _ => ?_) ?_ | split

theorem State.enterReady_keeps {bd : Bool} {zz s : State} {q n : Nat} (h : State.Keeps bd zz s) : State.Keeps bd zz
    (State.enterReady s q n) := by
  unfold State.enterReady
  try dsimp only
  repeat' first
    | with_reducible assumption | with_reducible apply State.modJob_keeps | with_reducible apply State.modPart_keeps
    | split

theorem State.unlist_keeps {bd : Bool} {zz s : State} {q n : Nat} (h : State.Keeps bd zz s) : State.Keeps bd zz
    (State.unlist s q n) := by
  unfold State.unlist
  try dsimp only
  repeat' first
    | with_reducible assumption | with_reducible refine State.Keeps.modDies ?_ (fun _ => ?_)
    | with_reducible exact Die.Keeps.refl _ | with_reducible apply Die.Keeps.rest

theorem State.leaveReady_keeps {bd : Bool} {zz s : State} {q n : Nat} (h : State.Keeps bd zz s) : State.Keeps bd zz
    (State.leaveReady s q n) := by
  unfold State.leaveReady
  try dsimp only
  repeat' first
    | with_reducible assumption | with_reducible apply State.unlist_keeps
    | with_reducible refine State.Keeps.modDies ?_ (fun _ => ?_) | with_reducible exact Die.Keeps.refl _
    | with_reducible apply Die.Keeps.rest

theorem State.releaseFlow_keeps {bd : Bool} {zz s : State} {q n : Nat} (h : State.Keeps bd zz s) : State.Keeps bd zz
    (State.releaseFlow s q n) := by
  unfold State.releaseFlow
  try dsimp only
  repeat' first | with_reducible assumption | with_reducible apply State.Keeps.rest

theorem State.noteIdle_keeps {bd : Bool} {zz s : State} {q n : Nat} (h : State.Keeps bd zz s) : State.Keeps bd zz
    (State.noteIdle s q n) := by
  unfold State.noteIdle
  try dsimp only
  repeat' first
    | with_reducible assumption | with_reducible refine State.Keeps.modDie ?_ (fun _ => ?_)
    | with_reducible refine State.Keeps.foldl (fun _ _ _ => ?_) ?_ | split | with_reducible exact Die.Keeps.refl _
    | with_reducible apply Die.Keeps.rest

theorem State.takeOps_keeps {bd : Bool} {zz s : State} {q n : Nat} (h : State.Keeps bd zz s) : State.Keeps bd zz
    (State.takeOps s q n) := by
  unfold State.takeOps
  try dsimp only
  repeat' first
    | with_reducible assumption | with_reducible refine State.Keeps.modDies ?_ (fun _ => ?_)
    | with_reducible exact Die.Keeps.refl _ | with_reducible apply Die.Keeps.rest
    | with_reducible apply State.Keeps.rest

theorem State.clearOps_keeps {bd : Bool} {zz s : State} {q n : Nat} (h : State.Keeps bd zz s) : State.Keeps bd zz
    (State.clearOps s q n) := by
  unfold State.clearOps
  try dsimp only
  repeat' first
    | with_reducible assumption | with_reducible apply State.issueAll_keeps | with_reducible apply State.takeOps_keeps

theorem Die.emptyClusters_keeps {zz x : Die} {held : Nat → Bool} {now : Nat} (h : Die.Keeps zz x) : Die.Keeps zz
    (Die.emptyClusters x held now) := by
  unfold Die.emptyClusters
  try dsimp only
  repeat' first | with_reducible assumption | with_reducible apply Die.Keeps.rest

theorem Die.endChange_keeps {zz x : Die} (h : Die.Keeps zz x) : Die.Keeps zz (Die.endChange x) := by
  unfold Die.endChange
  try dsimp only
  repeat' first | with_reducible assumption | split | with_reducible apply Die.Keeps.rest

theorem State.settleClusters_keeps {bd : Bool} {zz s : State} (h : State.Keeps bd zz s) : State.Keeps bd zz
    (State.settleClusters s) := by
  unfold State.settleClusters
  split
  · exact h
  · exact h.trans ⟨rfl, Die.KeepsAll.zipMap (fun x n => Die.endChange_keeps (Die.emptyClusters_keeps (Die.Keeps.refl x))) _ 0,
      fun w => w, fun w => w, fun w => w, rfl, fun _ => ⟨rfl, .inl rfl, rfl, rfl, rfl, rfl⟩⟩

theorem Die.dropLines_keeps {zz x : Die} {w : Nat} (h : Die.Keeps zz x) : Die.Keeps zz (Die.dropLines x w) := by
  unfold Die.dropLines
  try dsimp only
  repeat' first | with_reducible assumption | split | with_reducible apply Die.Keeps.rest

theorem Die.dropL0_keeps {zz x : Die} {w : Nat} (h : Die.Keeps zz x) : Die.Keeps zz (Die.dropL0 x w) := by
  unfold Die.dropL0
  try dsimp only
  repeat' first | with_reducible assumption | with_reducible apply Die.Keeps.rest

theorem State.emptyWorld_keeps {bd : Bool} {zz s : State} {w : Nat} (h : State.Keeps bd zz s) : State.Keeps bd zz
    (State.emptyWorld s w) := by
  unfold State.emptyWorld
  try dsimp only
  repeat' first
    | with_reducible assumption | with_reducible apply Die.dropLines_keeps | with_reducible apply Die.dropL0_keeps
    | with_reducible refine State.Keeps.modDies ?_ (fun _ => ?_) | with_reducible exact Die.Keeps.refl _
    | with_reducible apply Die.Keeps.rest | with_reducible apply State.Keeps.rest

theorem State.retryDrops_keeps {bd : Bool} {zz s : State} {i : Nat} (h : State.Keeps bd zz s) : State.Keeps bd zz
    (State.retryDrops s i) := by
  unfold State.retryDrops
  try dsimp only
  repeat' first | with_reducible assumption | with_reducible apply State.Keeps.rest

theorem State.leaveSlots_keeps {bd : Bool} {zz s : State} {j : Job} (h : State.Keeps bd zz s) : State.Keeps bd zz
    (State.leaveSlots s j) := by
  unfold State.leaveSlots
  try dsimp only
  repeat' first
    | with_reducible assumption | with_reducible apply State.emptyWorld_keeps
    | with_reducible apply State.retryDrops_keeps | split | with_reducible apply State.Keeps.rest

theorem State.finishJob_keeps {bd : Bool} {zz s : State} {q n : Nat} {o : CplFields} (h : State.Keeps bd zz s) :
    State.Keeps bd zz (State.finishJob s q n o) := by
  unfold State.finishJob
  try dsimp only
  repeat' first
    | with_reducible assumption | with_reducible apply State.modJob_keeps | with_reducible apply State.traceEv_keeps
    | with_reducible apply State.writeLayers_keeps | with_reducible apply State.leaveReady_keeps
    | with_reducible apply State.releaseFlow_keeps | with_reducible apply State.noteIdle_keeps
    | with_reducible apply State.clearOps_keeps | with_reducible apply State.settleClusters_keeps
    | with_reducible apply State.leaveSlots_keeps | split

theorem State.writeCompletion_keeps {bd : Bool} {zz s : State} {j : Job} {o : CplFields} (h : State.Keeps bd zz s) :
    State.Keeps bd zz (State.writeCompletion s j o) := by
  unfold State.writeCompletion
  try dsimp only
  repeat' first
    | with_reducible assumption | with_reducible apply State.modQueue_keeps | with_reducible apply State.dropJob_keeps
    | with_reducible apply State.writeHost_keeps | with_reducible apply State.traceEv_keeps
    | with_reducible apply State.vectorEvent_keeps | with_reducible apply State.granted_keeps
    | with_reducible refine State.Keeps.modDie ?_ (fun _ => ?_)
    | with_reducible refine State.Keeps.foldl (fun _ _ _ => ?_) ?_ | split | with_reducible exact Die.Keeps.refl _
    | with_reducible apply Die.Keeps.rest

theorem State.writeCompletionsAux_keeps {bd : Bool} {zz : State} {q x0_ : Nat} {x1_ : State} (h : State.Keeps bd zz x1_) :
    State.Keeps bd zz (State.writeCompletionsAux q x0_ x1_) := by
  induction x0_ generalizing x1_ with
  | zero => exact h
  | succ k ih =>
    unfold State.writeCompletionsAux
    repeat' first
      | with_reducible assumption
      | with_reducible apply ih
      | with_reducible apply State.writeCompletion_keeps
      | with_reducible apply State.queued_keeps
      | split

theorem State.settleQueue_keeps {bd : Bool} {zz s : State} {q : Nat} (h : State.Keeps bd zz s) : State.Keeps bd zz
    (State.settleQueue s q) := by
  unfold State.settleQueue
  try dsimp only
  repeat' first
    | with_reducible assumption | with_reducible apply State.modQueue_keeps
    | with_reducible apply State.setQState_keeps | split

theorem State.writeCompletions_keeps {bd : Bool} {zz s : State} {q : Nat} (h : State.Keeps bd zz s) : State.Keeps bd zz
    (State.writeCompletions s q) := by
  unfold State.writeCompletions
  try dsimp only
  repeat' first
    | with_reducible assumption | with_reducible apply State.noteStalls_keeps
    | with_reducible apply State.writeCompletionsAux_keeps | with_reducible apply State.settleQueue_keeps

theorem State.flushDie_keeps {bd : Bool} {zz s : State} {d : Nat} (h : State.Keeps bd zz s) : State.Keeps bd zz
    (State.flushDie s d) := by
  unfold State.flushDie
  try dsimp only
  repeat' first
    | with_reducible assumption | with_reducible apply State.flushRecords_keeps
    | with_reducible apply State.putEntry_keeps | with_reducible apply State.writeCompletions_keeps
    | with_reducible refine State.Keeps.foldl (fun _ _ _ => ?_) ?_ | split

theorem State.complete_keeps {bd : Bool} {zz s : State} {q n : Nat} {o : CplFields} (h : State.Keeps bd zz s) :
    State.Keeps bd zz (State.complete s q n o) := by
  unfold State.complete
  try dsimp only
  repeat' first
    | with_reducible assumption | with_reducible apply State.finishJob_keeps
    | with_reducible apply State.writeCompletions_keeps

theorem State.advise_keeps {bd : Bool} {zz s : State} {q : Nat} {n b : Nat} (h : State.Keeps bd zz s) : State.Keeps bd zz
    (State.advise s q n b) := by
  unfold State.advise
  try dsimp only
  repeat' first | with_reducible assumption | with_reducible apply State.modJob_keeps

theorem State.undefOutputs_keeps {bd : Bool} {zz s : State} {j : Job} (h : State.Keeps bd zz s) : State.Keeps bd zz
    (State.undefOutputs s j) := by
  unfold State.undefOutputs
  try dsimp only
  repeat' first
    | with_reducible assumption | with_reducible apply State.fresh_keeps | with_reducible apply State.jobWrite_keeps
    | with_reducible refine State.Keeps.foldl (fun _ _ _ => ?_) ?_ | split

theorem State.endCancelled_keeps {bd : Bool} {zz s : State} {j : Job} {cq cn : Nat} (h : State.Keeps bd zz s) :
    State.Keeps bd zz (State.endCancelled s j cq cn) := by
  unfold State.endCancelled
  try dsimp only
  repeat' first
    | with_reducible assumption | with_reducible apply State.modJob_keeps | with_reducible apply State.complete_keeps
    | with_reducible apply State.undefOutputs_keeps

theorem State.settleCancel_keeps {bd : Bool} {zz s : State} {q n : Nat} (h : State.Keeps bd zz s) : State.Keeps bd zz
    (State.settleCancel s q n) := by
  unfold State.settleCancel
  try dsimp only
  repeat' first | with_reducible assumption | with_reducible apply State.endCancelled_keeps | split

theorem State.endStage_keeps {bd : Bool} {zz s : State} {q n : Nat} {o : CplFields} (h : State.Keeps bd zz s) :
    State.Keeps bd zz (State.endStage s q n o) := by
  unfold State.endStage
  try dsimp only
  repeat' first
    | with_reducible assumption | with_reducible apply State.complete_keeps
    | with_reducible apply State.endCancelled_keeps | split

theorem State.redispatch_keeps {bd : Bool} {zz s : State} {q n : Nat} (h : State.Keeps bd zz s) : State.Keeps bd zz
    (State.redispatch s q n) := by
  unfold State.redispatch
  try dsimp only
  repeat' first
    | with_reducible assumption | with_reducible apply State.modJob_keeps
    | with_reducible apply State.leaveReady_keeps | with_reducible apply State.releaseFlow_keeps
    | with_reducible apply State.noteIdle_keeps | with_reducible apply State.clearOps_keeps
    | with_reducible apply State.settleClusters_keeps | with_reducible apply State.endCancelled_keeps | split

theorem State.redispatchAll_keeps {bd : Bool} {zz s : State} {l : List (Nat × Nat)} (h : State.Keeps bd zz s) :
    State.Keeps bd zz (State.redispatchAll s l) := by
  unfold State.redispatchAll
  try dsimp only
  repeat' first
    | with_reducible assumption | with_reducible apply State.redispatch_keeps
    | with_reducible refine State.Keeps.foldl (fun _ _ _ => ?_) ?_

/-! ### ErrorRing -/

theorem State.putRing_keeps {bd : Bool} {zz s : State} {r : ErrRec} (h : State.Keeps bd zz s) : State.Keeps bd zz
    (State.putRing s r) := by
  unfold State.putRing
  try dsimp only
  repeat' first
    | with_reducible assumption | with_reducible apply State.writeHost_keeps
    | with_reducible apply State.vectorEvent_keeps | with_reducible apply State.granted_keeps
    | with_reducible refine State.Keeps.modDie ?_ (fun _ => ?_) | split | with_reducible exact Die.Keeps.refl _
    | with_reducible apply Die.Keeps.rest | with_reducible apply State.Keeps.rest

theorem State.drainLogAux_keeps {bd : Bool} {zz : State} {x0_ : Nat} {x1_ : State} (h : State.Keeps bd zz x1_) :
    State.Keeps bd zz (State.drainLogAux x0_ x1_) := by
  induction x0_ generalizing x1_ with
  | zero => exact h
  | succ k ih =>
    unfold State.drainLogAux
    split
    · exact h
    · split
      · exact ih (State.putRing_keeps (State.Keeps.rest h))
      · exact h

theorem State.drainLog_keeps {bd : Bool} {zz s : State} (h : State.Keeps bd zz s) : State.Keeps bd zz (State.drainLog s) := by
  unfold State.drainLog
  try dsimp only
  repeat' first | with_reducible assumption | with_reducible apply State.drainLogAux_keeps

theorem State.dropError_keeps {bd : Bool} {zz s : State} {r : ErrRec} (h : State.Keeps bd zz s) : State.Keeps bd zz
    (State.dropError s r) := by
  unfold State.dropError
  try dsimp only
  repeat' first
    | with_reducible assumption | with_reducible apply State.ackError_keeps | with_reducible apply State.Keeps.rest

theorem State.holdError_keeps {bd : Bool} {zz s : State} {r : ErrRec} (h : State.Keeps bd zz s) : State.Keeps bd zz
    (State.holdError s r) := by
  unfold State.holdError
  try dsimp only
  repeat' first
    | with_reducible assumption | with_reducible apply State.dropError_keeps | split
    | with_reducible apply State.Keeps.rest

theorem State.setRingBase_keeps {bd : Bool} {zz s : State} {v : Nat} (h : State.Keeps bd zz s) : State.Keeps bd zz
    (State.setRingBase s v) := by
  unfold State.setRingBase
  try dsimp only
  repeat' first
    | with_reducible assumption | with_reducible apply State.drainLog_keeps | split
    | with_reducible apply State.Keeps.rest

/-! ### Registers -/

theorem State.asReset_keeps {zz s : State} (h : State.Keeps false zz s) : State.Keeps false zz (State.asReset s) := by
  unfold State.asReset
  refine h.trans ⟨rfl, Die.KeepsAll.map (f := fun x => { Die.reset x.fuse with lost := x.lost, spares := x.spares })
    (fun x => ⟨fun _ => rfl, Fuses.Le.refl _⟩) _, fun w => w, fun w => w, fun w => w, rfl, fun w => by cases w⟩

theorem State.regRead_keeps {bd : Bool} {zz s : State} {p off : Nat} (h : State.Keeps bd zz s) : State.Keeps bd zz
    (State.regRead s p off) := by
  unfold State.regRead
  try dsimp only
  repeat' first
    | with_reducible assumption | with_reducible apply State.raised_keeps | with_reducible apply State.Keeps.modRegs
    | split

theorem State.regRead64_keeps {bd : Bool} {zz s : State} {off : Nat} (h : State.Keeps bd zz s) : State.Keeps bd zz
    (State.regRead64 s off) := by
  unfold State.regRead64
  try dsimp only
  repeat' first
    | with_reducible assumption | with_reducible apply State.raised_keeps | with_reducible apply State.Keeps.modRegs
    | split

theorem State.toWindow_keeps {bd : Bool} {zz s : State} {p d : Nat} {f : State → State}
    (hf : ∀ a0, State.Keeps bd zz a0 → State.Keeps bd zz (f a0)) (h : State.Keeps bd zz s) : State.Keeps bd zz
    (State.toWindow s p d f) := by
  unfold State.toWindow
  try dsimp only
  repeat' first
    | with_reducible assumption | with_reducible apply hf | with_reducible apply State.granted_keeps
    | with_reducible apply State.queued_keeps | split

theorem State.atOffset_keeps {bd : Bool} {zz s : State} {p off : Nat} {f : State → State}
    (hf : ∀ a0, State.Keeps bd zz a0 → State.Keeps bd zz (f a0)) (h : State.Keeps bd zz s) : State.Keeps bd zz
    (State.atOffset s p off f) := by
  unfold State.atOffset
  try dsimp only
  repeat' first
    | with_reducible assumption | with_reducible apply hf | with_reducible apply State.toWindow_keeps | split

theorem State.writeWindow_keeps {bd : Bool} {zz s : State} {i : Nat} {f : Window → Window} (h : State.Keeps bd zz s) :
    State.Keeps bd zz (State.writeWindow s i f) := by
  unfold State.writeWindow
  try dsimp only
  repeat' first | with_reducible assumption | with_reducible apply State.Keeps.modRegs

theorem State.writePkgScalar_keeps {zz s : State} {o v : Nat} (h : State.Keeps false zz s) : State.KeepsOpt false zz
    (State.writePkgScalar s o v) := by
  unfold State.writePkgScalar
  extract_lets m
  have hm (f : Regs → Regs) : State.KeepsOpt false zz (m f) := State.KeepsOpt.some (State.Keeps.modRegs h)
  clear_value m
  repeat' first
    | with_reducible exact h
    | with_reducible exact hm _
    | with_reducible exact State.KeepsOpt.none
    | (with_reducible refine State.KeepsOpt.ite ?_ ?_)
    | with_reducible apply State.KeepsOpt.some
    | (with_reducible refine State.Keeps.ite ?_ ?_)
    | with_reducible apply State.Keeps.modRegs
    | with_reducible apply State.setRingBase_keeps
    | with_reducible apply State.Keeps.restBoard

theorem State.writePkg_keeps {zz s : State} {o v : Nat} (h : State.Keeps false zz s) : State.Keeps false zz
    (State.writePkg s o v) := by
  unfold State.writePkg
  try dsimp only
  repeat' first
    | with_reducible assumption | with_reducible apply State.writeWindow_keeps
    | refine State.writePkgScalar_keeps ?_ _ (by assumption)
    | with_reducible refine State.Keeps.modDie ?_ (fun _ => ?_) | with_reducible apply State.Keeps.modRegs | split
    | with_reducible exact Die.Keeps.refl _ | with_reducible apply Die.Keeps.rest

theorem State.clearGap_keeps {bd : Bool} {zz s : State} {d p : Nat} (h : State.Keeps bd zz s) : State.Keeps bd zz
    (State.clearGap s d p) := by
  unfold State.clearGap
  try dsimp only
  repeat' first | with_reducible assumption | with_reducible apply State.modPart_keeps

theorem State.writeDieReg_keeps {bd : Bool} {zz s : State} {d : Nat} {o v : Nat} (h : State.Keeps bd zz s) : State.Keeps
    bd zz (State.writeDieReg s d o v) := by
  unfold State.writeDieReg
  try dsimp only
  repeat' first
    | with_reducible assumption | with_reducible apply State.clearGap_keeps
    | with_reducible refine State.Keeps.modDie ?_ (fun _ => ?_) | split | with_reducible exact Die.Keeps.refl _
    | with_reducible apply Die.Keeps.rest

theorem State.commitWrite_keeps {zz s : State} {off v : Nat} (h : State.Keeps false zz s) : State.Keeps false zz
    (State.commitWrite s off v) := by
  unfold State.commitWrite
  try dsimp only
  repeat' first
    | with_reducible assumption | with_reducible apply State.writePkg_keeps
    | with_reducible apply State.writeDieReg_keeps | split | with_reducible apply State.Keeps.rest

theorem State.noteWrite_keeps {bd : Bool} {zz s : State} {p off : Nat} (h : State.Keeps bd zz s) : State.Keeps bd zz
    (State.noteWrite s p off) := by
  unfold State.noteWrite
  try dsimp only
  repeat' first | with_reducible assumption | with_reducible apply State.Keeps.modRegs | split

theorem State.commitFrom_keeps {zz s : State} {p : Nat} {off v : Nat} (h : State.Keeps false zz s) : State.Keeps false zz
    (State.commitFrom s p off v) := by
  unfold State.commitFrom
  try dsimp only
  repeat' first
    | with_reducible assumption | with_reducible apply State.commitWrite_keeps
    | with_reducible apply State.noteWrite_keeps | split

theorem State.regWrite_keeps {zz s : State} {p : Nat} {off width v : Nat} (h : State.Keeps false zz s) : State.Keeps false
    zz (State.regWrite s p off width v) := by
  unfold State.regWrite
  try dsimp only
  repeat' first
    | with_reducible assumption | with_reducible apply State.commitFrom_keeps
    | with_reducible apply State.Keeps.modRegs | split

theorem State.flushPending_keeps {bd : Bool} {zz s : State} (h : State.Keeps bd zz s) : State.Keeps bd zz
    (State.flushPending s) := by
  unfold State.flushPending
  try dsimp only
  repeat' first
    | with_reducible assumption | with_reducible apply State.sendVector_keeps
    | with_reducible refine State.Keeps.foldl (fun _ _ _ => ?_) ?_ | split | with_reducible apply State.Keeps.rest

theorem State.configWrite_keeps {bd : Bool} {zz s : State} {v : Nat} (h : State.Keeps bd zz s) : State.Keeps bd zz
    (State.configWrite s v) := by
  unfold State.configWrite
  try dsimp only
  repeat' first
    | with_reducible assumption | with_reducible apply State.flushPending_keeps
    | with_reducible apply State.Keeps.rest

theorem State.inWindow_keeps {bd : Bool} {zz s : State} {p d : Nat} {f : State → State}
    (hf : ∀ a0, State.Keeps bd zz a0 → State.Keeps bd zz (f a0)) (h : State.Keeps bd zz s) : State.Keeps bd zz
    (State.inWindow s p d f) := by
  unfold State.inWindow
  try dsimp only
  repeat' first
    | with_reducible assumption | with_reducible apply State.raised_keeps | with_reducible apply State.toWindow_keeps
    | with_reducible apply State.Keeps.modRegs | split

theorem State.egressOpens_keeps {bd : Bool} {zz s : State} (h : State.Keeps bd zz s) : State.Keeps bd zz
    (State.egressOpens s) := by
  unfold State.egressOpens
  try dsimp only
  repeat' first
    | with_reducible assumption | with_reducible apply State.flushDie_keeps
    | with_reducible apply State.drainLog_keeps | with_reducible refine State.Keeps.foldl (fun _ _ _ => ?_) ?_

/-! ### Queues -/

theorem State.sendDelivery_keeps {bd : Bool} {zz s : State} {q v : Nat} (h : State.Keeps bd zz s) : State.Keeps bd zz
    (State.sendDelivery s q v) := by
  unfold State.sendDelivery
  try dsimp only
  repeat' first | with_reducible assumption | with_reducible apply State.modQueue_keeps

theorem State.readLine_keeps {bd : Bool} {zz s : State} {hv : HostView} {k q : Nat} (h : State.Keeps bd zz s) :
    State.Keeps bd zz (State.readLine s hv k q) := by
  unfold State.readLine
  try dsimp only
  repeat' first
    | with_reducible assumption | with_reducible apply State.logErr_keeps
    | with_reducible apply State.sendDelivery_keeps | with_reducible apply State.Keeps.modPort | split

theorem State.rereadLine_keeps {bd : Bool} {zz s : State} {hv : HostView} {q : Nat} (h : State.Keeps bd zz s) :
    State.Keeps bd zz (State.rereadLine s hv q) := by
  unfold State.rereadLine
  try dsimp only
  repeat' first | with_reducible assumption | with_reducible apply State.readLine_keeps | split

theorem State.dropLine_keeps {bd : Bool} {zz s : State} {q : Nat} (h : State.Keeps bd zz s) : State.Keeps bd zz
    (State.dropLine s q) := by
  unfold State.dropLine
  exact h.updPorts rfl rfl (by simp) rfl rfl rfl (fun _ => ⟨rfl, .inl rfl, rfl, rfl, rfl, rfl⟩)

theorem State.qtbResult_keeps {bd : Bool} {zz s : State} {r : Nat} (h : State.Keeps bd zz s) : State.Keeps bd zz
    (State.qtbResult s r) := by
  unfold State.qtbResult
  try dsimp only
  repeat' first | with_reducible assumption | with_reducible apply State.Keeps.modRegs

theorem State.qtbGo_keeps {bd : Bool} {zz s : State} {p : Nat} {q op d : Nat} {f : State → State}
    (hf : ∀ a0, State.Keeps bd zz a0 → State.Keeps bd zz (f a0)) (h : State.Keeps bd zz s) : State.Keeps bd zz
    (State.qtbGo s p q op d f) := by
  unfold State.qtbGo
  try dsimp only
  repeat' first
    | with_reducible assumption | with_reducible apply hf | with_reducible apply State.Keeps.modRegs | split

theorem State.unpark_keeps {bd : Bool} {zz s : State} {j : Job} (h : State.Keeps bd zz s) : State.Keeps bd zz
    (State.unpark s j) := by
  unfold State.unpark
  try dsimp only
  repeat' first
    | with_reducible assumption | with_reducible apply State.modJob_keeps
    | with_reducible apply State.enterReady_keeps | split

theorem State.unparkAll_keeps {bd : Bool} {zz s : State} {q : Nat} (h : State.Keeps bd zz s) : State.Keeps bd zz
    (State.unparkAll s q) := by
  unfold State.unparkAll
  try dsimp only
  repeat' first
    | with_reducible assumption | with_reducible apply State.unpark_keeps
    | with_reducible refine State.Keeps.foldl (fun _ _ _ => ?_) ?_ | split

theorem State.enableQueue_keeps {bd : Bool} {zz s : State} {hv : HostView} {q : Nat} (h : State.Keeps bd zz s) :
    State.Keeps bd zz (State.enableQueue s hv q) := by
  unfold State.enableQueue
  try dsimp only
  repeat' first
    | with_reducible assumption | with_reducible apply State.modQueue_keeps
    | with_reducible apply State.setQState_keeps | with_reducible apply State.rereadLine_keeps
    | with_reducible apply State.qtbResult_keeps | with_reducible apply State.unparkAll_keeps
    | with_reducible apply State.Keeps.modRegs | split

theorem State.drainQueue_keeps {bd : Bool} {zz s : State} {q : Nat} (h : State.Keeps bd zz s) : State.Keeps bd zz
    (State.drainQueue s q) := by
  unfold State.drainQueue
  try dsimp only
  repeat' first
    | with_reducible assumption | with_reducible apply State.setQState_keeps
    | with_reducible apply State.noteStall_keeps | with_reducible apply State.settleQueue_keeps
    | with_reducible apply State.dropLine_keeps | split

theorem State.parkJob_keeps {bd : Bool} {zz s : State} {j : Job} (h : State.Keeps bd zz s) : State.Keeps bd zz
    (State.parkJob s j) := by
  unfold State.parkJob
  try dsimp only
  repeat' first
    | with_reducible assumption | with_reducible apply State.modJob_keeps
    | with_reducible apply State.leaveReady_keeps | split

theorem State.withdrawQueue_keeps {bd : Bool} {zz s : State} {q : Nat} (h : State.Keeps bd zz s) : State.Keeps bd zz
    (State.withdrawQueue s q) := by
  unfold State.withdrawQueue
  try dsimp only
  repeat' first
    | with_reducible assumption | with_reducible apply State.setQState_keeps
    | with_reducible apply State.noteStall_keeps | with_reducible apply State.settleQueue_keeps
    | with_reducible apply State.dropLine_keeps | with_reducible apply State.parkJob_keeps
    | with_reducible refine State.Keeps.foldl (fun _ _ _ => ?_) ?_ | split

theorem State.startMove_keeps {bd : Bool} {zz s : State} {q d : Nat} (h : State.Keeps bd zz s) : State.Keeps bd zz
    (State.startMove s q d) := by
  unfold State.startMove
  try dsimp only
  repeat' first
    | with_reducible assumption | with_reducible apply State.modQueue_keeps
    | with_reducible apply State.leaveReady_keeps | with_reducible refine State.Keeps.foldl (fun _ _ _ => ?_) ?_
    | with_reducible apply State.Keeps.rest

theorem State.groupGo_keeps {bd : Bool} {zz s : State} {p : Nat} {g op : Nat} {f : State → State}
    (hf : ∀ a0, State.Keeps bd zz a0 → State.Keeps bd zz (f a0)) (h : State.Keeps bd zz s) : State.Keeps bd zz
    (State.groupGo s p g op f) := by
  unfold State.groupGo
  try dsimp only
  repeat' first
    | with_reducible assumption | with_reducible apply hf | with_reducible apply State.Keeps.modRegs | split

theorem State.groupResult_keeps {bd : Bool} {zz s : State} {r : Nat} (h : State.Keeps bd zz s) : State.Keeps bd zz
    (State.groupResult s r) := by
  unfold State.groupResult
  try dsimp only
  repeat' first | with_reducible assumption | with_reducible apply State.Keeps.modRegs

theorem takeDescriptors_keeps {bd : Bool} {zz : State} {hv : HostView} {q : Nat} {x0_ : List Nat} {x1_ : State}
    {x2_ : Nat} (h : State.Keeps bd zz x1_) : State.Keeps bd zz (takeDescriptors hv q x0_ x1_ x2_).1 := by
  induction x0_ generalizing x1_ x2_ with
  | nil => exact h
  | cons k rest ih =>
    unfold takeDescriptors
    split
    · exact ih (State.modQueue_keeps (State.Keeps.rest h))
    · exact h

/-! ### Health -/

theorem State.settleHealthy_keeps {bd : Bool} {zz s : State} (h : State.Keeps bd zz s) : State.Keeps bd zz
    (State.settleHealthy s) := by
  unfold State.settleHealthy
  try dsimp only
  repeat' first
    | with_reducible assumption | split
    | with_reducible refine State.Keeps.pins ?_ (by first | exact fun hp hf => hp hf | exact fun hp hf => ⟨(hp hf).1, rfl⟩ | exact fun hp hf => ⟨rfl, (hp hf).2⟩ | exact fun _ _ => ⟨rfl, rfl⟩)

theorem State.settleFault_keeps {bd : Bool} {zz s : State} (h : State.Keeps bd zz s) : State.Keeps bd zz
    (State.settleFault s) := by
  unfold State.settleFault
  try dsimp only
  repeat' first
    | with_reducible assumption | split
    | with_reducible refine State.Keeps.pins ?_ (by first | exact fun hp hf => hp hf | exact fun hp hf => ⟨(hp hf).1, rfl⟩ | exact fun hp hf => ⟨rfl, (hp hf).2⟩ | exact fun _ _ => ⟨rfl, rfl⟩)

theorem State.settleOwner_keeps {bd : Bool} {zz s : State} (h : State.Keeps bd zz s) : State.Keeps bd zz
    (State.settleOwner s) := by
  unfold State.settleOwner
  try dsimp only
  repeat' first
    | with_reducible assumption | with_reducible apply State.fresh_keeps | split
    | with_reducible refine State.Keeps.pins ?_ (by first | exact fun hp hf => hp hf | exact fun hp hf => ⟨(hp hf).1, rfl⟩ | exact fun hp hf => ⟨rfl, (hp hf).2⟩ | exact fun _ _ => ⟨rfl, rfl⟩)

theorem State.settleSupervisor_keeps {bd : Bool} {zz s : State} (h : State.Keeps bd zz s) : State.Keeps bd zz
    (State.settleSupervisor s) := by
  unfold State.settleSupervisor
  try dsimp only
  repeat' first
    | with_reducible assumption | with_reducible refine State.Keeps.modDies ?_ (fun _ => ?_) | split
    | with_reducible exact Die.Keeps.refl _ | with_reducible apply Die.Keeps.rest
    | with_reducible apply State.Keeps.rest

theorem State.settleAlert_keeps {bd : Bool} {zz s : State} (h : State.Keeps bd zz s) : State.Keeps bd zz
    (State.settleAlert s) := by
  unfold State.settleAlert
  try dsimp only
  repeat' first
    | with_reducible assumption | split
    | with_reducible refine State.Keeps.pins ?_ (by first | exact fun hp hf => hp hf | exact fun hp hf => ⟨(hp hf).1, rfl⟩ | exact fun hp hf => ⟨rfl, (hp hf).2⟩ | exact fun _ _ => ⟨rfl, rfl⟩)

theorem State.settle_keeps {bd : Bool} {zz s : State} (h : State.Keeps bd zz s) : State.Keeps bd zz (State.settle s) := by
  unfold State.settle
  try dsimp only
  repeat' first
    | with_reducible assumption | with_reducible apply State.settleHealthy_keeps
    | with_reducible apply State.settleFault_keeps | with_reducible apply State.settleOwner_keeps
    | with_reducible apply State.settleSupervisor_keeps | with_reducible apply State.settleAlert_keeps

theorem State.exposeHoldings_keeps {bd : Bool} {zz s : State} {d : Nat} (h : State.Keeps bd zz s) : State.Keeps bd zz
    (State.exposeHoldings s d) := by
  unfold State.exposeHoldings
  try dsimp only
  repeat' first | with_reducible assumption | with_reducible apply State.Keeps.rest

theorem State.renewHolders_keeps {bd : Bool} {zz s : State} (h : State.Keeps bd zz s) : State.Keeps bd zz
    (State.renewHolders s) := by
  unfold State.renewHolders
  try dsimp only
  repeat' first | with_reducible assumption | with_reducible apply State.Keeps.rest

theorem State.loseFlows_keeps {bd : Bool} {zz s : State} {d : Nat} (h : State.Keeps bd zz s) : State.Keeps bd zz
    (State.loseFlows s d) := by
  unfold State.loseFlows
  try dsimp only
  repeat' first | with_reducible assumption | with_reducible apply State.Keeps.rest

theorem State.loseChannels_keeps {bd : Bool} {zz s : State} (h : State.Keeps bd zz s) : State.Keeps bd zz
    (State.loseChannels s) := by
  unfold State.loseChannels
  try dsimp only
  repeat' first
    | with_reducible assumption | with_reducible apply State.logErr_keeps
    | with_reducible refine State.Keeps.foldl (fun _ _ _ => ?_) ?_ | with_reducible apply State.Keeps.rest

theorem State.loseObjects_keeps {bd : Bool} {zz s : State} (h : State.Keeps bd zz s) : State.Keeps bd zz
    (State.loseObjects s) := by
  unfold State.loseObjects
  try dsimp only
  repeat' first
    | with_reducible assumption | with_reducible apply State.complete_keeps
    | with_reducible refine State.Keeps.foldl (fun _ _ _ => ?_) ?_ | with_reducible apply State.Keeps.rest

theorem State.settleStore_keeps {bd : Bool} {zz s : State} (h : State.Keeps bd zz s) : State.Keeps bd zz
    (State.settleStore s) := by
  unfold State.settleStore
  try dsimp only
  repeat' first
    | with_reducible assumption | with_reducible apply State.writeCompletions_keeps
    | with_reducible refine State.Keeps.foldl (fun _ _ _ => ?_) ?_

theorem Die.stop_keeps {zz x : Die} {lost : Bool} (h : Die.Keeps zz x) : Die.Keeps zz (Die.stop x lost) := by
  unfold Die.stop
  exact h.trans ⟨fun _ => rfl, Fuses.Le.refl _⟩

theorem State.writeSegState_keeps {bd : Bool} {zz s : State} {d v : Nat} (h : State.Keeps bd zz s) : State.Keeps bd zz
    (State.writeSegState s d v) := by
  unfold State.writeSegState
  try dsimp only
  repeat' first | with_reducible assumption | with_reducible apply State.writeHost_keeps

theorem State.startFence_keeps {bd : Bool} {zz s : State} {d : Nat} {log : Bool} (h : State.Keeps bd zz s) : State.Keeps
    bd zz (State.startFence s d log) := by
  unfold State.startFence
  try dsimp only
  repeat' first
    | with_reducible assumption | with_reducible apply State.writeSegState_keeps | split
    | with_reducible apply State.Keeps.rest

theorem State.nextFence_keeps {bd : Bool} {zz s : State} (h : State.Keeps bd zz s) : State.Keeps bd zz (State.nextFence s) := by
  unfold State.nextFence
  try dsimp only
  repeat' first
    | with_reducible assumption | with_reducible apply State.startFence_keeps | split
    | with_reducible apply State.Keeps.rest

theorem State.restartStored_keeps {bd : Bool} {zz s : State} {d : Nat} (h : State.Keeps bd zz s) : State.Keeps bd zz
    (State.restartStored s d) := by
  unfold State.restartStored
  try dsimp only
  repeat' first
    | with_reducible assumption | with_reducible apply State.modJob_keeps
    | with_reducible apply State.releaseFlow_keeps | with_reducible refine State.Keeps.foldl (fun _ _ _ => ?_) ?_

theorem State.loseStored_keeps {bd : Bool} {zz s : State} {d : Nat} {k : List (Nat × Nat)} (h : State.Keeps bd zz s) :
    State.Keeps bd zz (State.loseStored s d k) := by
  unfold State.loseStored
  try dsimp only
  repeat' first
    | with_reducible assumption | with_reducible apply State.redispatchAll_keeps
    | with_reducible apply State.restartStored_keeps

theorem State.enterD3_keeps {bd : Bool} {zz s : State} {d : Nat} (h : State.Keeps bd zz s) : State.Keeps bd zz
    (State.enterD3 s d) := by
  unfold State.enterD3
  try dsimp only
  repeat' first
    | with_reducible assumption | with_reducible apply State.settle_keeps
    | with_reducible apply State.exposeHoldings_keeps | with_reducible apply State.renewHolders_keeps
    | with_reducible apply State.loseFlows_keeps | with_reducible apply State.settleStore_keeps
    | with_reducible apply Die.stop_keeps | with_reducible apply State.writeSegState_keeps
    | with_reducible apply State.loseStored_keeps | with_reducible refine State.Keeps.modDie ?_ (fun _ => ?_) | split
    | with_reducible exact Die.Keeps.refl _ | with_reducible apply Die.Keeps.rest
    | with_reducible apply State.Keeps.rest

theorem State.settleD3_keeps {bd : Bool} {zz s : State} (h : State.Keeps bd zz s) : State.Keeps bd zz (State.settleD3 s) := by
  unfold State.settleD3
  try dsimp only
  repeat' first
    | with_reducible assumption | with_reducible apply State.enterD3_keeps
    | with_reducible refine State.Keeps.foldl (fun _ _ _ => ?_) ?_

theorem State.finishMove_keeps {bd : Bool} {zz s : State} {hv : HostView} {q : Nat} (h : State.Keeps bd zz s) :
    State.Keeps bd zz (State.finishMove s hv q) := by
  unfold State.finishMove
  try dsimp only
  repeat' first
    | with_reducible assumption | with_reducible apply State.modQueue_keeps
    | with_reducible apply State.putEntry_keeps | with_reducible apply State.enterReady_keeps
    | with_reducible apply State.unlist_keeps | with_reducible apply State.writeCompletions_keeps
    | with_reducible apply State.rereadLine_keeps | with_reducible apply State.unparkAll_keeps
    | with_reducible apply State.settleD3_keeps | with_reducible apply State.Keeps.modRegs
    | with_reducible refine State.Keeps.foldl (fun _ _ _ => ?_) ?_ | split | with_reducible apply State.Keeps.rest

theorem State.keepAfterMove_keeps {bd : Bool} {zz s : State} {q : Nat} (h : State.Keeps bd zz s) : State.Keeps bd zz
    (State.keepAfterMove s q) := by
  unfold State.keepAfterMove
  try dsimp only
  repeat' first
    | with_reducible assumption | with_reducible apply State.ledgerWrite_keeps
    | with_reducible refine State.Keeps.modDie ?_ (fun _ => ?_)
    | with_reducible refine State.Keeps.foldl (fun _ _ _ => ?_) ?_ | split | with_reducible exact Die.Keeps.refl _
    | with_reducible apply Die.Keeps.rest

theorem State.failMove_keeps {bd : Bool} {zz s : State} {q : Nat} (h : State.Keeps bd zz s) : State.Keeps bd zz
    (State.failMove s q) := by
  unfold State.failMove
  try dsimp only
  repeat' first
    | with_reducible assumption | with_reducible apply State.modQueue_keeps
    | with_reducible apply State.enterReady_keeps | with_reducible apply State.unparkAll_keeps
    | with_reducible apply State.keepAfterMove_keeps | with_reducible apply State.Keeps.modRegs
    | with_reducible refine State.Keeps.foldl (fun _ _ _ => ?_) ?_ | split | with_reducible apply State.Keeps.rest

theorem State.settleMoves_keeps {bd : Bool} {zz s : State} {d : Nat} (h : State.Keeps bd zz s) : State.Keeps bd zz
    (State.settleMoves s d) := by
  unfold State.settleMoves
  try dsimp only
  repeat' first
    | with_reducible assumption | with_reducible apply State.finishMove_keeps
    | with_reducible apply State.failMove_keeps | with_reducible refine State.Keeps.foldl (fun _ _ _ => ?_) ?_ | split

theorem State.dropDie_keeps {bd : Bool} {zz s : State} {d : Nat} {log : Bool} (h : State.Keeps bd zz s) : State.Keeps bd
    zz (State.dropDie s d log) := by
  unfold State.dropDie
  split
  · exact h
  extract_lets s1 others s2 own s3 s4 s5 was s6 again p7 s7 p8 s8
  have h2 : State.Keeps bd zz s2 :=
    State.loseStored_keeps (State.loseFlows_keeps (State.settleMoves_keeps h))
  have h3 : State.Keeps bd zz s3 := State.Keeps.rest h2
  have h4 : State.Keeps bd zz s4 := State.Keeps.foldl (fun _ _ w => State.clearOps_keeps (State.leaveReady_keeps w)) h3
  have h5 : State.Keeps bd zz s5 := State.Keeps.modDie (State.Keeps.rest h4) (fun x => Die.stop_keeps (Die.Keeps.refl x))
  have h6 : State.Keeps bd zz s6 := State.settle_keeps (State.renewHolders_keeps (State.exposeHoldings_keeps h5))
  have h7 : State.Keeps bd zz s7 := State.Keeps.ite (State.Keeps.rest h6) h6
  have h8 : State.Keeps bd zz s8 :=
    State.Keeps.ite (State.nextFence_keeps (State.Keeps.rest h7)) (State.Keeps.ite (State.logErr_keeps h7) h7)
  exact State.settle_keeps (State.settleStore_keeps (State.loseChannels_keeps (State.loseObjects_keeps h8)))

theorem State.loseDie_keeps {bd : Bool} {zz s : State} {d cause : Nat} {injected : Bool} (h : State.Keeps bd zz s) :
    State.Keeps bd zz (State.loseDie s d cause injected) := by
  unfold State.loseDie
  exact State.Keeps.ite h (State.dropDie_keeps (State.logErr_keeps h))

theorem State.beginReturn_keeps {bd : Bool} {zz s : State} {d keep : Nat} (h : State.Keeps bd zz s) : State.Keeps bd zz
    (State.beginReturn s d keep) := by
  unfold State.beginReturn
  try dsimp only
  repeat' first
    | with_reducible assumption | with_reducible apply Die.stop_keeps
    | with_reducible refine State.Keeps.modDie ?_ (fun _ => ?_) | with_reducible exact Die.Keeps.refl _
    | with_reducible apply Die.Keeps.rest

theorem State.startReturn_keeps {bd : Bool} {zz s : State} {d keep : Nat} (h : State.Keeps bd zz s) : State.Keeps bd zz
    (State.startReturn s d keep) := by
  unfold State.startReturn
  try dsimp only
  repeat' first
    | with_reducible assumption | with_reducible apply State.logErr_keeps | with_reducible apply State.loseDie_keeps
    | with_reducible apply State.beginReturn_keeps | split

/-! ### Ledger -/

theorem State.becomeAccepted_keeps {bd : Bool} {zz s : State} {q n : Nat} (h : State.Keeps bd zz s) : State.Keeps bd zz
    (State.becomeAccepted s q n) := by
  unfold State.becomeAccepted
  try dsimp only
  repeat' first
    | with_reducible assumption | with_reducible apply State.modJob_keeps
    | with_reducible apply State.settleQueue_keeps | with_reducible apply State.complete_keeps | split

theorem State.dropKeys_keeps {bd : Bool} {zz s : State} {q : Nat} {n c : Nat} (h : State.Keeps bd zz s) : State.Keeps bd
    zz (State.dropKeys s q n c) := by
  unfold State.dropKeys
  try dsimp only
  repeat' first | with_reducible assumption | with_reducible apply State.Keeps.rest

theorem State.closeDurable_keeps {bd : Bool} {zz s : State} {d : Nat} {q n c : Nat} (h : State.Keeps bd zz s) :
    State.Keeps bd zz (State.closeDurable s d q n c) := by
  unfold State.closeDurable
  try dsimp only
  repeat' first
    | with_reducible assumption | with_reducible apply State.dropKeys_keeps
    | with_reducible refine State.Keeps.modDie ?_ (fun _ => ?_) | with_reducible exact Die.Keeps.refl _
    | with_reducible apply Die.Keeps.rest

theorem State.completeControls_keeps {bd : Bool} {zz s : State} {l : List (Nat × Nat)} (h : State.Keeps bd zz s) :
    State.Keeps bd zz (State.completeControls s l) := by
  unfold State.completeControls
  try dsimp only
  repeat' first
    | with_reducible assumption | with_reducible apply State.complete_keeps
    | with_reducible refine State.Keeps.foldl (fun _ _ _ => ?_) ?_

theorem State.suspendDurable_keeps {bd : Bool} {zz s : State} {q n : Nat} (h : State.Keeps bd zz s) : State.Keeps bd zz
    (State.suspendDurable s q n) := by
  unfold State.suspendDurable
  try dsimp only
  repeat' first | with_reducible assumption | with_reducible apply State.completeControls_keeps

theorem State.resumeDurable_keeps {bd : Bool} {zz s : State} {q n : Nat} (h : State.Keeps bd zz s) : State.Keeps bd zz
    (State.resumeDurable s q n) := by
  unfold State.resumeDurable
  try dsimp only
  repeat' first | with_reducible assumption | with_reducible apply State.completeControls_keeps

theorem State.itemDurable_keeps {bd : Bool} {zz s : State} {hv : HostView} {d : Nat} {it : LedgerItem}
    (h : State.Keeps bd zz s) : State.Keeps bd zz (State.itemDurable s hv d it) := by
  unfold State.itemDurable
  try dsimp only
  repeat' first
    | with_reducible assumption | with_reducible apply State.modQueue_keeps
    | with_reducible apply State.ackError_keeps | with_reducible apply State.traceEv_keeps
    | with_reducible apply State.putEntry_keeps | with_reducible apply State.publishAccepted_keeps
    | with_reducible apply State.rereadLine_keeps | with_reducible apply State.finishMove_keeps
    | with_reducible apply State.becomeAccepted_keeps | with_reducible apply State.closeDurable_keeps
    | with_reducible apply State.suspendDurable_keeps | with_reducible apply State.resumeDurable_keeps
    | with_reducible refine State.Keeps.foldl (fun _ _ _ => ?_) ?_ | split

theorem State.stepReclaim_keeps {bd : Bool} {zz s : State} {d : Nat} (h : State.Keeps bd zz s) : State.Keeps bd zz
    (State.stepReclaim s d) := by
  unfold State.stepReclaim
  try dsimp only
  repeat' first
    | with_reducible assumption | with_reducible apply State.writeHeader_keeps
    | with_reducible refine State.Keeps.modDie ?_ (fun _ => ?_) | split | with_reducible exact Die.Keeps.refl _
    | with_reducible apply Die.Keeps.rest

theorem State.stepMoves_keeps {bd : Bool} {zz s : State} {d : Nat} (h : State.Keeps bd zz s) : State.Keeps bd zz
    (State.stepMoves s d) := by
  unfold State.stepMoves
  try dsimp only
  repeat' first
    | with_reducible assumption | with_reducible apply State.modQueue_keeps
    | with_reducible apply State.ledgerWrite_keeps | with_reducible refine State.Keeps.foldl (fun _ _ _ => ?_) ?_
    | split

theorem State.placeRecovered_keeps {bd : Bool} {zz s : State} {hv : HostView} {q : Nat} (h : State.Keeps bd zz s) :
    State.Keeps bd zz (State.placeRecovered s hv q) := by
  unfold State.placeRecovered
  try dsimp only
  repeat' first
    | with_reducible assumption | with_reducible apply State.modQueue_keeps
    | with_reducible apply State.becomeAccepted_keeps | split | with_reducible apply State.Keeps.rest

theorem State.placeAllRecovered_keeps {bd : Bool} {zz s : State} {hv : HostView} (h : State.Keeps bd zz s) : State.Keeps
    bd zz (State.placeAllRecovered s hv) := by
  unfold State.placeAllRecovered
  try dsimp only
  repeat' first
    | with_reducible assumption | with_reducible apply State.placeRecovered_keeps
    | with_reducible refine State.Keeps.foldl (fun _ _ _ => ?_) ?_

theorem State.allDurable_keeps {bd : Bool} {zz s : State} {hv : HostView} {d : Nat} (h : State.Keeps bd zz s) :
    State.Keeps bd zz (State.allDurable s hv d) := by
  unfold State.allDurable
  try dsimp only
  repeat' first
    | with_reducible assumption | with_reducible apply State.ledgerWrite_keeps
    | with_reducible apply State.flushDie_keeps | with_reducible apply State.itemDurable_keeps
    | with_reducible apply State.stepReclaim_keeps | with_reducible apply State.stepMoves_keeps
    | with_reducible apply State.placeAllRecovered_keeps | with_reducible refine State.Keeps.modDie ?_ (fun _ => ?_)
    | with_reducible refine State.Keeps.foldl (fun _ _ _ => ?_) ?_ | with_reducible exact Die.Keeps.refl _
    | with_reducible apply Die.Keeps.rest

theorem State.selfReset_keeps {bd : Bool} {zz s : State} {d : Nat} (h : State.Keeps bd zz s) : State.Keeps bd zz
    (State.selfReset s d) := by
  unfold State.selfReset
  exact State.startReturn_keeps (State.dropDie_keeps (State.Keeps.dropChallenge h))

theorem State.orderingRead_keeps {bd : Bool} {zz s : State} {hv : HostView} {d : Nat} (h : State.Keeps bd zz s) :
    State.Keeps bd zz (State.orderingRead s hv d) := by
  unfold State.orderingRead
  try dsimp only
  repeat' first
    | with_reducible assumption | with_reducible apply State.allDurable_keeps
    | with_reducible apply State.selfReset_keeps | with_reducible refine State.Keeps.modDie ?_ (fun _ => ?_) | split
    | with_reducible exact Die.Keeps.refl _ | with_reducible apply Die.Keeps.rest

theorem State.dropComplete_keeps {bd : Bool} {zz s : State} {d : Nat} (h : State.Keeps bd zz s) : State.Keeps bd zz
    (State.dropComplete s d) := by
  unfold State.dropComplete
  try dsimp only
  repeat' first
    | with_reducible assumption | with_reducible apply State.dropKeys_keeps
    | with_reducible refine State.Keeps.foldl (fun _ _ _ => ?_) ?_

/-! ### Waits -/

theorem State.abortSlices_keeps {bd : Bool} {zz s : State} {j : Job} (h : State.Keeps bd zz s) : State.Keeps bd zz
    (State.abortSlices s j) := by
  unfold State.abortSlices
  try dsimp only
  repeat' first
    | with_reducible assumption | with_reducible refine State.Keeps.modDie ?_ (fun _ => ?_)
    | with_reducible refine State.Keeps.foldl (fun _ _ _ => ?_) ?_ | split | with_reducible exact Die.Keeps.refl _
    | with_reducible apply Die.Keeps.rest

theorem State.becomeReady_keeps {bd : Bool} {zz s : State} {j : Job} (h : State.Keeps bd zz s) : State.Keeps bd zz
    (State.becomeReady s j) := by
  unfold State.becomeReady
  try dsimp only
  repeat' first
    | with_reducible assumption | with_reducible apply State.enterReady_keeps
    | with_reducible apply State.abortSlices_keeps

theorem State.notify_keeps {bd : Bool} {zz s : State} {o d : Nat} (h : State.Keeps bd zz s) : State.Keeps bd zz
    (State.notify s o d) := by
  unfold State.notify
  try dsimp only
  repeat' first | with_reducible assumption | with_reducible apply State.sendCtrl_keeps | split

theorem State.noticeObject_keeps {bd : Bool} {zz s : State} {o : Nat} (h : State.Keeps bd zz s) : State.Keeps bd zz
    (State.noticeObject s o) := by
  unfold State.noticeObject
  try dsimp only
  repeat' first
    | with_reducible assumption | with_reducible apply State.notify_keeps
    | with_reducible refine State.Keeps.foldl (fun _ _ _ => ?_) ?_ | with_reducible apply State.Keeps.rest

theorem State.noticeWorld_keeps {bd : Bool} {zz s : State} {w : Nat} (h : State.Keeps bd zz s) : State.Keeps bd zz
    (State.noticeWorld s w) := by
  unfold State.noticeWorld
  try dsimp only
  repeat' first
    | with_reducible assumption | with_reducible apply State.noticeObject_keeps
    | with_reducible refine State.Keeps.foldl (fun _ _ _ => ?_) ?_

theorem State.changeObject_keeps {bd : Bool} {zz s : State} {j : Job} {f : Option SyncObj → SyncObj × Nat}
    (h : State.Keeps bd zz s) : State.Keeps bd zz (State.changeObject s j f) := by
  unfold State.changeObject
  try dsimp only
  repeat' first
    | with_reducible assumption | with_reducible apply State.complete_keeps
    | with_reducible apply State.noticeObject_keeps | split | with_reducible apply State.Keeps.rest

/-! ### Locks -/

theorem State.lockPc_keeps {bd : Bool} {zz s : State} {d : Nat} {pc w g : Nat} (h : State.Keeps bd zz s) : State.Keeps bd
    zz (State.lockPc s d pc w g) := by
  unfold State.lockPc
  try dsimp only
  repeat' first
    | with_reducible assumption | with_reducible apply State.modArb_keeps | with_reducible apply State.granted_keeps
    | with_reducible apply State.queued_keeps | with_reducible refine State.Keeps.foldl (fun _ _ _ => ?_) ?_ | split

theorem State.unlockWorld_keeps {bd : Bool} {zz s : State} {d w : Nat} (h : State.Keeps bd zz s) : State.Keeps bd zz
    (State.unlockWorld s d w) := by
  unfold State.unlockWorld
  try dsimp only
  repeat' first
    | with_reducible assumption | with_reducible refine State.Keeps.modDie ?_ (fun _ => ?_)
    | with_reducible exact Die.Keeps.refl _ | with_reducible apply Die.Keeps.rest

theorem State.vaultOp_keeps {bd : Bool} {zz s : State} {d r : Nat} {held : Bool}
    {f : State → Host.Outcome State Fault Refusal} (hf : ∀ a0, State.Keeps bd zz a0 → State.KeepsOut bd zz (f a0))
    (h : State.Keeps bd zz s) : State.KeepsOut bd zz (State.vaultOp s d r held f) := by
  unfold State.vaultOp
  try dsimp only
  repeat' first
    | with_reducible assumption | with_reducible apply hf | with_reducible apply State.KeepsOut.next
    | with_reducible apply State.modArb_keeps | with_reducible apply State.cross_keeps
    | with_reducible refine State.Keeps.modDie ?_ (fun _ => ?_) | split | with_reducible exact Die.Keeps.refl _
    | with_reducible apply Die.Keeps.rest | intro

theorem Die.endVault_keeps {zz x : Die} (h : Die.Keeps zz x) : Die.Keeps zz (Die.endVault x) := by
  unfold Die.endVault
  try dsimp only
  repeat' first | with_reducible assumption | split | with_reducible apply Die.Keeps.rest

theorem State.rollbackRecord_keeps {bd : Bool} {zz s : State} {d w : Nat} (h : State.Keeps bd zz s) : State.Keeps bd zz
    (State.rollbackRecord s d w) := by
  unfold State.rollbackRecord
  try dsimp only
  repeat' first
    | with_reducible assumption | with_reducible refine State.Keeps.modDie ?_ (fun _ => ?_) | split
    | with_reducible exact Die.Keeps.refl _ | with_reducible apply Die.Keeps.rest
    | with_reducible apply State.Keeps.rest

theorem State.orphanLock_keeps {bd : Bool} {zz s : State} {d n : Nat} (h : State.Keeps bd zz s) : State.Keeps bd zz
    (State.orphanLock s d n) := by
  unfold State.orphanLock
  try dsimp only
  repeat' first
    | with_reducible assumption | with_reducible apply State.logErr_keeps | with_reducible apply State.modArb_keeps
    | with_reducible apply State.rollbackRecord_keeps | with_reducible refine State.Keeps.modDie ?_ (fun _ => ?_)
    | with_reducible refine State.Keeps.foldl (fun _ _ _ => ?_) ?_ | split | with_reducible exact Die.Keeps.refl _
    | with_reducible apply Die.Keeps.rest

theorem State.orphanOf_keeps {bd : Bool} {zz s : State} {d g : Nat} (h : State.Keeps bd zz s) : State.Keeps bd zz
    (State.orphanOf s d g) := by
  unfold State.orphanOf
  try dsimp only
  repeat' first
    | with_reducible assumption | with_reducible apply State.orphanLock_keeps
    | with_reducible refine State.Keeps.foldl (fun _ _ _ => ?_) ?_

/-! ### Units -/

theorem State.modUnit_keeps {bd : Bool} {zz s : State} {d u : Nat} {f : TestUnit → TestUnit} (h : State.Keeps bd zz s) :
    State.Keeps bd zz (State.modUnit s d u f) := by
  unfold State.modUnit
  try dsimp only
  repeat' first
    | with_reducible assumption | with_reducible refine State.Keeps.modDie ?_ (fun _ => ?_)
    | with_reducible exact Die.Keeps.refl _ | with_reducible apply Die.Keeps.rest

theorem State.modCluster_keeps {bd : Bool} {zz s : State} {d c : Nat} {f : Cluster → Cluster} (h : State.Keeps bd zz s) :
    State.Keeps bd zz (State.modCluster s d c f) := by
  unfold State.modCluster
  try dsimp only
  repeat' first
    | with_reducible assumption | with_reducible refine State.Keeps.modDie ?_ (fun _ => ?_)
    | with_reducible exact Die.Keeps.refl _ | with_reducible apply Die.Keeps.rest

theorem State.modSpares_keeps {bd : Bool} {zz s : State} {d : Nat} {f : Spares → Spares} (h : State.Keeps bd zz s) :
    State.Keeps bd zz (State.modSpares s d f) := by
  unfold State.modSpares
  try dsimp only
  repeat' first
    | with_reducible assumption | with_reducible refine State.Keeps.modDie ?_ (fun _ => ?_)
    | with_reducible exact Die.Keeps.refl _ | with_reducible apply Die.Keeps.rest

theorem State.spareUsed_keeps {bd : Bool} {zz s : State} {d : Nat} {failed spare : Nat} {inj : Bool}
    (h : State.Keeps bd zz s) : State.Keeps bd zz (State.spareUsed s d failed spare inj) := by
  unfold State.spareUsed
  try dsimp only
  repeat' first | with_reducible assumption | with_reducible apply State.logErr_keeps

theorem State.spareFailed_keeps {bd : Bool} {zz s : State} {d spare : Nat} {inj : Bool} (h : State.Keeps bd zz s) :
    State.Keeps bd zz (State.spareFailed s d spare inj) := by
  unfold State.spareFailed
  try dsimp only
  repeat' first | with_reducible assumption | with_reducible apply State.logErr_keeps

theorem State.awaitSpare_keeps {bd : Bool} {zz s : State} {d : Nat} {spare failed code : Nat} {inj : Bool}
    (h : State.Keeps bd zz s) : State.Keeps bd zz (State.awaitSpare s d spare failed code inj) := by
  unfold State.awaitSpare
  try dsimp only
  repeat' first
    | with_reducible assumption | with_reducible apply State.modUnit_keeps
    | with_reducible apply State.modSpares_keeps

theorem State.mapCluster_keeps {bd : Bool} {zz s : State} {d c : Nat} {inj : Bool} (h : State.Keeps bd zz s) : State.Keeps
    bd zz (State.mapCluster s d c inj) := by
  unfold State.mapCluster
  try dsimp only
  repeat' first
    | with_reducible assumption | with_reducible apply State.modCluster_keeps
    | with_reducible apply State.modSpares_keeps | with_reducible apply State.spareUsed_keeps

theorem State.replaceCluster_keeps {bd : Bool} {zz s : State} {d : Nat} {c code : Nat} {inj : Bool}
    (h : State.Keeps bd zz s) : State.Keeps bd zz (State.replaceCluster s d c code inj) := by
  unfold State.replaceCluster
  try dsimp only
  repeat' first
    | with_reducible assumption | with_reducible apply State.logErr_keeps | with_reducible apply State.modSpares_keeps
    | with_reducible apply State.spareFailed_keeps | with_reducible apply State.awaitSpare_keeps
    | with_reducible apply State.mapCluster_keeps | split

theorem State.failCluster_keeps {bd : Bool} {zz s : State} {d : Nat} {c code : Nat} {inj : Bool} (h : State.Keeps bd zz s)
    : State.Keeps bd zz (State.failCluster s d c code inj) := by
  unfold State.failCluster
  try dsimp only
  repeat' first
    | with_reducible assumption | with_reducible apply State.redispatchAll_keeps
    | with_reducible apply State.modCluster_keeps | with_reducible apply State.replaceCluster_keeps | split

theorem State.failColumn_keeps {bd : Bool} {zz s : State} {d : Nat} {c col code : Nat} {inj : Bool}
    (h : State.Keeps bd zz s) : State.Keeps bd zz (State.failColumn s d c col code inj) := by
  unfold State.failColumn
  try dsimp only
  repeat' first
    | with_reducible assumption | with_reducible apply State.modUnit_keeps
    | with_reducible apply State.modSpares_keeps | with_reducible apply State.spareUsed_keeps
    | with_reducible apply State.spareFailed_keeps | with_reducible apply State.failCluster_keeps | split

theorem State.mapBank_keeps {bd : Bool} {zz s : State} {d : Nat} {c b : Nat} {inj : Bool} (h : State.Keeps bd zz s) :
    State.Keeps bd zz (State.mapBank s d c b inj) := by
  unfold State.mapBank
  try dsimp only
  repeat' first
    | with_reducible assumption | with_reducible apply State.modCluster_keeps
    | with_reducible apply State.modSpares_keeps | with_reducible apply State.spareUsed_keeps

theorem State.failBank_keeps {bd : Bool} {zz s : State} {d : Nat} {c b code : Nat} {inj : Bool} (h : State.Keeps bd zz s)
    : State.Keeps bd zz (State.failBank s d c b code inj) := by
  unfold State.failBank
  try dsimp only
  repeat' first
    | with_reducible assumption | with_reducible apply State.redispatchAll_keeps
    | with_reducible apply State.modSpares_keeps | with_reducible apply State.spareFailed_keeps
    | with_reducible apply State.awaitSpare_keeps | with_reducible apply State.failCluster_keeps
    | with_reducible apply State.mapBank_keeps | split

theorem State.failPipeline_keeps {bd : Bool} {zz s : State} {d : Nat} {c k code : Nat} {inj : Bool}
    (h : State.Keeps bd zz s) : State.Keeps bd zz (State.failPipeline s d c k code inj) := by
  unfold State.failPipeline
  try dsimp only
  repeat' first
    | with_reducible assumption | with_reducible apply State.modUnit_keeps
    | with_reducible apply State.modSpares_keeps | with_reducible apply State.spareUsed_keeps
    | with_reducible apply State.spareFailed_keeps | with_reducible apply State.failCluster_keeps | split

theorem State.mapGqu_keeps {bd : Bool} {zz s : State} {d g : Nat} {inj : Bool} (h : State.Keeps bd zz s) : State.Keeps bd
    zz (State.mapGqu s d g inj) := by
  unfold State.mapGqu
  try dsimp only
  repeat' first
    | with_reducible assumption | with_reducible apply State.modSpares_keeps
    | with_reducible apply State.spareUsed_keeps

theorem State.failGqu_keeps {bd : Bool} {zz s : State} {d : Nat} {g code : Nat} {answers inj : Bool}
    (h : State.Keeps bd zz s) : State.Keeps bd zz (State.failGqu s d g code answers inj) := by
  unfold State.failGqu
  try dsimp only
  repeat' first
    | with_reducible assumption | with_reducible apply State.redispatchAll_keeps
    | with_reducible apply State.loseDie_keeps | with_reducible apply State.orphanOf_keeps
    | with_reducible apply State.modSpares_keeps | with_reducible apply State.spareFailed_keeps
    | with_reducible apply State.awaitSpare_keeps | with_reducible apply State.mapGqu_keeps | split

theorem State.failContext_keeps {bd : Bool} {zz s : State} {d code : Nat} {inj : Bool} (h : State.Keeps bd zz s) :
    State.Keeps bd zz (State.failContext s d code inj) := by
  unfold State.failContext
  try dsimp only
  repeat' first
    | with_reducible assumption | with_reducible apply State.loseDie_keeps
    | with_reducible apply State.modSpares_keeps | with_reducible apply State.spareUsed_keeps | split

theorem State.actOnFailure_keeps {bd : Bool} {zz s : State} {d : Nat} {u code : Nat} {answers inj : Bool}
    (h : State.Keeps bd zz s) : State.Keeps bd zz (State.actOnFailure s d u code answers inj) := by
  unfold State.actOnFailure
  try dsimp only
  repeat' first
    | with_reducible assumption | with_reducible apply State.loseDie_keeps
    | with_reducible apply State.replaceCluster_keeps | with_reducible apply State.failCluster_keeps
    | with_reducible apply State.failColumn_keeps | with_reducible apply State.failBank_keeps
    | with_reducible apply State.failPipeline_keeps | with_reducible apply State.failGqu_keeps
    | with_reducible apply State.failContext_keeps | split

theorem State.failUnit_keeps {bd : Bool} {zz s : State} {d : Nat} {u code : Nat} {answers inj : Bool}
    (h : State.Keeps bd zz s) : State.Keeps bd zz (State.failUnit s d u code answers inj) := by
  unfold State.failUnit
  try dsimp only
  repeat' first
    | with_reducible assumption | with_reducible apply State.modUnit_keeps
    | with_reducible apply State.modSpares_keeps | with_reducible apply State.actOnFailure_keeps | split

theorem State.nextFailsAux_keeps {bd : Bool} {zz : State} {x0_ x1_ : Nat} {x2_ : State} (h : State.Keeps bd zz x2_) :
    State.Keeps bd zz (State.nextFailsAux x0_ x1_ x2_) := by
  induction x0_ generalizing x2_ with
  | zero => exact h
  | succ k ih =>
    unfold State.nextFailsAux
    split
    · exact h
    · split
      · exact h
      · exact ih (State.actOnFailure_keeps (State.modSpares_keeps h))

theorem State.nextFails_keeps {bd : Bool} {zz s : State} {d : Nat} (h : State.Keeps bd zz s) : State.Keeps bd zz
    (State.nextFails s d) := by
  unfold State.nextFails
  try dsimp only
  repeat' first | with_reducible assumption | with_reducible apply State.nextFailsAux_keeps

theorem State.resumeFails_keeps {bd : Bool} {zz s : State} {d : Nat} (h : State.Keeps bd zz s) : State.Keeps bd zz
    (State.resumeFails s d) := by
  unfold State.resumeFails
  try dsimp only
  repeat' first
    | with_reducible assumption | with_reducible apply State.modSpares_keeps
    | with_reducible apply State.actOnFailure_keeps | with_reducible apply State.nextFails_keeps | split

theorem State.quarantine_keeps {bd : Bool} {zz s : State} {d : Nat} {u rule : Nat} {inj : Bool} (h : State.Keeps bd zz s)
    : State.Keeps bd zz (State.quarantine s d u rule inj) := by
  unfold State.quarantine
  try dsimp only
  repeat' first
    | with_reducible assumption | with_reducible apply State.logErr_keeps | with_reducible apply State.modUnit_keeps
    | with_reducible apply State.failUnit_keeps | split

theorem State.markSuspect_keeps {bd : Bool} {zz s : State} {d u : Nat} {inj : Bool} (h : State.Keeps bd zz s) :
    State.Keeps bd zz (State.markSuspect s d u inj) := by
  unfold State.markSuspect
  try dsimp only
  repeat' first
    | with_reducible assumption | with_reducible apply State.modUnit_keeps
    | with_reducible apply State.quarantine_keeps | split

theorem State.abortBanks_keeps {bd : Bool} {zz s : State} {d c : Nat} (h : State.Keeps bd zz s) : State.Keeps bd zz
    (State.abortBanks s d c) := by
  unfold State.abortBanks
  try dsimp only
  repeat' first
    | with_reducible assumption | with_reducible refine State.Keeps.modDie ?_ (fun _ => ?_)
    | with_reducible exact Die.Keeps.refl _ | with_reducible apply Die.Keeps.rest

theorem Die.buildLattice_keeps {zz x : Die} {g : Nat} (h : Die.Keeps zz x) : Die.Keeps zz (Die.buildLattice x g) := by
  unfold Die.buildLattice
  try dsimp only
  repeat' first | with_reducible assumption | split | with_reducible apply Die.Keeps.rest

theorem State.sliceFails_keeps {bd : Bool} {zz s : State} {d : Nat} {u slice diff : Nat} (h : State.Keeps bd zz s) :
    State.Keeps bd zz (State.sliceFails s d u slice diff) := by
  unfold State.sliceFails
  try dsimp only
  repeat' first
    | with_reducible assumption | with_reducible apply State.logErr_keeps | with_reducible apply State.modUnit_keeps
    | with_reducible apply State.failUnit_keeps | split

theorem State.zeroBank_keeps {bd : Bool} {zz s : State} {d u : Nat} (h : State.Keeps bd zz s) : State.Keeps bd zz
    (State.zeroBank s d u) := by
  unfold State.zeroBank
  try dsimp only
  repeat' first
    | with_reducible assumption | with_reducible refine State.Keeps.modDie ?_ (fun _ => ?_) | split
    | with_reducible exact Die.Keeps.refl _ | with_reducible apply Die.Keeps.rest

theorem State.settlePass_keeps {bd : Bool} {zz s : State} (h : State.Keeps bd zz s) : State.Keeps bd zz
    (State.settlePass s) := by
  unfold State.settlePass
  try dsimp only
  repeat' first
    | with_reducible assumption | with_reducible apply State.settle_keeps
    | with_reducible apply State.resumeFails_keeps | with_reducible refine State.Keeps.modDies ?_ (fun _ => ?_)
    | with_reducible apply State.Keeps.modRegs | with_reducible refine State.Keeps.foldl (fun _ _ _ => ?_) ?_ | split
    | with_reducible exact Die.Keeps.refl _ | with_reducible apply Die.Keeps.rest

/-! ### Exec -/

theorem State.withOp_keeps {bd : Bool} {zz s : State} {r : OpRef} {code : Nat}
    {f : OpCtx → Host.Outcome State Fault Refusal} (hf : ∀ a0, State.KeepsOut bd zz (f a0)) (h : State.Keeps bd zz s) :
    State.KeepsOut bd zz (State.withOp s r code f) := by
  unfold State.withOp
  split
  · exact State.KeepsOut.idle h
  · split
    · exact State.KeepsOut.idle h
    · split
      · exact hf _
      · exact State.KeepsOut.next (State.queued_keeps h)

theorem State.modRegion_keeps {bd : Bool} {zz s : State} {c : OpCtx} {f : LogCluster → LogCluster}
    (h : State.Keeps bd zz s) : State.Keeps bd zz (State.modRegion s c f) := by
  unfold State.modRegion
  try dsimp only
  repeat' first | with_reducible assumption | with_reducible apply State.modJob_keeps

theorem State.renewWords_keeps {bd : Bool} {zz s : State} {c : OpCtx} (h : State.Keeps bd zz s) : State.Keeps bd zz
    (State.renewWords s c) := by
  unfold State.renewWords
  try dsimp only
  repeat' first
    | with_reducible assumption | with_reducible refine State.Keeps.modDie ?_ (fun _ => ?_) | split
    | with_reducible exact Die.Keeps.refl _ | with_reducible apply Die.Keeps.rest

theorem State.spaceWrite_keeps {bd : Bool} {zz s : State} {c : OpCtx} {t : TensorEnt} {o : Nat} {bs : List Byte}
    (h : State.Keeps bd zz s) : State.Keeps bd zz (State.spaceWrite s c t o bs) := by
  unfold State.spaceWrite
  try dsimp only
  repeat' first
    | with_reducible assumption | with_reducible apply State.writeHost_keeps | with_reducible apply Die.writeHbm_keeps
    | with_reducible apply State.modRegion_keeps | with_reducible refine State.Keeps.modDie ?_ (fun _ => ?_) | split
    | with_reducible exact Die.Keeps.refl _

theorem State.putTensor_keeps {bd : Bool} {zz s : State} {hv : HostView} {c : OpCtx} {x : Nat} {bs : List Byte}
    (h : State.Keeps bd zz s) : State.Keeps bd zz (State.putTensor s hv c x bs) := by
  unfold State.putTensor
  try dsimp only
  repeat' first | with_reducible assumption | with_reducible apply State.spaceWrite_keeps | split

theorem State.captureInputs_keeps {bd : Bool} {zz s : State} {c : OpCtx} (h : State.Keeps bd zz s) : State.Keeps bd zz
    (State.captureInputs s c) := by
  unfold State.captureInputs
  try dsimp only
  repeat' first
    | with_reducible assumption | with_reducible apply State.modJob_keeps
    | with_reducible refine State.Keeps.foldl (fun _ _ _ => ?_) ?_ | split

theorem State.undefStaging_keeps {bd : Bool} {zz s : State} {c : OpCtx} (h : State.Keeps bd zz s) : State.Keeps bd zz
    (State.undefStaging s c) := by
  unfold State.undefStaging
  try dsimp only
  repeat' first | with_reducible assumption | with_reducible apply State.modRegion_keeps | split

theorem State.readWords_keeps {bd : Bool} {zz s : State} {c : OpCtx} (h : State.Keeps bd zz s) : State.Keeps bd zz
    (State.readWords s c) := by
  unfold State.readWords
  try dsimp only
  repeat' first
    | with_reducible assumption | with_reducible apply State.readFlip_keeps
    | with_reducible refine State.Keeps.foldl (fun _ _ _ => ?_) ?_

theorem State.useVectorRegs_keeps {bd : Bool} {zz s : State} {c : OpCtx} (h : State.Keeps bd zz s) : State.Keeps bd zz
    (State.useVectorRegs s c) := by
  unfold State.useVectorRegs
  try dsimp only
  repeat' first | with_reducible assumption | with_reducible apply State.modCluster_keeps | split

theorem State.opRan_keeps {bd : Bool} {zz s : State} {c : OpCtx} {fl : NumFlags} (h : State.Keeps bd zz s) : State.Keeps
    bd zz (State.opRan s c fl) := by
  unfold State.opRan
  try dsimp only
  repeat' first
    | with_reducible assumption | with_reducible apply State.modJob_keeps | with_reducible apply State.noteDma_keeps
    | with_reducible apply State.issueAll_keeps | with_reducible apply State.granted_keeps
    | with_reducible apply State.renewWords_keeps | with_reducible apply State.readWords_keeps
    | with_reducible apply State.useVectorRegs_keeps | split | with_reducible apply State.Keeps.rest

theorem State.opFinish_keeps {bd : Bool} {zz s : State} {hv : HostView} {c : OpCtx} {outs : List ByteArr} {fl : NumFlags}
    (h : State.Keeps bd zz s) : State.Keeps bd zz (State.opFinish s hv c outs fl) := by
  unfold State.opFinish
  try dsimp only
  repeat' first
    | with_reducible assumption | with_reducible apply State.putTensor_keeps
    | with_reducible apply State.captureInputs_keeps | with_reducible apply State.undefStaging_keeps
    | with_reducible apply State.opRan_keeps | with_reducible refine State.Keeps.foldl (fun _ _ _ => ?_) ?_ | split

theorem State.opFail_keeps {bd : Bool} {zz s : State} {c : OpCtx} (h : State.Keeps bd zz s) : State.Keeps bd zz
    (State.opFail s c) := by
  unfold State.opFail
  try dsimp only
  repeat' first
    | with_reducible assumption | with_reducible apply State.issueAll_keeps
    | with_reducible apply State.complete_keeps | with_reducible apply State.redispatch_keeps
    | with_reducible apply State.readWords_keeps | with_reducible apply State.opRan_keeps | split

theorem State.runOp_keeps {bd : Bool} {zz s : State} {r : OpRef} {hv : HostView} {code : Nat}
    {body : State → OpCtx → OpData → List ByteArr × NumFlags} (h : State.Keeps bd zz s) : State.KeepsOut bd zz
    (State.runOp s r hv code body) := by
  unfold State.runOp
  refine State.withOp_keeps (fun c => ?_) (State.merge_keeps h)
  dsimp only
  split
  · exact State.KeepsOut.done (State.opFail_keeps (State.merge_keeps h))
  · exact State.KeepsOut.done (State.opFinish_keeps (State.merge_keeps h))

theorem State.spendInjection_keeps {bd : Bool} {zz s : State} {d i : Nat} (h : State.Keeps bd zz s) : State.Keeps bd zz
    (State.spendInjection s d i) := by
  unfold State.spendInjection
  try dsimp only
  repeat' first
    | with_reducible assumption | with_reducible refine State.Keeps.modDie ?_ (fun _ => ?_)
    | with_reducible exact Die.Keeps.refl _ | with_reducible apply Die.Keeps.rest

theorem State.mismatch_keeps {bd : Bool} {zz s : State} {c : OpCtx} {code unit detail : Nat} {injected charge : Bool}
    (h : State.Keeps bd zz s) : State.Keeps bd zz (State.mismatch s c code unit detail injected charge) := by
  unfold State.mismatch
  try dsimp only
  repeat' first
    | with_reducible assumption | with_reducible apply State.logErr_keeps | with_reducible apply State.issueAll_keeps
    | with_reducible apply State.redispatch_keeps | with_reducible apply State.markSuspect_keeps | split

theorem State.bankCollision_keeps {bd : Bool} {zz s : State} {d c : Nat} {job : Nat × Nat} {h : BankHit}
    (hK : State.Keeps bd zz s) : State.Keeps bd zz (State.bankCollision s d c job h) := by
  unfold State.bankCollision
  try dsimp only
  repeat' first
    | with_reducible assumption | with_reducible apply State.logErr_keeps | with_reducible apply State.issueAll_keeps
    | with_reducible apply State.redispatch_keeps

theorem State.runWrites_keeps {bd : Bool} {zz s : State} {r : OpRef} {code : Nat} {hit : Option BankHit}
    {run : State → Host.Outcome State Fault Refusal} (hrun : ∀ a0, State.Keeps bd zz a0 → State.KeepsOut bd zz (run a0))
    (h : State.Keeps bd zz s) : State.KeepsOut bd zz (State.runWrites s r code hit run) := by
  unfold State.runWrites
  split
  · exact hrun _ h
  · exact State.withOp_keeps (fun c => State.KeepsOut.done (State.bankCollision_keeps h)) h

theorem State.runChecked_keeps {bd : Bool} {zz s : State} {r : OpRef} {hv : HostView} {code errCode : Nat}
    {unit detail : OpCtx → Nat → Nat} {bad : Option Nat} {body : State → OpCtx → OpData → List ByteArr × NumFlags}
    (h : State.Keeps bd zz s) : State.KeepsOut bd zz (State.runChecked s r hv code errCode unit detail bad body) := by
  unfold State.runChecked
  split
  · exact State.withOp_keeps (fun c => State.KeepsOut.done (State.mismatch_keeps h)) h
  · exact State.runOp_keeps h

theorem State.finishArray_keeps {bd : Bool} {zz s : State} {hv : HostView} {c : OpCtx} {injected charge : Bool}
    {r : ArrOut} (h : State.Keeps bd zz s) : State.Keeps bd zz (State.finishArray s hv c injected charge r) := by
  unfold State.finishArray
  try dsimp only
  repeat' first
    | with_reducible assumption | with_reducible apply State.opFinish_keeps
    | with_reducible apply State.mismatch_keeps | split

theorem State.runArray_keeps {bd : Bool} {zz s : State} {r : OpRef} {hv : HostView} {code : Nat} {faults : List ArrFault}
    {body : State → OpCtx → OpData → List ArrFault → ArrOut} (h : State.Keeps bd zz s) : State.KeepsOut bd zz
    (State.runArray s r hv code faults body) := by
  unfold State.runArray
  refine State.withOp_keeps (fun c => ?_) (State.merge_keeps h)
  dsimp only
  have w := State.merge_keeps (hv := hv) h
  split
  · exact State.KeepsOut.done (State.opFail_keeps w)
  · split
    · exact State.KeepsOut.done (State.finishArray_keeps w)
    · exact State.KeepsOut.done (State.finishArray_keeps (State.spendInjection_keeps w))

theorem State.runVector_keeps {bd : Bool} {zz s : State} {r : OpRef} {hv : HostView} {code : Nat} {bad : Option Nat}
    {body : State → OpCtx → OpData → List ByteArr × NumFlags} (h : State.Keeps bd zz s) : State.KeepsOut bd zz
    (State.runVector s r hv code bad body) := by
  unfold State.runVector
  try dsimp only
  repeat' first | with_reducible assumption | with_reducible apply State.runChecked_keeps

/-! ### GeometryOps -/

theorem State.writeLc0_keeps {bd : Bool} {zz s : State} {c : OpCtx} {o : Nat} {bs : List Byte} (h : State.Keeps bd zz s) :
    State.Keeps bd zz (State.writeLc0 s c o bs) := by
  unfold State.writeLc0
  try dsimp only
  repeat' first
    | with_reducible assumption | with_reducible apply State.modJob_keeps | with_reducible apply Die.writeHbm_keeps
    | with_reducible refine State.Keeps.modDie ?_ (fun _ => ?_) | split | with_reducible exact Die.Keeps.refl _

theorem State.charge_keeps {bd : Bool} {zz s : State} {d : Nat} {u frame : Nat} {inj : Bool} (h : State.Keeps bd zz s) :
    State.Keeps bd zz (State.charge s d u frame inj) := by
  unfold State.charge
  try dsimp only
  repeat' first
    | with_reducible assumption | with_reducible apply State.quarantine_keeps
    | with_reducible refine State.Keeps.modDie ?_ (fun _ => ?_) | split | with_reducible exact Die.Keeps.refl _
    | with_reducible apply Die.Keeps.rest

theorem State.compareRecords_keeps {bd : Bool} {zz s : State} {c : OpCtx} {prim : OpRec} {v : WorldView}
    {ds : List Decided} {forced : List (Nat × Bool)} (h : State.Keeps bd zz s) : State.Keeps bd zz
    (State.compareRecords s c prim v ds forced) := by
  unfold State.compareRecords
  try dsimp only
  repeat' first
    | with_reducible assumption | with_reducible apply State.modJob_keeps | with_reducible apply State.logErr_keeps
    | with_reducible apply State.advise_keeps | with_reducible apply State.writeLc0_keeps
    | with_reducible apply State.charge_keeps | with_reducible apply State.Keeps.modRegs
    | with_reducible refine State.Keeps.foldl (fun _ _ _ => ?_) ?_ | split

theorem State.notePrimary_keeps {bd : Bool} {zz s : State} {c : OpCtx} {forced : List (Nat × Bool)}
    (h : State.Keeps bd zz s) : State.Keeps bd zz (State.notePrimary s c forced) := by
  unfold State.notePrimary
  try dsimp only
  repeat' first | with_reducible assumption | with_reducible apply State.modJob_keeps | split

theorem State.emit_keeps {bd : Bool} {zz s : State} {c : OpCtx} {l : List GeoTest} (h : State.Keeps bd zz s) : State.Keeps
    bd zz (State.emit s c l) := by
  unfold State.emit
  try dsimp only
  repeat' first
    | with_reducible assumption | with_reducible refine State.Keeps.modDie ?_ (fun _ => ?_)
    | with_reducible exact Die.Keeps.refl _ | with_reducible apply Die.Keeps.rest

theorem State.runTests_keeps {bd : Bool} {zz s : State} {r : OpRef} {hv : HostView} {code : Nat} (h : State.Keeps bd zz s)
    : State.KeepsOut bd zz (State.runTests s r hv code) := by
  unfold State.runTests
  try dsimp only
  repeat' first
    | with_reducible assumption | with_reducible apply State.KeepsOut.done | with_reducible apply State.merge_keeps
    | with_reducible apply State.issueAll_keeps | with_reducible apply State.withOp_keeps
    | with_reducible apply State.captureInputs_keeps | with_reducible apply State.opRan_keeps
    | with_reducible apply State.opFinish_keeps | with_reducible apply State.opFail_keeps
    | with_reducible apply State.compareRecords_keeps | with_reducible apply State.notePrimary_keeps
    | with_reducible apply State.emit_keeps | with_reducible refine State.Keeps.modDie ?_ (fun _ => ?_) | split
    | with_reducible exact Die.Keeps.refl _ | with_reducible apply Die.Keeps.rest | intro

theorem State.runQueries_keeps {bd : Bool} {zz s : State} {r : OpRef} {hv : HostView} {code : Nat}
    {body : State → OpCtx → OpData → List ByteArr × NumFlags} (h : State.Keeps bd zz s) : State.KeepsOut bd zz
    (State.runQueries s r hv code body) := by
  unfold State.runQueries
  try dsimp only
  repeat' first
    | with_reducible assumption | with_reducible apply State.KeepsOut.done | with_reducible apply State.merge_keeps
    | with_reducible apply State.withOp_keeps | with_reducible apply State.opFinish_keeps
    | with_reducible apply State.opFail_keeps | with_reducible apply State.emit_keeps | split | intro

/-! ### SolverOps -/

theorem State.noteNumeric_keeps {bd : Bool} {zz s : State} {c : OpCtx} {rs : List SolverOut} {pivot : Nat}
    (h : State.Keeps bd zz s) : State.Keeps bd zz (State.noteNumeric s c rs pivot) := by
  unfold State.noteNumeric
  try dsimp only
  repeat' first | with_reducible assumption | with_reducible apply State.modJob_keeps | split

theorem State.runSolver_keeps {bd : Bool} {zz s : State} {r : OpRef} {hv : HostView} {code : Nat} {bad : Option Nat}
    {pivot : OpCtx → Nat} {solve : State → OpCtx → OpData → List SolverOut}
    {after : OpCtx → List SolverOut → State → State}
    (hafter : ∀ a0 a1 a2, State.Keeps bd zz a2 → State.Keeps bd zz (after a0 a1 a2)) (h : State.Keeps bd zz s) :
    State.KeepsOut bd zz (State.runSolver s r hv code bad pivot solve after) := by
  unfold State.runSolver
  try dsimp only
  repeat' first
    | with_reducible assumption | with_reducible apply hafter | with_reducible apply State.KeepsOut.done
    | with_reducible apply State.merge_keeps | with_reducible apply State.withOp_keeps
    | with_reducible apply State.opFinish_keeps | with_reducible apply State.opFail_keeps
    | with_reducible apply State.mismatch_keeps | with_reducible apply State.noteNumeric_keeps | split | intro

theorem State.afterRefine_keeps {bd : Bool} {zz : State} {c : OpCtx} {rs : List SolverOut} {s : State}
    (h : State.Keeps bd zz s) : State.Keeps bd zz (State.afterRefine c rs s) := by
  unfold State.afterRefine
  try dsimp only
  repeat' first
    | with_reducible assumption | with_reducible apply State.advise_keeps | split
    | with_reducible apply State.Keeps.rest

/-! ### CheckOps -/

theorem State.putHalf_keeps {bd : Bool} {zz s : State} {c : OpCtx} {tx : Bool} {ctr : Option Nat}
    (h : State.Keeps bd zz s) : State.Keeps bd zz (State.putHalf s c tx ctr) := by
  unfold State.putHalf
  try dsimp only
  repeat' first
    | with_reducible assumption | with_reducible apply State.modJob_keeps | split
    | with_reducible apply State.Keeps.rest

theorem State.runChannel_keeps {bd : Bool} {zz s : State} {r : OpRef} {hv : HostView} {code : Nat}
    {body : State → OpCtx → OpData → State} (hbody : ∀ a0 a1 a2, State.Keeps bd zz a0 → State.Keeps bd zz (body a0 a1 a2))
    (h : State.Keeps bd zz s) : State.KeepsOut bd zz (State.runChannel s r hv code body) := by
  unfold State.runChannel
  try dsimp only
  repeat' first
    | with_reducible assumption | with_reducible apply hbody | with_reducible apply State.KeepsOut.done
    | with_reducible apply State.KeepsOut.idle | with_reducible apply State.merge_keeps
    | with_reducible apply State.withOp_keeps | with_reducible apply State.opFail_keeps | split | intro

/-! ### Placement -/

theorem State.compactPools_keeps {bd : Bool} {zz s : State} (h : State.Keeps bd zz s) : State.Keeps bd zz
    (State.compactPools s) := by
  unfold State.compactPools
  dsimp only
  refine State.Keeps.rest (State.Keeps.foldl (fun _ _ w => State.Keeps.modDie w (fun x => Die.Keeps.foldl (fun y m v => ?_) (Die.Keeps.refl x))) h)
  split
  · exact v
  · exact Die.moveHbm_keeps v

theorem State.storeSwapped_keeps {bd : Bool} {zz s : State} {p : Plan} {j : Job} {ls : List LogCluster}
    (h : State.Keeps bd zz s) : State.Keeps bd zz (State.storeSwapped s p j ls) := by
  unfold State.storeSwapped
  try dsimp only
  repeat' first
    | with_reducible assumption | with_reducible apply Die.storeRegion_keeps
    | with_reducible refine State.Keeps.modDie ?_ (fun _ => ?_)
    | with_reducible refine State.Keeps.foldl (fun _ _ _ => ?_) ?_ | split | with_reducible exact Die.Keeps.refl _

theorem State.placeWork_keeps {bd : Bool} {zz s : State} {j : Job} {w : Area} (h : State.Keeps bd zz s) : State.Keeps bd
    zz (State.placeWork s j w) := by
  unfold State.placeWork
  try dsimp only
  repeat' first
    | with_reducible assumption | with_reducible apply Die.clearHbm_keeps | with_reducible apply Die.storeRegion_keeps
    | with_reducible refine State.Keeps.modDie ?_ (fun _ => ?_) | split | with_reducible exact Die.Keeps.refl _

theorem State.wakeClusters_keeps {bd : Bool} {zz s : State} {l : List (Nat × Nat)} (h : State.Keeps bd zz s) : State.Keeps
    bd zz (State.wakeClusters s l) := by
  unfold State.wakeClusters
  try dsimp only
  repeat' first
    | with_reducible assumption | with_reducible apply Die.wake_keeps | with_reducible apply State.modCluster_keeps
    | with_reducible apply State.abortBanks_keeps | with_reducible refine State.Keeps.modDie ?_ (fun _ => ?_)
    | with_reducible refine State.Keeps.foldl (fun _ _ _ => ?_) ?_ | split | with_reducible exact Die.Keeps.refl _

theorem State.unreserve_keeps {bd : Bool} {zz s : State} {q n : Nat} (h : State.Keeps bd zz s) : State.Keeps bd zz
    (State.unreserve s q n) := by
  unfold State.unreserve
  try dsimp only
  repeat' first
    | with_reducible assumption | with_reducible refine State.Keeps.modDies ?_ (fun _ => ?_)
    | with_reducible exact Die.Keeps.refl _ | with_reducible apply Die.Keeps.rest

/-! ### Stages -/

theorem State.modStage_keeps {bd : Bool} {zz s : State} {q : Nat} {n st : Nat} {f : StageRun → StageRun}
    (h : State.Keeps bd zz s) : State.Keeps bd zz (State.modStage s q n st f) := by
  unfold State.modStage
  try dsimp only
  repeat' first | with_reducible assumption | with_reducible apply State.modJob_keeps

theorem State.makeEligible_keeps {bd : Bool} {zz s : State} {j : Job} {st : Nat} {insts : List Inst}
    (h : State.Keeps bd zz s) : State.Keeps bd zz (State.makeEligible s j st insts) := by
  unfold State.makeEligible
  try dsimp only
  repeat' first
    | with_reducible assumption | with_reducible apply State.sendCtrl_keeps
    | with_reducible apply State.modStage_keeps | with_reducible refine State.Keeps.foldl (fun _ _ _ => ?_) ?_

theorem State.startStage_keeps {bd : Bool} {zz s : State} {q : Nat} {n st : Nat} (h : State.Keeps bd zz s) : State.Keeps
    bd zz (State.startStage s q n st) := by
  unfold State.startStage
  try dsimp only
  repeat' first
    | with_reducible assumption | with_reducible apply State.modJob_keeps | with_reducible apply State.traceEv_keeps
    | with_reducible apply State.advise_keeps | with_reducible apply State.wakeClusters_keeps
    | with_reducible apply State.makeEligible_keeps | split

theorem State.startEligible_keeps {bd : Bool} {zz s : State} {q n : Nat} (h : State.Keeps bd zz s) : State.Keeps bd zz
    (State.startEligible s q n) := by
  unfold State.startEligible
  try dsimp only
  repeat' first
    | with_reducible assumption | with_reducible apply State.modJob_keeps
    | with_reducible apply State.startStage_keeps | with_reducible refine State.Keeps.foldl (fun _ _ _ => ?_) ?_
    | split

theorem State.advanceLoop_keeps {bd : Bool} {zz s : State} {q n : Nat} {l : LoopRec} (h : State.Keeps bd zz s) :
    State.Keeps bd zz (State.advanceLoop s q n l) := by
  unfold State.advanceLoop
  try dsimp only
  repeat' first
    | with_reducible assumption | with_reducible apply State.modJob_keeps | with_reducible apply State.modStage_keeps
    | with_reducible refine State.Keeps.foldl (fun _ _ _ => ?_) ?_ | split

theorem State.proceed_keeps {bd : Bool} {zz s : State} {q n : Nat} (h : State.Keeps bd zz s) : State.Keeps bd zz
    (State.proceed s q n) := by
  unfold State.proceed
  try dsimp only
  repeat' first
    | with_reducible assumption | with_reducible apply State.issueAll_keeps
    | with_reducible apply State.startEligible_keeps | with_reducible apply State.advanceLoop_keeps
    | with_reducible refine State.Keeps.foldl (fun _ _ _ => ?_) ?_ | split

theorem State.proceedAll_keeps {bd : Bool} {zz s : State} (h : State.Keeps bd zz s) : State.Keeps bd zz
    (State.proceedAll s) := by
  unfold State.proceedAll
  try dsimp only
  repeat' first
    | with_reducible assumption | with_reducible apply State.proceed_keeps
    | with_reducible refine State.Keeps.foldl (fun _ _ _ => ?_) ?_

theorem State.endRun_keeps {bd : Bool} {zz s : State} {q n : Nat} (h : State.Keeps bd zz s) : State.Keeps bd zz
    (State.endRun s q n) := by
  unfold State.endRun
  try dsimp only
  repeat' first
    | with_reducible assumption | with_reducible apply State.endStage_keeps | with_reducible apply State.proceed_keeps
    | split

theorem State.boundary_keeps {bd : Bool} {zz s : State} {q : Nat} {n st : Nat} (h : State.Keeps bd zz s) : State.Keeps bd
    zz (State.boundary s q n st) := by
  unfold State.boundary
  try dsimp only
  repeat' first
    | with_reducible assumption | with_reducible apply State.modJob_keeps | with_reducible apply State.traceEv_keeps
    | with_reducible apply State.modStage_keeps | with_reducible apply State.endRun_keeps | split

theorem State.settleStage_keeps {bd : Bool} {zz s : State} {q : Nat} {n st : Nat} (h : State.Keeps bd zz s) : State.Keeps
    bd zz (State.settleStage s q n st) := by
  unfold State.settleStage
  try dsimp only
  repeat' first | with_reducible assumption | with_reducible apply State.boundary_keeps | split

theorem Die.freeSlot_keeps {zz x : Die} {r : OpRef} (h : Die.Keeps zz x) : Die.Keeps zz (Die.freeSlot x r) := by
  unfold Die.freeSlot
  try dsimp only
  repeat' first | with_reducible assumption | with_reducible apply Die.Keeps.rest

/-! ### Attest -/

theorem State.randomBytes_keeps {bd : Bool} {zz s : State} {n : Nat} (h : State.Keeps bd zz s) : State.Keeps bd zz
    (State.randomBytes s n).2 := by
  unfold State.randomBytes
  try dsimp only
  repeat' first | with_reducible assumption | with_reducible apply State.Keeps.rest

theorem State.signQuote_keeps {bd : Bool} {zz s : State} {d : Nat} {body : List Byte} (h : State.Keeps bd zz s) :
    State.Keeps bd zz (State.signQuote s d body).2 := by
  unfold State.signQuote
  try dsimp only
  repeat' first | with_reducible assumption | with_reducible apply State.randomBytes_keeps | split

/-! ### Selecting -/

theorem State.noteDispatch_keeps {bd : Bool} {zz s : State} {j : Job} {unit arg : Nat} (h : State.Keeps bd zz s) :
    State.Keeps bd zz (State.noteDispatch s j unit arg) := by
  unfold State.noteDispatch
  try dsimp only
  repeat' first
    | with_reducible assumption | with_reducible apply State.modJob_keeps | with_reducible apply State.traceEv_keeps
    | with_reducible apply State.unlist_keeps | with_reducible apply State.Keeps.rest

theorem State.dispatchRun_keeps {bd : Bool} {zz s : State} {j : Job} {i : Nat} {p : Plan} {bufs : List Buf}
    {params : List Nat} {x : Placing} (h : State.Keeps bd zz s) : State.Keeps bd zz
    (State.dispatchRun s j i p bufs params x) := by
  unfold State.dispatchRun
  try dsimp only
  repeat' first
    | with_reducible assumption | with_reducible apply State.modJob_keeps | with_reducible apply State.traceEv_keeps
    | with_reducible apply State.compactPools_keeps | with_reducible apply State.storeSwapped_keeps
    | with_reducible apply State.placeWork_keeps | with_reducible apply State.wakeClusters_keeps
    | with_reducible apply State.noteDispatch_keeps | split

theorem State.notePlan_keeps {bd : Bool} {zz s : State} {j : Job} (h : State.Keeps bd zz s) : State.Keeps bd zz
    (State.notePlan s j) := by
  unfold State.notePlan
  try dsimp only
  repeat' first | with_reducible assumption | with_reducible apply State.modJob_keeps | split

theorem State.attempt_keeps {bd : Bool} {zz s : State} {hv : HostView} {q n : Nat} (h : State.Keeps bd zz s) : State.Keeps
    bd zz (State.attempt s hv q n).2 := by
  unfold State.attempt
  try dsimp only
  repeat' first
    | with_reducible assumption | with_reducible apply State.traceEv_keeps | with_reducible apply State.complete_keeps
    | with_reducible apply State.unreserve_keeps | with_reducible apply State.noteDispatch_keeps
    | with_reducible apply State.dispatchRun_keeps | with_reducible apply State.notePlan_keeps | split

theorem State.noteGap_keeps {bd : Bool} {zz s : State} {d p : Nat} (h : State.Keeps bd zz s) : State.Keeps bd zz
    (State.noteGap s d p) := by
  unfold State.noteGap
  try dsimp only
  repeat' first | with_reducible assumption | with_reducible apply State.modPart_keeps

theorem State.rounds_keeps {bd : Bool} {zz : State} {hv : HostView} {d : Nat} {p x0_ : Nat} {x1_ : State}
    (h : State.Keeps bd zz x1_) : State.Keeps bd zz (State.rounds hv d p x0_ x1_) := by
  induction x0_ generalizing x1_ with
  | zero => exact h
  | succ k ih =>
    unfold State.rounds
    dsimp only
    repeat' first
      | with_reducible assumption
      | with_reducible apply ih
      | with_reducible apply State.modPart_keeps
      | with_reducible apply State.noteGap_keeps
      | with_reducible apply State.attempt_keeps
      | (with_reducible refine State.Keeps.ofPair (by assumption) ?_)
      | split

/-! ### PlanJobs -/

theorem State.modSlot_keeps {bd : Bool} {zz s : State} {i : Nat} {f : PlanSlot → PlanSlot} (h : State.Keeps bd zz s) :
    State.Keeps bd zz (State.modSlot s i f) := by
  unfold State.modSlot
  try dsimp only
  repeat' first | with_reducible assumption | with_reducible apply State.Keeps.rest

theorem State.freeSlot_keeps {bd : Bool} {zz s : State} {i : Nat} (h : State.Keeps bd zz s) : State.Keeps bd zz
    (State.freeSlot s i) := by
  unfold State.freeSlot
  try dsimp only
  repeat' first | with_reducible assumption | with_reducible apply State.Keeps.rest

theorem State.sealOther_keeps {bd : Bool} {zz s : State} {j : Job} {plan weights extra : List Byte} {orderSens : Bool}
    (h : State.Keeps bd zz s) : State.Keeps bd zz (State.sealOther s j plan weights extra orderSens) := by
  unfold State.sealOther
  try dsimp only
  repeat' first | with_reducible assumption | with_reducible apply State.modJob_keeps

theorem State.writeReport_keeps {bd : Bool} {zz s : State} {j : Job} {f : Option LoadFault} {tag : Nat}
    (h : State.Keeps bd zz s) : State.Keeps bd zz (State.writeReport s j f tag) := by
  unfold State.writeReport
  try dsimp only
  repeat' first | with_reducible assumption | with_reducible apply State.jobWrite_keeps | split

theorem State.afterLoad_keeps {bd : Bool} {zz s : State} {i : Nat} (h : State.Keeps bd zz s) : State.Keeps bd zz
    (State.afterLoad s i) := by
  unfold State.afterLoad
  try dsimp only
  repeat' first
    | with_reducible assumption | with_reducible apply State.complete_keeps | with_reducible apply State.modSlot_keeps
    | with_reducible refine State.Keeps.foldl (fun _ _ _ => ?_) ?_ | split

theorem State.refuseLoad_keeps {bd : Bool} {zz s : State} {j : Job} {i : Nat} {f : LoadFault} (h : State.Keeps bd zz s) :
    State.Keeps bd zz (State.refuseLoad s j i f) := by
  unfold State.refuseLoad
  try dsimp only
  repeat' first
    | with_reducible assumption | with_reducible apply State.complete_keeps
    | with_reducible apply State.freeSlot_keeps | with_reducible apply State.writeReport_keeps
    | with_reducible apply State.afterLoad_keeps

theorem State.unreadableLoad_keeps {bd : Bool} {zz s : State} {j : Job} {i : Nat} (h : State.Keeps bd zz s) : State.Keeps
    bd zz (State.unreadableLoad s j i) := by
  unfold State.unreadableLoad
  try dsimp only
  repeat' first
    | with_reducible assumption | with_reducible apply State.complete_keeps
    | with_reducible apply State.freeSlot_keeps | with_reducible apply State.afterLoad_keeps

theorem State.checkStructure_keeps {bd : Bool} {zz s : State} {j : Job} {i : Nat} {p : Plan} {img : List Byte}
    (h : State.Keeps bd zz s) : State.Keeps bd zz (State.checkStructure s j i p img) := by
  unfold State.checkStructure
  try dsimp only
  repeat' first
    | with_reducible assumption | with_reducible apply State.modSlot_keeps
    | with_reducible apply State.refuseLoad_keeps | split

theorem State.compactPlans_keeps {bd : Bool} {zz s : State} (h : State.Keeps bd zz s) : State.Keeps bd zz
    (State.compactPlans s) := by
  unfold State.compactPlans
  dsimp only
  generalize sortBy _ _ = l
  generalize s.regs.planBase = k
  induction l generalizing s k with
  | nil => exact h
  | cons e l ih =>
    exact ih (State.modSlot_keeps (State.Keeps.ite h (State.Keeps.modDies h (fun x => Die.moveHbm_keeps (Die.Keeps.refl x))))) _

theorem State.reservePlan_keeps {bd : Bool} {zz s : State} {i n : Nat} (h : State.Keeps bd zz s) : State.Keeps bd zz
    (State.reservePlan s i n) := by
  unfold State.reservePlan
  try dsimp only
  repeat' first
    | with_reducible assumption | with_reducible apply State.modSlot_keeps
    | with_reducible apply State.compactPlans_keeps | split

theorem Die.storePlan_keeps {zz x : Die} {base : Nat} {p : Plan} {img blob : List Byte} (h : Die.Keeps zz x) : Die.Keeps
    zz (Die.storePlan x base p img blob) := by
  unfold Die.storePlan
  try dsimp only
  repeat' first
    | with_reducible assumption | with_reducible apply Die.writeHbm_keeps | with_reducible apply Die.clearHbm_keeps
    | refine Die.Keeps.foldl (fun _ _ _ => ?_) ?_ | split

/-! ### WorldBytes -/

theorem State.clearUnder_keeps {bd : Bool} {zz s : State} {d line : Nat} (h : State.Keeps bd zz s) : State.Keeps bd zz
    (State.clearUnder s d line) := by
  unfold State.clearUnder
  exact State.Keeps.modDie h (fun x => Die.Keeps.memory (Die.Keeps.refl x) (fun w => Memory.wfFrom_filter _ w))

theorem State.absorbWorld_keeps {bd : Bool} {zz s : State} {d : Nat} {l : Nat × Nat} (h : State.Keeps bd zz s) :
    State.Keeps bd zz (State.absorbWorld s d l) := by
  unfold State.absorbWorld
  try dsimp only
  repeat' first
    | with_reducible assumption | with_reducible refine State.Keeps.modDie ?_ (fun _ => ?_)
    | with_reducible exact Die.Keeps.refl _ | with_reducible apply Die.Keeps.rest

theorem State.absorbWarm_keeps {bd : Bool} {zz s : State} {d : Nat} {l : Nat × Nat} (h : State.Keeps bd zz s) :
    State.Keeps bd zz (State.absorbWarm s d l) := by
  unfold State.absorbWarm
  try dsimp only
  repeat' first
    | with_reducible assumption | with_reducible refine State.Keeps.modDie ?_ (fun _ => ?_)
    | with_reducible refine State.Keeps.foldl (fun _ _ _ => ?_) ?_ | split | with_reducible exact Die.Keeps.refl _
    | with_reducible apply Die.Keeps.rest

theorem State.absorbLine_keeps {bd : Bool} {zz s : State} {d : Nat} {l : Nat × Nat} (h : State.Keeps bd zz s) :
    State.Keeps bd zz (State.absorbLine s d l) := by
  unfold State.absorbLine
  try dsimp only
  repeat' first
    | with_reducible assumption | with_reducible apply Die.writeLine_keeps
    | with_reducible apply State.absorbWorld_keeps | with_reducible apply State.absorbWarm_keeps
    | with_reducible refine State.Keeps.modDie ?_ (fun _ => ?_) | split | with_reducible exact Die.Keeps.refl _

/-! ### WorldJobs -/

theorem State.modWorld_keeps {bd : Bool} {zz s : State} {w : Nat} {f : World → World} (h : State.Keeps bd zz s) :
    State.Keeps bd zz (State.modWorld s w f) := by
  unfold State.modWorld
  try dsimp only
  repeat' first | with_reducible assumption | with_reducible apply State.Keeps.rest

theorem Die.putWorld_keeps {zz x : Die} {w : Nat} {y : DieWorld} (h : Die.Keeps zz x) : Die.Keeps zz (Die.putWorld x w y) := by
  unfold Die.putWorld
  try dsimp only
  repeat' first
    | with_reducible assumption | with_reducible apply Die.dropLines_keeps | with_reducible apply Die.Keeps.rest

theorem State.lockNext_keeps {bd : Bool} {zz s : State} {d w : Nat} (h : State.Keeps bd zz s) : State.Keeps bd zz
    (State.lockNext s d w) := by
  unfold State.lockNext
  try dsimp only
  repeat' first | with_reducible assumption | with_reducible apply State.lockPc_keeps | split

theorem State.setApplied_keeps {bd : Bool} {zz s : State} {d : Nat} {w k : Nat} (h : State.Keeps bd zz s) : State.Keeps bd
    zz (State.setApplied s d w k) := by
  unfold State.setApplied
  try dsimp only
  repeat' first | with_reducible assumption | with_reducible apply State.modWorld_keeps

theorem State.startPrepare_keeps {bd : Bool} {zz s : State} {d w : Nat} (h : State.Keeps bd zz s) : State.Keeps bd zz
    (State.startPrepare s d w) := by
  unfold State.startPrepare
  try dsimp only
  repeat' first
    | with_reducible assumption | with_reducible apply Die.putWorld_keeps | with_reducible apply State.lockNext_keeps
    | with_reducible apply State.setApplied_keeps | with_reducible refine State.Keeps.modDie ?_ (fun _ => ?_) | split
    | with_reducible exact Die.Keeps.refl _

theorem State.sendUpdate_keeps {bd : Bool} {zz s : State} {w : Nat} (h : State.Keeps bd zz s) : State.Keeps bd zz
    (State.sendUpdate s w) := by
  unfold State.sendUpdate
  try dsimp only
  repeat' first
    | with_reducible assumption | with_reducible apply State.modWorld_keeps
    | with_reducible apply State.startPrepare_keeps | split

theorem State.beginUpdate_keeps {bd : Bool} {zz s : State} {w : Nat} {u : WorldUpdate} (h : State.Keeps bd zz s) :
    State.Keeps bd zz (State.beginUpdate s w u) := by
  unfold State.beginUpdate
  try dsimp only
  repeat' first
    | with_reducible assumption | with_reducible apply State.setPhase_keeps
    | with_reducible apply State.modWorld_keeps | with_reducible apply State.sendUpdate_keeps | split

theorem State.sealWorld_keeps {bd : Bool} {zz s : State} {j : Job} {extra : List Byte} (h : State.Keeps bd zz s) :
    State.Keeps bd zz (State.sealWorld s j extra) := by
  unfold State.sealWorld
  try dsimp only
  repeat' first | with_reducible assumption | with_reducible apply State.sealOther_keeps

theorem State.endWorld_keeps {bd : Bool} {zz s : State} {j : Job} {extra : List Byte} {o : CplFields}
    (h : State.Keeps bd zz s) : State.Keeps bd zz (State.endWorld s j extra o) := by
  unfold State.endWorld
  try dsimp only
  repeat' first
    | with_reducible assumption | with_reducible apply State.complete_keeps
    | with_reducible apply State.sealWorld_keeps

theorem State.discardUpdate_keeps {bd : Bool} {zz s : State} {w : Nat} (h : State.Keeps bd zz s) : State.Keeps bd zz
    (State.discardUpdate s w) := by
  unfold State.discardUpdate
  try dsimp only
  repeat' first
    | with_reducible assumption | with_reducible apply Die.dropLines_keeps
    | with_reducible apply State.unlockWorld_keeps | with_reducible apply State.modWorld_keeps
    | with_reducible refine State.Keeps.modDie ?_ (fun _ => ?_)
    | with_reducible refine State.Keeps.foldl (fun _ _ _ => ?_) ?_ | split | with_reducible exact Die.Keeps.refl _
    | with_reducible apply Die.Keeps.rest

theorem State.loadBase_keeps {bd : Bool} {zz s : State} {hv : HostView} {j : Job} {w : Nat} (h : State.Keeps bd zz s) :
    State.Keeps bd zz (State.loadBase s hv j w) := by
  unfold State.loadBase
  try dsimp only
  repeat' first
    | with_reducible assumption | with_reducible apply State.emptyWorld_keeps
    | with_reducible apply State.modWorld_keeps | with_reducible apply State.beginUpdate_keeps
    | with_reducible apply State.sealWorld_keeps | with_reducible apply State.endWorld_keeps | split

theorem State.reload_keeps {bd : Bool} {zz s : State} {hv : HostView} {j : Job} {w : Nat} (h : State.Keeps bd zz s) :
    State.Keeps bd zz (State.reload s hv j w) := by
  unfold State.reload
  try dsimp only
  repeat' first
    | with_reducible assumption | with_reducible apply State.beginUpdate_keeps
    | with_reducible apply State.sealWorld_keeps | with_reducible apply State.endWorld_keeps | split

theorem State.prepareSpoilt_keeps {bd : Bool} {zz s : State} {d w : Nat} (h : State.Keeps bd zz s) : State.Keeps bd zz
    (State.prepareSpoilt s d w) := by
  unfold State.prepareSpoilt
  try dsimp only
  repeat' first
    | with_reducible assumption | with_reducible apply State.unlockWorld_keeps
    | with_reducible apply State.modWorld_keeps | with_reducible apply State.setApplied_keeps

theorem State.replayHeld_keeps {bd : Bool} {zz s : State} {d g : Nat} (h : State.Keeps bd zz s) : State.Keeps bd zz
    (State.replayHeld s d g) := by
  unfold State.replayHeld
  try dsimp only
  repeat' first | with_reducible assumption | with_reducible apply State.redispatchAll_keeps

theorem State.unload_keeps {bd : Bool} {zz s : State} {w : Nat} (h : State.Keeps bd zz s) : State.Keeps bd zz
    (State.unload s w) := by
  unfold State.unload
  try dsimp only
  repeat' first | with_reducible assumption | with_reducible apply State.emptyWorld_keeps | split

theorem State.showVersion_keeps {bd : Bool} {zz s : State} {d : Nat} {w v : Nat} (h : State.Keeps bd zz s) : State.Keeps
    bd zz (State.showVersion s d w v) := by
  unfold State.showVersion
  try dsimp only
  repeat' first
    | with_reducible assumption | with_reducible apply Die.dropL0_keeps
    | with_reducible refine State.Keeps.modDie ?_ (fun _ => ?_) | with_reducible exact Die.Keeps.refl _
    | with_reducible apply Die.Keeps.rest

theorem State.finishUpdate_keeps {bd : Bool} {zz s : State} {w : Nat} (h : State.Keeps bd zz s) : State.Keeps bd zz
    (State.finishUpdate s w) := by
  unfold State.finishUpdate
  try dsimp only
  repeat' first
    | with_reducible assumption | with_reducible apply Die.dropLines_keeps | with_reducible apply State.complete_keeps
    | with_reducible apply State.noticeWorld_keeps | with_reducible apply State.modWorld_keeps
    | with_reducible refine State.Keeps.modDies ?_ (fun _ => ?_) | split | with_reducible exact Die.Keeps.refl _
    | with_reducible apply Die.Keeps.rest

theorem State.settleUpdate_keeps {bd : Bool} {zz s : State} {w : Nat} (h : State.Keeps bd zz s) : State.Keeps bd zz
    (State.settleUpdate s w) := by
  unfold State.settleUpdate
  try dsimp only
  repeat' first
    | with_reducible assumption | with_reducible apply State.setApplied_keeps
    | with_reducible apply State.discardUpdate_keeps | with_reducible apply State.showVersion_keeps
    | with_reducible apply State.finishUpdate_keeps | with_reducible refine State.Keeps.foldl (fun _ _ _ => ?_) ?_
    | split

theorem State.modBody_keeps {bd : Bool} {zz s : State} {b : Nat} {f : BodySlot → BodySlot} (h : State.Keeps bd zz s) :
    State.Keeps bd zz (State.modBody s b f) := by
  unfold State.modBody
  try dsimp only
  repeat' first | with_reducible assumption | with_reducible apply State.Keeps.rest

/-! ### MemoryOps -/

theorem State.consumePoison_keeps {bd : Bool} {zz s : State} {job : Option (Nat × Nat)} (h : State.Keeps bd zz s) :
    State.Keeps bd zz (State.consumePoison s job) := by
  unfold State.consumePoison
  try dsimp only
  repeat' first | with_reducible assumption | with_reducible apply State.complete_keeps | split

theorem State.poisonLine_keeps {bd : Bool} {zz s : State} {d : Nat} {l : Nat × Nat} {job : Option (Nat × Nat)}
    {inj : Bool} (h : State.Keeps bd zz s) : State.Keeps bd zz (State.poisonLine s d l job inj) := by
  unfold State.poisonLine
  try dsimp only
  repeat' first
    | with_reducible assumption | with_reducible apply State.logErr_keeps | with_reducible apply State.loseDie_keeps
    | with_reducible apply State.consumePoison_keeps | with_reducible refine State.Keeps.modDie ?_ (fun _ => ?_)
    | split | with_reducible exact Die.Keeps.refl _ | with_reducible apply Die.Keeps.rest

theorem State.lineFails_keeps {bd : Bool} {zz s : State} {d : Nat} {l : Nat × Nat} {job : Option (Nat × Nat)} {inj : Bool}
    (h : State.Keeps bd zz s) : State.Keeps bd zz (State.lineFails s d l job inj) := by
  unfold State.lineFails
  try dsimp only
  repeat' first
    | with_reducible assumption | with_reducible apply State.fresh_keeps | with_reducible apply Die.writeLine_keeps
    | with_reducible apply State.logErr_keeps | with_reducible apply State.poisonLine_keeps
    | with_reducible refine State.Keeps.modDie ?_ (fun _ => ?_) | split | with_reducible exact Die.Keeps.refl _
    | with_reducible apply Die.Keeps.rest

theorem State.readLineOf_keeps {bd : Bool} {zz s : State} {d : Nat} {l : Nat × Nat} {errs : List (Nat × Nat)} {sev : Nat}
    {job : Option (Nat × Nat)} (h : State.Keeps bd zz s) : State.Keeps bd zz (State.readLineOf s d l errs sev job) := by
  unfold State.readLineOf
  try dsimp only
  repeat' first
    | with_reducible assumption | with_reducible apply Die.writeLine_keeps | with_reducible apply State.logErr_keeps
    | with_reducible apply State.spendInjection_keeps | with_reducible apply State.absorbLine_keeps
    | with_reducible apply State.consumePoison_keeps | with_reducible apply State.lineFails_keeps
    | with_reducible refine State.Keeps.modDie ?_ (fun _ => ?_) | split | with_reducible exact Die.Keeps.refl _
    | with_reducible apply Die.Keeps.rest

theorem State.repairLine_keeps {bd : Bool} {zz s : State} {d : Nat} {l : Nat × Nat} (h : State.Keeps bd zz s) :
    State.Keeps bd zz (State.repairLine s d l) := by
  unfold State.repairLine
  try dsimp only
  repeat' first
    | with_reducible assumption | with_reducible apply Die.writeLine_keeps | with_reducible apply State.logErr_keeps
    | with_reducible apply State.absorbLine_keeps | with_reducible apply State.poisonLine_keeps
    | with_reducible refine State.Keeps.modDie ?_ (fun _ => ?_) | split | with_reducible exact Die.Keeps.refl _
    | with_reducible apply Die.Keeps.rest

theorem State.meetLines_keeps {bd : Bool} {zz s : State} {d : Nat} {x n : Nat} (h : State.Keeps bd zz s) : State.Keeps bd
    zz (State.meetLines s d x n) := by
  unfold State.meetLines
  try dsimp only
  repeat' first
    | with_reducible assumption | with_reducible apply State.readLineOf_keeps
    | with_reducible apply State.repairLine_keeps | with_reducible refine State.Keeps.foldl (fun _ _ _ => ?_) ?_
    | split

theorem State.mergeHbm_keeps {bd : Bool} {zz s : State} {d x : Nat} {bs : List Byte} (h : State.Keeps bd zz s) :
    State.Keeps bd zz (State.mergeHbm s d x bs) := by
  unfold State.mergeHbm
  try dsimp only
  repeat' first
    | with_reducible assumption | with_reducible apply Die.writeHbm_keeps
    | with_reducible apply State.absorbLine_keeps | with_reducible apply State.meetLines_keeps
    | with_reducible refine State.Keeps.modDie ?_ (fun _ => ?_)
    | with_reducible refine State.Keeps.foldl (fun _ _ _ => ?_) ?_ | split | with_reducible exact Die.Keeps.refl _

theorem Die.bankOff_keeps {zz x : Die} {c : Nat} (h : Die.Keeps zz x) : Die.Keeps zz (Die.bankOff x c) := by
  unfold Die.bankOff
  try dsimp only
  repeat' first | with_reducible assumption | with_reducible apply Die.Keeps.rest

/-! ### Links -/

theorem State.reissue_keeps {bd : Bool} {zz s : State} {d : Nat} (h : State.Keeps bd zz s) : State.Keeps bd zz
    (State.reissue s d) := by
  unfold State.reissue
  try dsimp only
  repeat' first
    | with_reducible assumption | with_reducible apply State.writeHost_keeps
    | with_reducible refine State.Keeps.foldl (fun _ _ _ => ?_) ?_

theorem State.takeLines_keeps {bd : Bool} {zz s : State} {hv : HostView} {lines : List Nat} (h : State.Keeps bd zz s) :
    State.Keeps bd zz (State.takeLines s hv lines) := by
  unfold State.takeLines
  try dsimp only
  repeat' first
    | with_reducible assumption | with_reducible apply State.rereadLine_keeps
    | with_reducible refine State.Keeps.foldl (fun _ _ _ => ?_) ?_

theorem State.failPort_keeps {bd : Bool} {zz s : State} {k cause : Nat} {hv : HostView} (h : State.Keeps bd zz s) :
    State.Keeps bd zz (State.failPort s k cause hv) := by
  unfold State.failPort
  try dsimp only
  repeat' first
    | with_reducible assumption | with_reducible apply State.logErr_keeps
    | with_reducible apply State.packageFatal_keeps | with_reducible apply State.sendVector_keeps
    | with_reducible apply State.settle_keeps | with_reducible apply State.reissue_keeps
    | with_reducible apply State.takeLines_keeps | with_reducible refine State.Keeps.modDies ?_ (fun _ => ?_)
    | with_reducible apply State.Keeps.modPort | with_reducible refine State.Keeps.foldl (fun _ _ _ => ?_) ?_ | split
    | with_reducible exact Die.Keeps.refl _ | with_reducible apply Die.Keeps.rest

theorem State.trainPort_keeps {bd : Bool} {zz s : State} {k rate : Nat} {x32 cache : Bool} (h : State.Keeps bd zz s) :
    State.Keeps bd zz (State.trainPort s k rate x32 cache) := by
  unfold State.trainPort
  try dsimp only
  repeat' first | with_reducible assumption | with_reducible apply State.Keeps.modPort

theorem State.loseCutOff_keeps {bd : Bool} {zz s : State} {inj : Bool} (h : State.Keeps bd zz s) : State.Keeps bd zz
    (State.loseCutOff s inj) := by
  unfold State.loseCutOff
  try dsimp only
  repeat' first
    | with_reducible assumption | with_reducible apply State.loseDie_keeps
    | with_reducible refine State.Keeps.foldl (fun _ _ _ => ?_) ?_

theorem State.loseLink_keeps {bd : Bool} {zz s : State} {d k : Nat} {inj : Bool} (h : State.Keeps bd zz s) : State.Keeps
    bd zz (State.loseLink s d k inj) := by
  unfold State.loseLink
  try dsimp only
  repeat' first
    | with_reducible assumption | with_reducible apply State.logErr_keeps | with_reducible apply State.issueAll_keeps
    | with_reducible apply State.retryCtrl_keeps | with_reducible apply State.loseCutOff_keeps
    | with_reducible refine State.Keeps.modDie ?_ (fun _ => ?_) | with_reducible exact Die.Keeps.refl _
    | with_reducible apply Die.Keeps.rest

theorem State.modPeer_keeps {bd : Bool} {zz s : State} {d a : Nat} {f : Peer → Peer} (h : State.Keeps bd zz s) :
    State.Keeps bd zz (State.modPeer s d a f) := by
  unfold State.modPeer
  try dsimp only
  repeat' first
    | with_reducible assumption | with_reducible refine State.Keeps.modDie ?_ (fun _ => ?_)
    | with_reducible exact Die.Keeps.refl _ | with_reducible apply Die.Keeps.rest

/-! ### Inject -/

theorem Die.corruptLine_keeps {zz x : Die} {l : Nat × Nat} {es : List (Nat × Nat)} (h : Die.Keeps zz x) : Die.Keeps zz
    (Die.corruptLine x l es) := by
  unfold Die.corruptLine
  exact Die.Keeps.memory h (fun w => Memory.wf_write _ (Memory.wf_write _ w _) _)

theorem Die.flipWord_keeps {zz x : Die} {f : Flip} (h : Die.Keeps zz x) : Die.Keeps zz (Die.flipWord x f) := by
  unfold Die.flipWord
  try dsimp only
  repeat' first | with_reducible assumption | split | with_reducible apply Die.Keeps.rest

theorem State.disarm_keeps {bd : Bool} {zz s : State} {d i : Nat} (h : State.Keeps bd zz s) : State.Keeps bd zz
    (State.disarm s d i) := by
  unfold State.disarm
  try dsimp only
  repeat' first
    | with_reducible assumption | with_reducible refine State.Keeps.modDie ?_ (fun _ => ?_) | split
    | with_reducible exact Die.Keeps.refl _ | with_reducible apply Die.Keeps.rest

theorem State.corruptHbm_keeps {bd : Bool} {zz s : State} {d : Nat} {y : InjSlot} (h : State.Keeps bd zz s) : State.Keeps
    bd zz (State.corruptHbm s d y) := by
  unfold State.corruptHbm
  split
  · exact State.Keeps.modDie h (fun x => Die.Keeps.foldl (fun _ _ w => Die.corruptLine_keeps w) (Die.Keeps.refl x))
  · exact h

theorem State.fire_keeps {bd : Bool} {zz s : State} {d i : Nat} (h : State.Keeps bd zz s) : State.Keeps bd zz
    (State.fire s d i) := by
  unfold State.fire
  extract_lets y s1
  have h1 : State.Keeps bd zz s1 := State.Keeps.modDie h (fun x => Die.Keeps.rest (Die.Keeps.refl x))
  clear_value s1
  split
  · split
    · exact State.disarm_keeps h1
    · split
      · exact State.loseLink_keeps h1
      · exact h1
  · split
    · exact State.disarm_keeps h1
    · split
      · exact State.Keeps.modPort h1
      · exact h1
  · exact State.disarm_keeps (State.corruptHbm_keeps h1)
  · exact State.Keeps.ite (State.disarm_keeps h1)
      (State.disarm_keeps (State.Keeps.modDie h1 (fun x => Die.Keeps.foldl (fun _ _ w => Die.flipWord_keeps w) (Die.Keeps.refl x))))
  · exact h1

/-! ### Recovery -/

theorem State.takeQueue_keeps {bd : Bool} {zz s : State} {q h : Nat} {open_ : List Nat} (hK : State.Keeps bd zz s) :
    State.Keeps bd zz (State.takeQueue s q h open_) := by
  unfold State.takeQueue
  exact State.modQueue_keeps hK

theorem State.takeJobs_keeps {bd : Bool} {zz s : State} {hv : HostView} {q : Nat} {rs : List Recovered}
    (h : State.Keeps bd zz s) : State.Keeps bd zz (State.takeJobs s hv q rs) := by
  unfold State.takeJobs
  try dsimp only
  repeat' first
    | with_reducible assumption | with_reducible apply State.modQueue_keeps | split
    | with_reducible apply State.Keeps.rest

theorem State.recoverQueue_keeps {bd : Bool} {zz s : State} {hv : HostView} {held : List (Nat × Nat)} {old : List Job}
    {q : Nat} {open_ : List Nat} (h : State.Keeps bd zz s) : State.Keeps bd zz (State.recoverQueue s hv held old q open_) := by
  unfold State.recoverQueue
  extract_lets hh rs s1 s2 s3 s4 s5 s6
  have h1 : State.Keeps bd zz s1 := State.takeJobs_keeps (State.takeQueue_keeps h)
  have h2 : State.Keeps bd zz s2 := State.Keeps.foldl (fun _ _ w => State.ledgerWrite_keeps w) h1
  have h3 : State.Keeps bd zz s3 := State.Keeps.foldl (fun _ _ w => State.ledgerWrite_keeps w) h2
  have h4 : State.Keeps bd zz s4 := State.publishAccepted_keeps (State.modQueue_keeps h3)
  have h5 : State.Keeps bd zz s5 := State.Keeps.ite (State.rereadLine_keeps h4) h4
  exact State.Keeps.ite (State.settleQueue_keeps h5) h3

theorem State.restartControls_keeps {bd : Bool} {zz s : State} {old : List Job} (h : State.Keeps bd zz s) : State.Keeps bd
    zz (State.restartControls s old) := by
  unfold State.restartControls
  try dsimp only
  repeat' first | with_reducible assumption | with_reducible apply State.Keeps.rest

theorem State.settleLostLoads_keeps {bd : Bool} {zz s : State} {old : List Job} (h : State.Keeps bd zz s) : State.Keeps bd
    zz (State.settleLostLoads s old) := by
  unfold State.settleLostLoads
  try dsimp only
  repeat' first
    | with_reducible assumption | with_reducible apply State.settleUpdate_keeps
    | with_reducible refine State.Keeps.foldl (fun _ _ _ => ?_) ?_ | with_reducible apply State.Keeps.rest

theorem State.recoverDie_keeps {bd : Bool} {zz s : State} {hv : HostView} {d : Nat} {log : Bool} (h : State.Keeps bd zz s)
    : State.Keeps bd zz (State.recoverDie s hv d log) := by
  unfold State.recoverDie
  refine State.Keeps.rest (t := _) ?_
  refine State.Keeps.foldl (fun _ _ w => State.recoverQueue_keeps w) ?_
  refine State.Keeps.foldl (fun _ _ w => State.releaseFlow_keeps w) ?_
  exact State.restartControls_keeps (State.Keeps.rest (State.settleLostLoads_keeps (State.dropComplete_keeps h)))

theorem State.settleRecovery_keeps {bd : Bool} {zz s : State} (h : State.Keeps bd zz s) : State.Keeps bd zz
    (State.settleRecovery s) := by
  unfold State.settleRecovery
  try dsimp only
  repeat' first
    | with_reducible assumption | with_reducible apply State.logErr_keeps
    | with_reducible apply State.writeSegState_keeps | with_reducible apply State.nextFence_keeps | split
    | with_reducible apply State.Keeps.rest

theorem State.segRetry_keeps {bd : Bool} {zz s : State} {d : Nat} (h : State.Keeps bd zz s) : State.Keeps bd zz
    (State.segRetry s d) := by
  unfold State.segRetry
  try dsimp only
  repeat' first
    | with_reducible assumption | with_reducible refine State.Keeps.modDie ?_ (fun _ => ?_)
    | with_reducible exact Die.Keeps.refl _ | with_reducible apply Die.Keeps.rest

theorem State.keepOpen_keeps {bd : Bool} {zz s : State} {hv : HostView} {d : Nat} {recs : List LedgerRec}
    {held : List (Nat × Nat)} {q : Nat} {open_ : List Nat} (h : State.Keeps bd zz s) : State.Keeps bd zz
    (State.keepOpen s hv d recs held q open_) := by
  unfold State.keepOpen
  refine State.Keeps.foldl (fun _ _ w => State.becomeAccepted_keeps w) ?_
  refine State.publishAccepted_keeps (State.Keeps.rest (t := s.takeQueue q d open_) (State.takeQueue_keeps h))

theorem State.reconcile_keeps {bd : Bool} {zz s : State} {hv : HostView} {d : Nat} (h : State.Keeps bd zz s) : State.Keeps
    bd zz (State.reconcile s hv d) := by
  unfold State.reconcile
  try dsimp only
  repeat' first
    | with_reducible assumption | with_reducible apply State.writeHeader_keeps
    | with_reducible apply State.keepOpen_keeps | with_reducible refine State.Keeps.modDie ?_ (fun _ => ?_)
    | with_reducible refine State.Keeps.foldl (fun _ _ _ => ?_) ?_ | split | with_reducible exact Die.Keeps.refl _
    | with_reducible apply Die.Keeps.rest

theorem State.settleLedger_keeps {bd : Bool} {zz s : State} (h : State.Keeps bd zz s) : State.Keeps bd zz
    (State.settleLedger s) := by
  unfold State.settleLedger
  try dsimp only
  repeat' first
    | with_reducible assumption | with_reducible apply State.settle_keeps | with_reducible apply State.Keeps.modRegs
    | split

theorem State.reconcileOr_keeps {bd : Bool} {zz s : State} {hv : HostView} {d : Nat} (h : State.Keeps bd zz s) :
    State.Keeps bd zz (State.reconcileOr s hv d) := by
  unfold State.reconcileOr
  try dsimp only
  repeat' first
    | with_reducible assumption | with_reducible apply State.segRetry_keeps
    | with_reducible apply State.reconcile_keeps | split

theorem State.rejoinLedger_keeps {bd : Bool} {zz s : State} {d : Nat} (h : State.Keeps bd zz s) : State.Keeps bd zz
    (State.rejoinLedger s d) := by
  unfold State.rejoinLedger
  try dsimp only
  repeat' first
    | with_reducible assumption | with_reducible apply State.writeHeader_keeps
    | with_reducible refine State.Keeps.modDie ?_ (fun _ => ?_) | split | with_reducible exact Die.Keeps.refl _
    | with_reducible apply Die.Keeps.rest

/-! ### Returns -/

theorem State.copyReplicas_keeps {bd : Bool} {zz s : State} {d e : Nat} (h : State.Keeps bd zz s) : State.Keeps bd zz
    (State.copyReplicas s d e) := by
  unfold State.copyReplicas
  try dsimp only
  repeat' first
    | with_reducible assumption | with_reducible apply Die.storeRegion_keeps
    | with_reducible refine State.Keeps.modDie ?_ (fun _ => ?_) | with_reducible exact Die.Keeps.refl _
    | with_reducible apply Die.Keeps.rest | with_reducible apply State.Keeps.rest

theorem State.finishReturn_keeps {bd : Bool} {zz s : State} {d : Nat} (h : State.Keeps bd zz s) : State.Keeps bd zz
    (State.finishReturn s d) := by
  unfold State.finishReturn
  try dsimp only
  repeat' first
    | with_reducible assumption | with_reducible apply State.settle_keeps
    | with_reducible apply State.renewHolders_keeps | with_reducible apply State.resumeFails_keeps
    | with_reducible apply State.settleLedger_keeps | with_reducible apply State.rejoinLedger_keeps
    | with_reducible apply State.copyReplicas_keeps | with_reducible refine State.Keeps.modDie ?_ (fun _ => ?_)
    | with_reducible refine State.Keeps.modDies ?_ (fun _ => ?_) | with_reducible apply State.Keeps.modRegs | split
    | with_reducible exact Die.Keeps.refl _ | with_reducible apply Die.Keeps.rest

theorem State.settleReturns_keeps {bd : Bool} {zz s : State} (h : State.Keeps bd zz s) : State.Keeps bd zz
    (State.settleReturns s) := by
  unfold State.settleReturns
  try dsimp only
  repeat' first
    | with_reducible assumption | with_reducible apply State.finishReturn_keeps
    | with_reducible refine State.Keeps.foldl (fun _ _ _ => ?_) ?_

theorem State.settleDurable_keeps {bd : Bool} {zz s : State} (h : State.Keeps bd zz s) : State.Keeps bd zz
    (State.settleDurable s) := by
  unfold State.settleDurable
  try dsimp only
  repeat' first
    | with_reducible assumption | with_reducible apply State.drainLog_keeps | with_reducible apply State.settle_keeps
    | with_reducible apply State.nextFence_keeps | with_reducible apply State.settleRecovery_keeps
    | with_reducible apply State.settleLedger_keeps | with_reducible apply State.settleReturns_keeps

theorem State.fenceReads_keeps {bd : Bool} {zz s : State} {hv : HostView} (h : State.Keeps bd zz s) : State.Keeps bd zz
    (State.fenceReads s hv) := by
  unfold State.fenceReads
  try dsimp only
  repeat' first
    | with_reducible assumption | with_reducible apply State.orderingRead_keeps
    | with_reducible refine State.Keeps.foldl (fun _ _ _ => ?_) ?_ | split

theorem State.endFence_keeps {bd : Bool} {zz s : State} {hv : HostView} {d k : Nat} {log : Bool} (h : State.Keeps bd zz s)
    : State.Keeps bd zz (State.endFence s hv d k log) := by
  unfold State.endFence
  try dsimp only
  repeat' first
    | with_reducible assumption | with_reducible apply State.issueAll_keeps
    | with_reducible apply State.recoverDie_keeps | with_reducible apply State.segRetry_keeps
    | with_reducible apply State.settleDurable_keeps | with_reducible apply State.fenceReads_keeps | split
    | with_reducible apply State.Keeps.rest

theorem State.setRetries_keeps {bd : Bool} {zz s : State} {d : Nat} {seg : Bool} {n : Option Nat}
    (h : State.Keeps bd zz s) : State.Keeps bd zz (State.setRetries s d seg n) := by
  unfold State.setRetries
  try dsimp only
  repeat' first
    | with_reducible assumption | with_reducible refine State.Keeps.modDie ?_ (fun _ => ?_) | split
    | with_reducible exact Die.Keeps.refl _ | with_reducible apply Die.Keeps.rest

theorem State.readAtLast_keeps {bd : Bool} {zz s : State} {d : Nat} {seg : Bool} (h : State.Keeps bd zz s) : State.Keeps
    bd zz (State.readAtLast s d seg) := by
  unfold State.readAtLast
  try dsimp only
  repeat' first
    | with_reducible assumption | with_reducible apply State.orderingRead_keeps
    | with_reducible apply State.reconcile_keeps | with_reducible apply State.settleLedger_keeps
    | with_reducible apply State.settleDurable_keeps | with_reducible apply State.endFence_keeps | split

/-! ### Power -/

theorem State.powerResult_keeps {bd : Bool} {zz s : State} {d r : Nat} (h : State.Keeps bd zz s) : State.Keeps bd zz
    (State.powerResult s d r) := by
  unfold State.powerResult
  try dsimp only
  repeat' first
    | with_reducible assumption | with_reducible refine State.Keeps.modDie ?_ (fun _ => ?_)
    | with_reducible exact Die.Keeps.refl _ | with_reducible apply Die.Keeps.rest

theorem State.leaveClusters_keeps {bd : Bool} {zz s : State} {d mode : Nat} {cs : List Nat} (h : State.Keeps bd zz s) :
    State.Keeps bd zz (State.leaveClusters s d mode cs) := by
  unfold State.leaveClusters
  try dsimp only
  repeat' first
    | with_reducible assumption | with_reducible refine State.Keeps.modDie ?_ (fun _ => ?_) | split
    | with_reducible exact Die.Keeps.refl _ | with_reducible apply Die.Keeps.rest
    | with_reducible apply State.Keeps.rest

theorem State.powerUp_keeps {bd : Bool} {zz s : State} {d : Nat} {cs : List Nat} {test : Bool} (h : State.Keeps bd zz s) :
    State.Keeps bd zz (State.powerUp s d cs test) := by
  unfold State.powerUp
  try dsimp only
  repeat' first
    | with_reducible assumption | with_reducible refine State.Keeps.modDie ?_ (fun _ => ?_) | split
    | with_reducible exact Die.Keeps.refl _ | with_reducible apply Die.Keeps.rest

theorem State.powerGo_keeps {bd : Bool} {zz s : State} {p : Nat} {d target mode mask : Nat} {f : State → State}
    (hf : ∀ a0, State.Keeps bd zz a0 → State.Keeps bd zz (f a0)) (h : State.Keeps bd zz s) : State.Keeps bd zz
    (State.powerGo s p d target mode mask f) := by
  unfold State.powerGo
  refine State.inWindow_keeps (fun t w => ?_) h
  dsimp only
  split
  · exact w
  · exact hf _ (State.Keeps.modDie w (fun x => Die.Keeps.rest (Die.Keeps.refl x)))

theorem State.beginChange_keeps {bd : Bool} {zz s : State} {d : Nat} {target mode mask : Nat} (h : State.Keeps bd zz s) :
    State.Keeps bd zz (State.beginChange s d target mode mask) := by
  unfold State.beginChange
  try dsimp only
  repeat' first
    | with_reducible assumption | with_reducible apply State.powerResult_keeps
    | with_reducible refine State.Keeps.modDie ?_ (fun _ => ?_) | with_reducible exact Die.Keeps.refl _
    | with_reducible apply Die.Keeps.rest

theorem State.setClusters_keeps {bd : Bool} {zz s : State} {d : Nat} {mode mask : Nat} (h : State.Keeps bd zz s) :
    State.Keeps bd zz (State.setClusters s d mode mask) := by
  unfold State.setClusters
  try dsimp only
  repeat' first
    | with_reducible assumption | with_reducible apply State.settleClusters_keeps
    | with_reducible apply State.leaveClusters_keeps | with_reducible apply State.powerUp_keeps
    | with_reducible apply State.beginChange_keeps

theorem State.divide_keeps {bd : Bool} {zz s : State} (h : State.Keeps bd zz s) : State.Keeps bd zz (State.divide s) := by
  unfold State.divide
  exact h.trans ⟨rfl, Die.KeepsAll.zipMap (fun x n => Die.Keeps.rest (Die.Keeps.refl x)) _ 0,
      fun w => w, fun w => w, fun w => w, rfl, fun _ => ⟨rfl, .inl rfl, rfl, rfl, rfl, rfl⟩⟩

/-! ### Security -/

theorem State.settleLife_keeps {zz s : State} (h : State.Keeps false zz s) : State.Keeps false zz (State.settleLife s) := by
  unfold State.settleLife
  refine State.Keeps.foldl (fun y a w => ?_) h
  exact State.Keeps.modDie w (f := fun x => { x with fuse := { x.fuse with life := Max.max x.fuse.life _ } })
    (fun x => ⟨fun v => v, Fuses.Le.advance _ _⟩)

theorem State.settleKeyFuses_keeps {zz s : State} (h : State.Keeps false zz s) : State.Keeps false zz
    (State.settleKeyFuses s) := by
  unfold State.settleKeyFuses
  try dsimp only
  repeat' first
    | with_reducible assumption | with_reducible apply State.loseDie_keeps
    | with_reducible refine State.Keeps.foldl (fun _ _ _ => ?_) ?_

theorem State.wipeVaults_keeps {zz s : State} (h : State.Keeps false zz s) : State.Keeps false zz (State.wipeVaults s) := by
  unfold State.wipeVaults
  try dsimp only
  repeat' first
    | with_reducible assumption | with_reducible apply Die.endVault_keeps
    | with_reducible refine State.Keeps.modDies ?_ (fun _ => ?_) | with_reducible exact Die.Keeps.refl _
    | with_reducible apply Die.Keeps.rest | with_reducible apply State.Keeps.restBoard

theorem State.alarm_keeps {zz s : State} (h : State.Keeps false zz s) : State.Keeps false zz (State.alarm s) := by
  unfold State.alarm
  try dsimp only
  repeat' first
    | with_reducible assumption | with_reducible apply State.settle_keeps
    | with_reducible apply State.wipeVaults_keeps | with_reducible refine State.Keeps.modDies ?_ (fun _ => ?_)
    | with_reducible exact Die.Keeps.refl _ | with_reducible apply Die.Keeps.rest
    | with_reducible apply State.Keeps.restBoard

theorem State.glitched_keeps {zz s : State} (h : State.Keeps false zz s) : State.Keeps false zz (State.glitched s) := by
  unfold State.glitched
  try dsimp only
  repeat' first
    | with_reducible assumption | with_reducible apply State.alarm_keeps | with_reducible apply State.Keeps.restBoard

theorem Die.takeKeys_keeps {zz x : Die} {img : List Byte} (h : Die.Keeps zz x) : Die.Keeps zz (Die.takeKeys x img) := by
  unfold Die.takeKeys
  try dsimp only
  repeat' first | with_reducible assumption | split | with_reducible apply Die.Keeps.rest

theorem State.takeImage_keeps {zz s : State} {img : List Byte} {fw : Firmware} (h : State.Keeps false zz s) : State.Keeps
    false zz (State.takeImage s img fw) := by
  unfold State.takeImage
  try dsimp only
  repeat' first
    | with_reducible assumption | with_reducible apply Die.takeKeys_keeps
    | with_reducible refine State.Keeps.modDie ?_ (fun _ => ?_)
    | with_reducible refine State.Keeps.modDies ?_ (fun _ => ?_)
    | with_reducible refine State.Keeps.foldl (fun _ _ _ => ?_) ?_ | with_reducible exact Die.Keeps.refl _
    | with_reducible apply Die.Keeps.rest

theorem State.releaseTracePort_keeps {zz s : State} (h : State.Keeps false zz s) : State.Keeps false zz
    (State.releaseTracePort s) := by
  unfold State.releaseTracePort
  split
  · exact h.updPins rfl rfl rfl rfl (fun w f => w f) rfl (fun w => by cases w)
  · exact h

theorem State.startFirmware_keeps {zz s : State} {img : List Byte} {n : Nat} (h : State.Keeps false zz s) : State.Keeps
    false zz (State.startFirmware s img n) := by
  unfold State.startFirmware
  try dsimp only
  repeat' first
    | with_reducible assumption | with_reducible apply State.settle_keeps
    | with_reducible apply State.settleLife_keeps | with_reducible apply State.takeImage_keeps
    | with_reducible apply State.releaseTracePort_keeps | with_reducible apply State.Keeps.restBoard

theorem State.bootFails_keeps {zz s : State} {code : Nat} (h : State.Keeps false zz s) : State.Keeps false zz
    (State.bootFails s code) := by
  unfold State.bootFails
  try dsimp only
  repeat' first | with_reducible assumption | with_reducible apply State.Keeps.restBoard

theorem State.bootImage_keeps {zz s : State} {hv : HostView} (h : State.Keeps false zz s) : State.Keeps false zz
    (State.bootImage s hv) := by
  unfold State.bootImage
  try dsimp only
  repeat' first
    | with_reducible assumption | with_reducible apply State.loseDie_keeps
    | with_reducible apply State.startFirmware_keeps | with_reducible apply State.bootFails_keeps
    | with_reducible refine State.Keeps.foldl (fun _ _ _ => ?_) ?_ | split

theorem State.secResult_keeps {zz s : State} {r : Nat} (h : State.Keeps false zz s) : State.Keeps false zz
    (State.secResult s r) := by
  unfold State.secResult
  try dsimp only
  repeat' first | with_reducible assumption | with_reducible apply State.Keeps.restBoard

theorem State.secGo_keeps {zz s : State} {p op : Nat} {f : State → State}
    (hf : ∀ a0, State.Keeps false zz a0 → State.Keeps false zz (f a0)) (h : State.Keeps false zz s) : State.Keeps false zz
    (State.secGo s p op f) := by
  unfold State.secGo
  try dsimp only
  repeat' first
    | with_reducible assumption | with_reducible apply hf | split | with_reducible apply State.Keeps.restBoard

theorem State.secCommand_keeps {zz s : State} {p op : Nat} {allowed : List Nat} {transition : Bool} {k : SecSigner}
    {hv : HostView} {f : List Byte → State → State}
    (hf : ∀ a0 a1, State.Keeps false zz a1 → State.Keeps false zz (f a0 a1)) (h : State.Keeps false zz s) : State.Keeps
    false zz (State.secCommand s p op allowed transition k hv f) := by
  unfold State.secCommand
  try dsimp only
  repeat' first
    | with_reducible assumption | with_reducible apply hf | with_reducible apply State.merge_keeps
    | with_reducible apply State.secResult_keeps | with_reducible apply State.secGo_keeps | split
    | with_reducible apply State.Keeps.restBoard | intro

theorem State.blow_keeps {zz s : State} {bad : Option Nat} {f : Fuses → Fuses} (hf : ∀ a, Fuses.Le a (f a))
    (h : State.Keeps false zz s) : State.Keeps false zz (State.blow s bad f) := by
  unfold State.blow
  refine State.secResult_keeps ?_
  have h1 := State.Keeps.foldl (g := fun s d => if bad = some d then s else s.modDie d (fun x => { x with fuse := f x.fuse }))
    (l := s.healthyDies) (fun y a w => State.Keeps.ite w (State.Keeps.modDie w (fun x => ⟨fun v => v, hf _⟩))) h
  rcases bad with _ | d
  · exact h1
  · exact State.Keeps.ite (State.loseDie_keeps h1) h1

/-! ### Startup -/

theorem State.readFuses_keeps {zz s : State} (h : State.Keeps false zz s) : State.Keeps false zz (State.readFuses s) := by
  unfold State.readFuses
  try dsimp only
  repeat' first
    | with_reducible assumption | with_reducible apply State.settleLife_keeps
    | with_reducible apply State.settleKeyFuses_keeps | with_reducible refine State.Keeps.modDies ?_ (fun _ => ?_)
    | with_reducible exact Die.Keeps.refl _ | with_reducible apply Die.Keeps.rest

theorem State.startGtc_keeps {zz s : State} (h : State.Keeps false zz s) : State.Keeps false zz (State.startGtc s) := by
  unfold State.startGtc
  try dsimp only
  repeat' first
    | with_reducible assumption | with_reducible refine State.Keeps.modDie ?_ (fun _ => ?_) | split
    | with_reducible exact Die.Keeps.refl _ | with_reducible apply Die.Keeps.rest
    | with_reducible apply State.Keeps.restBoard

theorem Die.warm__keeps {zz x : Die} (h : Die.Keeps zz x) : Die.Keeps zz (Die.warm_ x) := by
  unfold Die.warm_
  exact h.trans ⟨fun _ => rfl, Fuses.Le.refl _⟩

theorem State.warmReset_keeps {zz s : State} (h : State.Keeps false zz s) : State.Keeps false zz (State.warmReset s) := by
  unfold State.warmReset
  refine State.settle_keeps (State.readFuses_keeps (h.trans ⟨rfl, Die.KeepsAll.map (fun x => Die.warm__keeps (Die.Keeps.refl x)) _,
    fun w => ?_, fun w => w, fun _ f => ?_, rfl, fun w => ?_⟩))
  · simpa using w
  · have : Pins.reset.fatal = true := f
    cases this
  · cases w

theorem State.resetGo_keeps {zz s : State} {p v : Nat} {f : State → State}
    (hf : ∀ a0, State.Keeps false zz a0 → State.Keeps false zz (f a0)) (h : State.Keeps false zz s) : State.Keeps false zz
    (State.resetGo s p v f) := by
  unfold State.resetGo
  try dsimp only
  repeat' first
    | with_reducible assumption | with_reducible apply hf | with_reducible apply State.Keeps.modRegs | split
    | with_reducible apply State.Keeps.restBoard

theorem State.resetResult_keeps {zz s : State} {r : Nat} (h : State.Keeps false zz s) : State.Keeps false zz
    (State.resetResult s r) := by
  unfold State.resetResult
  try dsimp only
  repeat' first | with_reducible assumption | with_reducible apply State.Keeps.modRegs

theorem State.resets_keeps {zz s : State} (h : State.Keeps false zz s) : State.Keeps false zz (State.resets s) := by
  unfold State.resets
  try dsimp only
  repeat' first
    | with_reducible assumption | with_reducible apply State.resetResult_keeps
    | with_reducible apply State.Keeps.restBoard

theorem Die.clearCluster_keeps {zz x : Die} {c now : Nat} (h : Die.Keeps zz x) : Die.Keeps zz (Die.clearCluster x c now) := by
  unfold Die.clearCluster
  try dsimp only
  repeat' first | with_reducible assumption | with_reducible apply Die.Keeps.rest

theorem State.abandonChange_keeps {zz s : State} {d : Nat} (h : State.Keeps false zz s) : State.Keeps false zz
    (State.abandonChange s d) := by
  unfold State.abandonChange
  try dsimp only
  repeat' first
    | with_reducible assumption | with_reducible apply State.setClusters_keeps
    | with_reducible refine State.Keeps.modDie ?_ (fun _ => ?_) | split | with_reducible exact Die.Keeps.refl _
    | with_reducible apply Die.Keeps.rest

theorem State.sidebandReset_keeps {zz s : State} {v : Nat} (h : State.Keeps false zz s) : State.Keeps false zz
    (State.sidebandReset s v) := by
  unfold State.sidebandReset
  try dsimp only
  repeat' first
    | with_reducible assumption | with_reducible apply State.warmReset_keeps | split
    | with_reducible apply State.Keeps.restBoard

/-! ### Beats -/

theorem State.beat_keeps {zz s : State} (h : State.Keeps false zz s) : State.Keeps false zz (State.beat s) := by
  unfold State.beat
  try dsimp only
  repeat' first
    | with_reducible assumption | with_reducible apply State.settle_keeps | with_reducible apply State.Keeps.modRegs

theorem State.loadGtc_keeps {zz s : State} {g v : Nat} (h : State.Keeps false zz s) : State.Keeps false zz
    (State.loadGtc s g v) := by
  unfold State.loadGtc
  try dsimp only
  repeat' first
    | with_reducible assumption | with_reducible refine State.Keeps.modDies ?_ (fun _ => ?_)
    | with_reducible apply State.Keeps.modRegs | split | with_reducible exact Die.Keeps.refl _
    | with_reducible apply Die.Keeps.rest | with_reducible apply State.Keeps.restBoard

theorem State.ppsLoad_keeps {zz s : State} (h : State.Keeps false zz s) : State.Keeps false zz (State.ppsLoad s) := by
  unfold State.ppsLoad
  try dsimp only
  repeat' first
    | with_reducible assumption | with_reducible apply State.loadGtc_keeps
    | with_reducible apply State.Keeps.restBoard

/-! ### ControlJobs -/

theorem State.noEffect_keeps {bd : Bool} {zz s : State} {q n : Nat} (h : State.Keeps bd zz s) : State.Keeps bd zz
    (State.noEffect s q n) := by
  unfold State.noEffect
  try dsimp only
  repeat' first
    | with_reducible assumption | with_reducible apply State.complete_keeps | with_reducible apply State.advise_keeps

theorem State.suspendNow_keeps {bd : Bool} {zz s : State} {t : Job} {q n : Nat} (h : State.Keeps bd zz s) : State.Keeps bd
    zz (State.suspendNow s t q n) := by
  unfold State.suspendNow
  try dsimp only
  repeat' first
    | with_reducible assumption | with_reducible apply State.modJob_keeps | with_reducible apply State.setPhase_keeps
    | with_reducible apply State.traceEv_keeps | with_reducible apply State.ledgerWrite_keeps
    | with_reducible apply State.leaveReady_keeps | with_reducible apply State.settleQueue_keeps

theorem State.resumeTarget_keeps {bd : Bool} {zz s : State} {t : Job} (h : State.Keeps bd zz s) : State.Keeps bd zz
    (State.resumeTarget s t) := by
  unfold State.resumeTarget
  try dsimp only
  repeat' first
    | with_reducible assumption | with_reducible apply State.modJob_keeps | with_reducible apply State.traceEv_keeps
    | with_reducible apply State.becomeReady_keeps | split

theorem State.cancelNow_keeps {bd : Bool} {zz s : State} {t : Job} {q n : Nat} (h : State.Keeps bd zz s) : State.Keeps bd
    zz (State.cancelNow s t q n) := by
  unfold State.cancelNow
  try dsimp only
  repeat' first
    | with_reducible assumption | with_reducible apply State.complete_keeps
    | with_reducible apply State.undefOutputs_keeps

theorem State.dropPrefetched_keeps {bd : Bool} {zz s : State} {q n : Nat} (h : State.Keeps bd zz s) : State.Keeps bd zz
    (State.dropPrefetched s q n) := by
  unfold State.dropPrefetched
  try dsimp only
  repeat' first
    | with_reducible assumption | with_reducible refine State.Keeps.modDies ?_ (fun _ => ?_)
    | with_reducible exact Die.Keeps.refl _ | with_reducible apply Die.Keeps.rest

theorem State.cancelWorld_keeps {bd : Bool} {zz s : State} {t : Job} (h : State.Keeps bd zz s) : State.KeepsOpt bd zz
    (State.cancelWorld s t) := by
  unfold State.cancelWorld
  try dsimp only
  repeat' first
    | with_reducible assumption | with_reducible apply State.KeepsOpt.some | with_reducible exact State.KeepsOpt.none
    | with_reducible apply State.modWorld_keeps | with_reducible apply State.discardUpdate_keeps
    | with_reducible apply State.unload_keeps | with_reducible apply State.modBody_keeps | split

theorem State.cancelRunning_keeps {bd : Bool} {zz s : State} {t : Job} (h : State.Keeps bd zz s) : State.KeepsOpt bd zz
    (State.cancelRunning s t) := by
  unfold State.cancelRunning
  try dsimp only
  repeat' first
    | with_reducible assumption | with_reducible apply State.KeepsOpt.some | with_reducible exact State.KeepsOpt.none
    | with_reducible apply State.setPhase_keeps | with_reducible apply State.modSlot_keeps
    | with_reducible apply State.freeSlot_keeps | with_reducible apply State.afterLoad_keeps
    | with_reducible apply State.cancelWorld_keeps | split

/-! ### GeometryPath -/

theorem State.modTests_keeps {bd : Bool} {zz s : State} {d : Nat} {f : List GeoTest → List GeoTest}
    (h : State.Keeps bd zz s) : State.Keeps bd zz (State.modTests s d f) := by
  unfold State.modTests
  try dsimp only
  repeat' first
    | with_reducible assumption | with_reducible refine State.Keeps.modDie ?_ (fun _ => ?_)
    | with_reducible exact Die.Keeps.refl _ | with_reducible apply Die.Keeps.rest

theorem Die.useLines_keeps {zz x : Die} {job : Nat × Nat} {lines : List Nat} (h : Die.Keeps zz x) : Die.Keeps zz
    (Die.useLines x job lines) := by
  unfold Die.useLines
  try dsimp only
  repeat' first | with_reducible assumption | with_reducible apply Die.Keeps.rest

theorem Die.startFills_keeps {zz x : Die} (h : Die.Keeps zz x) : Die.Keeps zz (Die.startFills x) := by
  unfold Die.startFills
  try dsimp only
  repeat' first | with_reducible assumption | with_reducible apply Die.Keeps.rest

theorem State.readStore_keeps {bd : Bool} {zz s : State} {d : Nat} {line err : Nat} (h : State.Keeps bd zz s) :
    State.Keeps bd zz (State.readStore s d line err) := by
  unfold State.readStore
  try dsimp only
  repeat' first
    | with_reducible assumption | with_reducible apply State.logErr_keeps | with_reducible apply State.readFlip_keeps
    | with_reducible refine State.Keeps.modDie ?_ (fun _ => ?_)
    | with_reducible refine State.Keeps.foldl (fun _ _ _ => ?_) ?_ | split | with_reducible exact Die.Keeps.refl _
    | with_reducible apply Die.Keeps.rest

theorem State.readLines_keeps {bd : Bool} {zz s : State} {d : Nat} {key err : Nat} {ts : List GeoTest}
    (h : State.Keeps bd zz s) : State.Keeps bd zz (State.readLines s d key err ts) := by
  unfold State.readLines
  exact State.Keeps.modDie (State.Keeps.foldl (fun _ _ w => State.readStore_keeps w) h)
    (fun x => Die.Keeps.foldl (fun _ _ w => Die.useLines_keeps w) (Die.Keeps.refl x))

theorem Die.cacheL0_keeps {zz x : Die} {g : Nat} {t : GeoTest} (h : Die.Keeps zz x) : Die.Keeps zz (Die.cacheL0 x g t) := by
  unfold Die.cacheL0
  try dsimp only
  repeat' first | with_reducible assumption | with_reducible apply Die.Keeps.rest

theorem Die.addLine_keeps {zz x : Die} {cap line : Nat} {users : List (Nat × Nat)} {share : Nat × Nat → Nat}
    (h : Die.Keeps zz x) : Die.Keeps zz (Die.addLine x cap line users share) := by
  unfold Die.addLine
  try dsimp only
  repeat' first | with_reducible assumption | with_reducible apply Die.Keeps.rest

theorem State.readNext_keeps {bd : Bool} {zz s : State} {d line : Nat} (h : State.Keeps bd zz s) : State.Keeps bd zz
    (State.readNext s d line) := by
  unfold State.readNext
  try dsimp only
  repeat' first
    | with_reducible assumption | with_reducible apply Die.useLines_keeps | with_reducible apply State.readStore_keeps
    | with_reducible refine State.Keeps.modDie ?_ (fun _ => ?_)
    | with_reducible refine State.Keeps.foldl (fun _ _ _ => ?_) ?_ | split | with_reducible exact Die.Keeps.refl _

/-! ### Scrub -/

theorem State.scrubTurn_keeps {bd : Bool} {zz s : State} {d : Nat} (h : State.Keeps bd zz s) : State.Keeps bd zz
    (State.scrubTurn s d) := by
  unfold State.scrubTurn
  try dsimp only
  repeat' first
    | with_reducible assumption | with_reducible refine State.Keeps.modDie ?_ (fun _ => ?_) | split
    | with_reducible exact Die.Keeps.refl _ | with_reducible apply Die.Keeps.rest

theorem Die.leaveLine_keeps {zz x : Die} {l : Nat × Nat} {w : List Byte} {inj : Bool} (h : Die.Keeps zz x) : Die.Keeps zz
    (Die.leaveLine x l w inj) := by
  unfold Die.leaveLine
  exact Die.Keeps.memory h (fun w => Memory.wf_write _ (Memory.wf_write _ w _) _)

theorem State.scrubAccess_keeps {bd : Bool} {zz s : State} {d pc : Nat} {mine : Bool}
    {f : State → Host.Outcome State Fault Refusal} (hf : ∀ a0, State.Keeps bd zz a0 → State.KeepsOut bd zz (f a0))
    (h : State.Keeps bd zz s) : State.KeepsOut bd zz (State.scrubAccess s d pc mine f) := by
  unfold State.scrubAccess
  try dsimp only
  repeat' first
    | with_reducible assumption | with_reducible apply hf | with_reducible apply State.modArb_keeps
    | with_reducible apply State.cross_keeps | split

/-! ### TestPort -/

theorem State.tapAct_keeps {zz s : State} {tdi : Bool} (h : State.Keeps false zz s) : State.Keeps false zz
    (State.tapAct s tdi) := by
  unfold State.tapAct
  try dsimp only
  repeat' first
    | with_reducible assumption | with_reducible apply State.fresh_keeps | split
    | with_reducible apply State.Keeps.restBoard

theorem State.tapEnter_keeps {zz s : State} {a : Tap} (h : State.Keeps false zz s) : State.Keeps false zz
    (State.tapEnter s a) := by
  unfold State.tapEnter
  try dsimp only
  repeat' first | with_reducible assumption | split | with_reducible apply State.Keeps.restBoard

/-! ### Sideband -/

theorem State.sidebandByte_keeps {zz s : State} (h : State.Keeps false zz s) : State.Keeps false zz
    (State.sidebandByte s).2 := by
  unfold State.sidebandByte
  try dsimp only
  repeat' first
    | with_reducible assumption | split | with_reducible apply State.Keeps.rest
    | with_reducible apply State.Keeps.restBoard

theorem State.sidebandBytes_keeps {zz : State} {x0_ : Nat} {x1_ : State} (h : State.Keeps false zz x1_) : State.Keeps
    false zz (State.sidebandBytes x0_ x1_).2 := by
  induction x0_ generalizing x1_ with
  | zero => exact h
  | succ k ih =>
    unfold State.sidebandBytes
    exact ih (State.sidebandByte_keeps h)

theorem State.sidebandStore_keeps {zz s : State} {b : Byte} (h : State.Keeps false zz s) : State.Keeps false zz
    (State.sidebandStore s b) := by
  unfold State.sidebandStore
  try dsimp only
  repeat' first
    | with_reducible assumption | with_reducible apply State.sidebandReset_keeps | split
    | with_reducible apply State.Keeps.restBoard

theorem State.assignAddr_keeps {zz s : State} {assign : Option Nat} (h : State.Keeps false zz s) : State.Keeps false zz
    (State.assignAddr s assign) := by
  unfold State.assignAddr
  try dsimp only
  repeat' first
    | with_reducible assumption | split
    | with_reducible refine State.Keeps.pins ?_ (by first | exact fun hp hf => hp hf | exact fun hp hf => ⟨(hp hf).1, rfl⟩ | exact fun hp hf => ⟨rfl, (hp hf).2⟩ | exact fun _ _ => ⟨rfl, rfl⟩)

/-! ### Clock -/

theorem Die.tick_keeps {zz x : Die} (h : Die.Keeps zz x) : Die.Keeps zz (Die.tick x) := by
  unfold Die.tick
  try dsimp only
  repeat' first | with_reducible assumption | split | with_reducible apply Die.Keeps.rest

theorem State.putTrace_keeps {zz s : State} {d : Nat} {r : List Byte} (h : State.Keeps false zz s) : State.Keeps false zz
    (State.putTrace s d r) := by
  unfold State.putTrace
  try dsimp only
  repeat' first
    | with_reducible assumption | with_reducible apply State.writeHost_keeps
    | with_reducible apply State.mergeHbm_keeps | with_reducible refine State.Keeps.modDie ?_ (fun _ => ?_) | split
    | with_reducible exact Die.Keeps.refl _ | with_reducible apply Die.Keeps.rest
    | with_reducible apply State.Keeps.rest

theorem State.drainTrace_keeps {zz s : State} {d : Nat} (h : State.Keeps false zz s) : State.Keeps false zz
    (State.drainTrace s d) := by
  unfold State.drainTrace
  try dsimp only
  repeat' first
    | with_reducible assumption | with_reducible apply Die.pushTrace_keeps | with_reducible apply State.granted_keeps
    | with_reducible apply State.queued_keeps | with_reducible apply State.putTrace_keeps
    | with_reducible refine State.Keeps.modDie ?_ (fun _ => ?_)
    | with_reducible refine State.Keeps.foldl (fun _ _ _ => ?_) ?_ | split | with_reducible exact Die.Keeps.refl _
    | with_reducible apply Die.Keeps.rest

end Sys2Proof.Machine
end

