-- ==== Sys2Proof/Laws/KeepsCommands.lean ====
section
/-!
SUPPORT. Every command keeps what the relation says: one lemma each, by the file of its meaning.
-/
namespace Sys2Proof.Machine

/-! ### Registers -/

theorem execLowerHalfRead_keeps {bd : Bool} {zz : State} {p off : Nat} {s : State} {width : Nat} (h : State.Keeps bd zz s)
    : State.KeepsOut bd zz (execLowerHalfRead p off s width) := by
  unfold execLowerHalfRead
  try dsimp only
  repeat' first
    | with_reducible assumption | with_reducible apply State.KeepsOut.next | with_reducible apply State.KeepsOut.idle
    | with_reducible apply State.regRead_keeps | with_reducible apply State.regRead64_keeps
    | with_reducible apply State.atOffset_keeps | with_reducible apply State.Keeps.modRegs | split | intro

theorem execRegisterWrite_keeps {zz : State} {p : Nat} {off width v : Nat} {s : State} (h : State.Keeps false zz s) :
    State.KeepsOut false zz (execRegisterWrite p off width v s) := by
  unfold execRegisterWrite
  try dsimp only
  repeat' first
    | with_reducible assumption | with_reducible apply State.KeepsOut.next | with_reducible apply State.KeepsOut.idle
    | with_reducible apply State.raised_keeps | with_reducible apply State.atOffset_keeps
    | with_reducible apply State.regWrite_keeps | with_reducible apply State.configWrite_keeps
    | with_reducible apply State.Keeps.modRegs | split | intro

theorem execArbFreeze_keeps {bd : Bool} {zz : State} {p d n : Nat} {on : Bool} {s : State} (h : State.Keeps bd zz s) :
    State.KeepsOut bd zz (execArbFreeze p d n on s) := by
  unfold execArbFreeze
  try dsimp only
  repeat' first
    | with_reducible assumption | with_reducible apply State.KeepsOut.done | with_reducible apply State.modArb_keeps
    | with_reducible apply State.inWindow_keeps | with_reducible apply State.egressOpens_keeps | split | intro

theorem execArbClear_keeps {bd : Bool} {zz : State} {p d n : Nat} {s : State} (h : State.Keeps bd zz s) : State.KeepsOut
    bd zz (execArbClear p d n s) := by
  unfold execArbClear
  try dsimp only
  repeat' first
    | with_reducible assumption | with_reducible apply State.KeepsOut.next | with_reducible apply State.inWindow_keeps
    | with_reducible refine State.Keeps.modDie ?_ (fun _ => ?_) | split | with_reducible exact Die.Keeps.refl _
    | with_reducible apply Die.Keeps.rest | intro

theorem execGapMaxClear_keeps {bd : Bool} {zz : State} {p d k : Nat} {s : State} (h : State.Keeps bd zz s) :
    State.KeepsOut bd zz (execGapMaxClear p d k s) := by
  unfold execGapMaxClear
  try dsimp only
  repeat' first
    | with_reducible assumption | with_reducible apply State.KeepsOut.next | with_reducible apply State.clearGap_keeps
    | with_reducible apply State.inWindow_keeps | intro

theorem execTraceIndexReset_keeps {bd : Bool} {zz : State} {p d : Nat} {s : State} (h : State.Keeps bd zz s) :
    State.KeepsOut bd zz (execTraceIndexReset p d s) := by
  unfold execTraceIndexReset
  try dsimp only
  repeat' first
    | with_reducible assumption | with_reducible apply State.KeepsOut.next | with_reducible apply State.inWindow_keeps
    | with_reducible refine State.Keeps.modDie ?_ (fun _ => ?_) | with_reducible exact Die.Keeps.refl _
    | with_reducible apply Die.Keeps.rest | intro

theorem execHbmDivisionWrite_keeps {bd : Bool} {zz : State} {p reg v : Nat} {s : State} (h : State.Keeps bd zz s) :
    State.KeepsOut bd zz (execHbmDivisionWrite p reg v s) := by
  unfold execHbmDivisionWrite
  try dsimp only
  repeat' first
    | with_reducible assumption | with_reducible apply State.KeepsOut.next | with_reducible apply State.KeepsOut.idle
    | with_reducible apply State.raised_keeps | with_reducible apply State.Keeps.modRegs | split

theorem execVectorUnmask_keeps {bd : Bool} {zz : State} {p : Nat} {v : Option Nat} {s : State} (h : State.Keeps bd zz s) :
    State.KeepsOut bd zz (execVectorUnmask p v s) := by
  unfold execVectorUnmask
  try dsimp only
  repeat' first
    | with_reducible assumption | with_reducible apply State.KeepsOut.done | with_reducible apply State.KeepsOut.idle
    | with_reducible apply State.flushPending_keeps | split | with_reducible apply State.Keeps.rest

/-! ### Queues -/

theorem execDoorbellSnoop_keeps {bd : Bool} {zz : State} {k q : Nat} {s : State} (h : State.Keeps bd zz s) :
    State.KeepsOut bd zz (execDoorbellSnoop k q s) := by
  unfold execDoorbellSnoop
  try dsimp only
  repeat' first
    | with_reducible assumption | with_reducible apply State.KeepsOut.next | with_reducible apply State.KeepsOut.idle
    | with_reducible apply State.Keeps.modPort | split

theorem execDoorbellLineRead_keeps {bd : Bool} {zz : State} {k q : Nat} {hv : HostView} {s : State}
    (h : State.Keeps bd zz s) : State.KeepsOut bd zz (execDoorbellLineRead k q hv s) := by
  unfold execDoorbellLineRead
  try dsimp only
  repeat' first
    | with_reducible assumption | with_reducible apply State.KeepsOut.next | with_reducible apply State.KeepsOut.idle
    | with_reducible apply State.merge_keeps | with_reducible apply State.cross_keeps
    | with_reducible apply State.readLine_keeps | with_reducible apply State.Keeps.modPort | split | intro

theorem execDoorbellSweep_keeps {bd : Bool} {zz : State} {k : Nat} {hv : HostView} {s : State} (h : State.Keeps bd zz s) :
    State.KeepsOut bd zz (execDoorbellSweep k hv s) := by
  unfold execDoorbellSweep
  try dsimp only
  repeat' first
    | with_reducible assumption | with_reducible apply State.KeepsOut.next | with_reducible apply State.KeepsOut.idle
    | with_reducible apply State.merge_keeps | with_reducible apply State.logErr_keeps
    | with_reducible apply State.cross_keeps | with_reducible apply State.readLine_keeps
    | with_reducible refine State.Keeps.foldl (fun _ _ _ => ?_) ?_ | split | intro

theorem execDoorbellPoll_keeps {bd : Bool} {zz : State} {k : Nat} {hv : HostView} {s : State} (h : State.Keeps bd zz s) :
    State.KeepsOut bd zz (execDoorbellPoll k hv s) := by
  unfold execDoorbellPoll
  try dsimp only
  repeat' first
    | with_reducible assumption | with_reducible apply State.KeepsOut.next | with_reducible apply State.KeepsOut.idle
    | with_reducible apply State.merge_keeps | with_reducible apply State.cross_keeps
    | with_reducible apply State.readLine_keeps | with_reducible refine State.Keeps.foldl (fun _ _ _ => ?_) ?_ | split
    | intro

theorem execDoorbellDelivery_keeps {bd : Bool} {zz : State} {q : Nat} {s : State} (h : State.Keeps bd zz s) :
    State.KeepsOut bd zz (execDoorbellDelivery q s) := by
  unfold execDoorbellDelivery
  try dsimp only
  repeat' first
    | with_reducible assumption | with_reducible apply State.KeepsOut.next | with_reducible apply State.KeepsOut.idle
    | with_reducible apply State.modQueue_keeps | with_reducible apply State.logErr_keeps
    | with_reducible apply State.readContext_keeps | with_reducible apply State.cross_keeps
    | with_reducible apply State.noteStall_keeps | split | intro

theorem execQueueEnable_keeps {bd : Bool} {zz : State} {p q : Nat} {hv : HostView} {s : State} {die : Nat}
    (h : State.Keeps bd zz s) : State.KeepsOut bd zz (execQueueEnable p q hv s die) := by
  unfold execQueueEnable
  try dsimp only
  repeat' first
    | with_reducible assumption | with_reducible apply State.KeepsOut.done | with_reducible apply State.merge_keeps
    | with_reducible apply State.qtbGo_keeps | with_reducible apply State.enableQueue_keeps | intro

theorem execQueueDrain_keeps {bd : Bool} {zz : State} {p q : Nat} {s : State} {die : Nat} (h : State.Keeps bd zz s) :
    State.KeepsOut bd zz (execQueueDrain p q s die) := by
  unfold execQueueDrain
  try dsimp only
  repeat' first
    | with_reducible assumption | with_reducible apply State.KeepsOut.done
    | with_reducible apply State.qtbResult_keeps | with_reducible apply State.qtbGo_keeps
    | with_reducible apply State.drainQueue_keeps | with_reducible apply State.Keeps.modRegs | split | intro

theorem execQueueWithdraw_keeps {bd : Bool} {zz : State} {p q : Nat} {s : State} {die : Nat} (h : State.Keeps bd zz s) :
    State.KeepsOut bd zz (execQueueWithdraw p q s die) := by
  unfold execQueueWithdraw
  try dsimp only
  repeat' first
    | with_reducible assumption | with_reducible apply State.KeepsOut.done
    | with_reducible apply State.qtbResult_keeps | with_reducible apply State.qtbGo_keeps
    | with_reducible apply State.withdrawQueue_keeps | with_reducible apply State.Keeps.modRegs | split | intro

theorem execQueueMove_keeps {bd : Bool} {zz : State} {p q d : Nat} {s : State} (h : State.Keeps bd zz s) : State.KeepsOut
    bd zz (execQueueMove p q d s) := by
  unfold execQueueMove
  try dsimp only
  repeat' first
    | with_reducible assumption | with_reducible apply State.KeepsOut.done
    | with_reducible apply State.qtbResult_keeps | with_reducible apply State.qtbGo_keeps
    | with_reducible apply State.startMove_keeps | with_reducible apply State.Keeps.modRegs | split | intro

theorem execGroupEnable_keeps {bd : Bool} {zz : State} {p g : Nat} {s : State} (h : State.Keeps bd zz s) : State.KeepsOut
    bd zz (execGroupEnable p g s) := by
  unfold execGroupEnable
  try dsimp only
  repeat' first
    | with_reducible assumption | with_reducible apply State.KeepsOut.next | with_reducible apply State.groupGo_keeps
    | with_reducible apply State.groupResult_keeps | with_reducible refine State.Keeps.modDies ?_ (fun _ => ?_)
    | with_reducible apply State.Keeps.modRegs | split | with_reducible exact Die.Keeps.refl _
    | with_reducible apply Die.Keeps.rest | intro

theorem execGroupDrain_keeps {bd : Bool} {zz : State} {p g : Nat} {s : State} (h : State.Keeps bd zz s) : State.KeepsOut
    bd zz (execGroupDrain p g s) := by
  unfold execGroupDrain
  try dsimp only
  repeat' first
    | with_reducible assumption | with_reducible apply State.KeepsOut.done
    | with_reducible apply State.drainQueue_keeps | with_reducible apply State.groupGo_keeps
    | with_reducible apply State.groupResult_keeps | with_reducible apply State.Keeps.modRegs
    | with_reducible refine State.Keeps.foldl (fun _ _ _ => ?_) ?_ | split | intro

theorem execGroupWithdraw_keeps {bd : Bool} {zz : State} {p g : Nat} {s : State} (h : State.Keeps bd zz s) :
    State.KeepsOut bd zz (execGroupWithdraw p g s) := by
  unfold execGroupWithdraw
  try dsimp only
  repeat' first
    | with_reducible assumption | with_reducible apply State.KeepsOut.done
    | with_reducible apply State.withdrawQueue_keeps | with_reducible apply State.groupGo_keeps
    | with_reducible apply State.groupResult_keeps | with_reducible apply State.Keeps.modRegs
    | with_reducible refine State.Keeps.foldl (fun _ _ _ => ?_) ?_ | split | intro

theorem execDescriptorRead_keeps {bd : Bool} {zz : State} {q : Nat} {s : State} (h : State.Keeps bd zz s) : State.KeepsOut
    bd zz (execDescriptorRead q s) := by
  unfold execDescriptorRead
  try dsimp only
  repeat' first
    | with_reducible assumption | with_reducible apply State.KeepsOut.next | with_reducible apply State.KeepsOut.idle
    | with_reducible apply State.modQueue_keeps | with_reducible apply State.cross_keeps | split | intro

theorem execDescriptorArrival_keeps {bd : Bool} {zz : State} {q : Nat} {hv : HostView} {s : State}
    (h : State.Keeps bd zz s) : State.KeepsOut bd zz (execDescriptorArrival q hv s) := by
  unfold execDescriptorArrival
  try dsimp only
  repeat' first
    | with_reducible assumption | with_reducible apply State.KeepsOut.done | with_reducible apply State.KeepsOut.idle
    | with_reducible apply State.modQueue_keeps | with_reducible apply State.modPart_keeps
    | with_reducible apply State.merge_keeps | with_reducible apply State.ledgerWrite_keeps
    | with_reducible apply State.noteStalls_keeps | with_reducible apply takeDescriptors_keeps | split

theorem execBacklog_keeps {bd : Bool} {zz : State} {q : Nat} {s : State} (h : State.Keeps bd zz s) : State.KeepsOut bd zz
    (execBacklog q s) := by
  unfold execBacklog
  try dsimp only
  repeat' first
    | with_reducible assumption | with_reducible apply State.KeepsOut.next | with_reducible apply State.KeepsOut.idle
    | with_reducible apply State.modQueue_keeps | with_reducible apply State.logErr_keeps
    | with_reducible apply State.traceEv_keeps | with_reducible apply State.noteStall_keeps | split

theorem execFetchStallUpdate_keeps {bd : Bool} {zz : State} {q : Nat} {s : State} (h : State.Keeps bd zz s) :
    State.KeepsOut bd zz (execFetchStallUpdate q s) := by
  unfold execFetchStallUpdate
  try dsimp only
  repeat' first
    | with_reducible assumption | with_reducible apply State.KeepsOut.next | with_reducible apply State.KeepsOut.done
    | with_reducible apply State.publishAccepted_keeps | with_reducible apply State.noteStall_keeps | split

/-! ### Ledger -/

theorem execLivenessAdvance_keeps {bd : Bool} {zz : State} {d : Nat} {s : State} (h : State.Keeps bd zz s) :
    State.KeepsOut bd zz (execLivenessAdvance d s) := by
  unfold execLivenessAdvance
  try dsimp only
  repeat' first
    | with_reducible assumption | with_reducible apply State.KeepsOut.done | with_reducible apply State.KeepsOut.idle
    | with_reducible apply State.cross_keeps | with_reducible apply State.writeHeader_keeps
    | with_reducible refine State.Keeps.modDie ?_ (fun _ => ?_) | split | with_reducible exact Die.Keeps.refl _
    | with_reducible apply Die.Keeps.rest | intro

theorem execLeaseExpiry_keeps {bd : Bool} {zz : State} {d : Nat} {s : State} (h : State.Keeps bd zz s) : State.KeepsOut bd
    zz (execLeaseExpiry d s) := by
  unfold execLeaseExpiry
  try dsimp only
  repeat' first
    | with_reducible assumption | with_reducible apply State.KeepsOut.next | with_reducible apply State.KeepsOut.idle
    | with_reducible refine State.Keeps.modDie ?_ (fun _ => ?_) | split | with_reducible exact Die.Keeps.refl _
    | with_reducible apply Die.Keeps.rest

theorem execMoveTransfer_keeps {bd : Bool} {zz : State} {q : Nat} {s : State} (h : State.Keeps bd zz s) : State.KeepsOut
    bd zz (execMoveTransfer q s) := by
  unfold execMoveTransfer
  try dsimp only
  repeat' first
    | with_reducible assumption | with_reducible apply State.KeepsOut.done | with_reducible apply State.KeepsOut.idle
    | with_reducible apply State.modQueue_keeps | with_reducible apply State.cross_keeps
    | with_reducible apply State.ledgerWrite_keeps | with_reducible refine State.Keeps.foldl (fun _ _ _ => ?_) ?_
    | split | with_reducible apply State.Keeps.rest | intro

/-! ### Waits -/

theorem execWaitMet_keeps {bd : Bool} {zz : State} {q n : Nat} {s : State} (h : State.Keeps bd zz s) : State.KeepsOut bd
    zz (execWaitMet q n s) := by
  unfold execWaitMet
  try dsimp only
  repeat' first
    | with_reducible assumption | with_reducible apply State.KeepsOut.next | with_reducible apply State.KeepsOut.idle
    | with_reducible apply State.modJob_keeps | with_reducible apply State.traceEv_keeps
    | with_reducible apply State.becomeReady_keeps | split

theorem execWaitTimeout_keeps {bd : Bool} {zz : State} {q n : Nat} {s : State} (h : State.Keeps bd zz s) : State.KeepsOut
    bd zz (execWaitTimeout q n s) := by
  unfold execWaitTimeout
  try dsimp only
  repeat' first
    | with_reducible assumption | with_reducible apply State.KeepsOut.done | with_reducible apply State.KeepsOut.idle
    | with_reducible apply State.complete_keeps | split

theorem execDeadlineExpiry_keeps {bd : Bool} {zz : State} {q n : Nat} {s : State} (h : State.Keeps bd zz s) :
    State.KeepsOut bd zz (execDeadlineExpiry q n s) := by
  unfold execDeadlineExpiry
  try dsimp only
  repeat' first
    | with_reducible assumption | with_reducible apply State.KeepsOut.done | with_reducible apply State.KeepsOut.idle
    | with_reducible apply State.complete_keeps | split

theorem execSyncWatch_keeps {bd : Bool} {zz : State} {q n : Nat} {s : State} (h : State.Keeps bd zz s) : State.KeepsOut bd
    zz (execSyncWatch q n s) := by
  unfold execSyncWatch
  try dsimp only
  repeat' first
    | with_reducible assumption | with_reducible apply State.KeepsOut.next | with_reducible apply State.KeepsOut.idle
    | with_reducible apply State.modJob_keeps | with_reducible apply State.cross_keeps
    | with_reducible apply State.notify_keeps | with_reducible refine State.Keeps.foldl (fun _ _ _ => ?_) ?_ | split
    | intro

theorem execSyncHolderCopy_keeps {bd : Bool} {zz : State} {o : Nat} {s : State} (h : State.Keeps bd zz s) : State.KeepsOut
    bd zz (execSyncHolderCopy o s) := by
  unfold execSyncHolderCopy
  try dsimp only
  repeat' first
    | with_reducible assumption | with_reducible apply State.KeepsOut.next | with_reducible apply State.KeepsOut.idle
    | split | with_reducible apply State.Keeps.rest

theorem execSignalPost_keeps {bd : Bool} {zz : State} {q n : Nat} {s : State} (h : State.Keeps bd zz s) : State.KeepsOut
    bd zz (execSignalPost q n s) := by
  unfold execSignalPost
  try dsimp only
  repeat' first
    | with_reducible assumption | with_reducible apply State.KeepsOut.done | with_reducible apply State.KeepsOut.idle
    | with_reducible apply State.changeObject_keeps | split

theorem execSignalFire_keeps {bd : Bool} {zz : State} {q n : Nat} {s : State} (h : State.Keeps bd zz s) : State.KeepsOut
    bd zz (execSignalFire q n s) := by
  unfold execSignalFire
  try dsimp only
  repeat' first
    | with_reducible assumption | with_reducible apply State.KeepsOut.done | with_reducible apply State.KeepsOut.idle
    | with_reducible apply State.changeObject_keeps | split

theorem execSignalInit_keeps {bd : Bool} {zz : State} {q n : Nat} {s : State} (h : State.Keeps bd zz s) : State.KeepsOut
    bd zz (execSignalInit q n s) := by
  unfold execSignalInit
  try dsimp only
  repeat' first
    | with_reducible assumption | with_reducible apply State.KeepsOut.done | with_reducible apply State.KeepsOut.idle
    | with_reducible apply State.changeObject_keeps | split

theorem execNop_keeps {bd : Bool} {zz : State} {q n : Nat} {s : State} (h : State.Keeps bd zz s) : State.KeepsOut bd zz
    (execNop q n s) := by
  unfold execNop
  try dsimp only
  repeat' first
    | with_reducible assumption | with_reducible apply State.KeepsOut.done | with_reducible apply State.KeepsOut.idle
    | with_reducible apply State.complete_keeps | split

theorem execFlowReq_keeps {bd : Bool} {zz : State} {q n : Nat} {s : State} (h : State.Keeps bd zz s) : State.KeepsOut bd
    zz (execFlowReq q n s) := by
  unfold execFlowReq
  try dsimp only
  repeat' first
    | with_reducible assumption | with_reducible apply State.KeepsOut.next | with_reducible apply State.KeepsOut.idle
    | with_reducible apply State.traceEv_keeps | with_reducible apply State.cross_keeps | split
    | with_reducible apply State.Keeps.rest | intro

theorem execFlowGrant_keeps {bd : Bool} {zz : State} {f : Nat} {s : State} (h : State.Keeps bd zz s) : State.KeepsOut bd
    zz (execFlowGrant f s) := by
  unfold execFlowGrant
  try dsimp only
  repeat' first
    | with_reducible assumption | with_reducible apply State.KeepsOut.next | with_reducible apply State.KeepsOut.idle
    | with_reducible apply State.traceEv_keeps | with_reducible apply State.cross_keeps
    | with_reducible apply State.becomeReady_keeps | split | with_reducible apply State.Keeps.rest | intro

theorem execFlowHomeRebuild_keeps {bd : Bool} {zz : State} {f : Nat} {s : State} (h : State.Keeps bd zz s) :
    State.KeepsOut bd zz (execFlowHomeRebuild f s) := by
  unfold execFlowHomeRebuild
  try dsimp only
  repeat' first
    | with_reducible assumption | with_reducible apply State.KeepsOut.next | with_reducible apply State.KeepsOut.idle
    | split | with_reducible apply State.Keeps.rest

/-! ### Units -/

theorem execTinkerSliceStart_keeps {bd : Bool} {zz : State} {d unit slice : Nat} {s : State} (h : State.Keeps bd zz s) :
    State.KeepsOut bd zz (execTinkerSliceStart d unit slice s) := by
  unfold execTinkerSliceStart
  try dsimp only
  repeat' first
    | with_reducible assumption | with_reducible apply State.KeepsOut.next | with_reducible apply State.KeepsOut.idle
    | with_reducible apply State.granted_keeps | with_reducible apply State.modUnit_keeps
    | with_reducible apply Die.buildLattice_keeps | with_reducible refine State.Keeps.modDie ?_ (fun _ => ?_) | split
    | with_reducible exact Die.Keeps.refl _

theorem execSuspectTest_keeps {bd : Bool} {zz : State} {d unit : Nat} {ok : Bool} {s : State} (h : State.Keeps bd zz s) :
    State.KeepsOut bd zz (execSuspectTest d unit ok s) := by
  unfold execSuspectTest
  try dsimp only
  repeat' first
    | with_reducible assumption | with_reducible apply State.KeepsOut.done | with_reducible apply State.KeepsOut.idle
    | with_reducible apply State.issueAll_keeps | with_reducible apply State.settleClusters_keeps
    | with_reducible apply State.modUnit_keeps | with_reducible apply State.modSpares_keeps
    | with_reducible apply State.mapCluster_keeps | with_reducible apply State.mapBank_keeps
    | with_reducible apply State.mapGqu_keeps | with_reducible apply State.actOnFailure_keeps
    | with_reducible apply State.nextFails_keeps | with_reducible apply State.sliceFails_keeps
    | with_reducible apply State.zeroBank_keeps | with_reducible apply State.settlePass_keeps | split

theorem execTestOverdue_keeps {bd : Bool} {zz : State} {d unit : Nat} {s : State} (h : State.Keeps bd zz s) :
    State.KeepsOut bd zz (execTestOverdue d unit s) := by
  unfold execTestOverdue
  try dsimp only
  repeat' first
    | with_reducible assumption | with_reducible apply State.KeepsOut.next | with_reducible apply State.KeepsOut.idle
    | with_reducible apply State.logErr_keeps | with_reducible apply State.modUnit_keeps | split

theorem execUnitFault_keeps {bd : Bool} {zz : State} {d unit kind : Nat} {s : State} (h : State.Keeps bd zz s) :
    State.KeepsOut bd zz (execUnitFault d unit kind s) := by
  unfold execUnitFault
  try dsimp only
  repeat' first
    | with_reducible assumption | with_reducible apply State.KeepsOut.done | with_reducible apply State.KeepsOut.idle
    | with_reducible apply State.logErr_keeps | with_reducible apply State.issueAll_keeps
    | with_reducible apply State.failUnit_keeps | split

theorem execPartitionMismatch_keeps {bd : Bool} {zz : State} {d p : Nat} {one : Bool} {word : Nat} {s : State}
    {bits : Nat} {later : Bool} (h : State.Keeps bd zz s) : State.KeepsOut bd zz
    (execPartitionMismatch d p one word s bits later) := by
  unfold execPartitionMismatch
  try dsimp only
  repeat' first
    | with_reducible assumption | with_reducible apply State.KeepsOut.next | with_reducible apply State.KeepsOut.done
    | with_reducible apply State.KeepsOut.idle | with_reducible apply State.modPart_keeps
    | with_reducible apply State.logErr_keeps | with_reducible apply State.issueAll_keeps
    | with_reducible apply State.loseDie_keeps | split

/-! ### ArrayOps -/

theorem execMatrixMultiply_keeps {bd : Bool} {zz : State} {r : OpRef} {hv : HostView} {faults : List ArrFault} {s : State}
    {hit : Option BankHit} (h : State.Keeps bd zz s) : State.KeepsOut bd zz (execMatrixMultiply r hv faults s hit) := by
  unfold execMatrixMultiply
  try dsimp only
  repeat' first
    | with_reducible assumption | with_reducible apply State.runWrites_keeps
    | with_reducible apply State.runArray_keeps | intro

theorem execBatchedMatrixMultiply_keeps {bd : Bool} {zz : State} {r : OpRef} {hv : HostView} {faults : List ArrFault}
    {s : State} {hit : Option BankHit} (h : State.Keeps bd zz s) : State.KeepsOut bd zz
    (execBatchedMatrixMultiply r hv faults s hit) := by
  unfold execBatchedMatrixMultiply
  try dsimp only
  repeat' first
    | with_reducible assumption | with_reducible apply State.runWrites_keeps
    | with_reducible apply State.runArray_keeps | intro

theorem execTemporalConvolution_keeps {bd : Bool} {zz : State} {r : OpRef} {hv : HostView} {faults : List ArrFault}
    {s : State} {hit : Option BankHit} (h : State.Keeps bd zz s) : State.KeepsOut bd zz
    (execTemporalConvolution r hv faults s hit) := by
  unfold execTemporalConvolution
  try dsimp only
  repeat' first
    | with_reducible assumption | with_reducible apply State.runWrites_keeps
    | with_reducible apply State.runArray_keeps | intro

theorem execFusedAttention_keeps {bd : Bool} {zz : State} {r : OpRef} {hv : HostView} {faults : List ArrFault} {s : State}
    {bad : Option Nat} {hit : Option BankHit} (h : State.Keeps bd zz s) : State.KeepsOut bd zz
    (execFusedAttention r hv faults s bad hit) := by
  unfold execFusedAttention
  refine State.runWrites_keeps (fun _ w => ?_) h
  cases bad with
  | none => exact State.runArray_keeps w
  | some b => exact State.withOp_keeps (fun _ => State.KeepsOut.done (State.mismatch_keeps w)) w

theorem execElementwise_keeps {bd : Bool} {zz : State} {r : OpRef} {hv : HostView} {bad : Option Nat} {s : State}
    {hit : Option BankHit} (h : State.Keeps bd zz s) : State.KeepsOut bd zz (execElementwise r hv bad s hit) := by
  unfold execElementwise
  try dsimp only
  repeat' first
    | with_reducible assumption | with_reducible apply State.runWrites_keeps
    | with_reducible apply State.runVector_keeps | intro

theorem execNormalisation_keeps {bd : Bool} {zz : State} {r : OpRef} {hv : HostView} {bad : Option Nat} {s : State}
    {hit : Option BankHit} (h : State.Keeps bd zz s) : State.KeepsOut bd zz (execNormalisation r hv bad s hit) := by
  unfold execNormalisation
  try dsimp only
  repeat' first
    | with_reducible assumption | with_reducible apply State.runWrites_keeps
    | with_reducible apply State.runVector_keeps | intro

theorem execActivation_keeps {bd : Bool} {zz : State} {r : OpRef} {hv : HostView} {bad : Option Nat} {s : State}
    {hit : Option BankHit} (h : State.Keeps bd zz s) : State.KeepsOut bd zz (execActivation r hv bad s hit) := by
  unfold execActivation
  try dsimp only
  repeat' first
    | with_reducible assumption | with_reducible apply State.runWrites_keeps
    | with_reducible apply State.runVector_keeps | intro

theorem execReduction_keeps {bd : Bool} {zz : State} {r : OpRef} {hv : HostView} {bad : Option Nat} {s : State}
    {hit : Option BankHit} (h : State.Keeps bd zz s) : State.KeepsOut bd zz (execReduction r hv bad s hit) := by
  unfold execReduction
  try dsimp only
  repeat' first
    | with_reducible assumption | with_reducible apply State.runWrites_keeps
    | with_reducible apply State.runVector_keeps | intro

theorem execGather_keeps {bd : Bool} {zz : State} {r : OpRef} {hv : HostView} {s : State} {hit : Option BankHit}
    (h : State.Keeps bd zz s) : State.KeepsOut bd zz (execGather r hv s hit) := by
  unfold execGather
  try dsimp only
  repeat' first
    | with_reducible assumption | with_reducible apply State.runOp_keeps | with_reducible apply State.runWrites_keeps
    | intro

theorem execScatter_keeps {bd : Bool} {zz : State} {r : OpRef} {hv : HostView} {s : State} {bad : Option Nat}
    {hit : Option BankHit} (h : State.Keeps bd zz s) : State.KeepsOut bd zz (execScatter r hv s bad hit) := by
  unfold execScatter
  try dsimp only
  repeat' first
    | with_reducible assumption | with_reducible apply State.runWrites_keeps
    | with_reducible apply State.runVector_keeps | intro

theorem execCopy_keeps {bd : Bool} {zz : State} {r : OpRef} {hv : HostView} {s : State} {hit : Option BankHit}
    (h : State.Keeps bd zz s) : State.KeepsOut bd zz (execCopy r hv s hit) := by
  unfold execCopy
  try dsimp only
  repeat' first
    | with_reducible assumption | with_reducible apply State.KeepsOut.done | with_reducible apply State.merge_keeps
    | with_reducible apply State.withOp_keeps | with_reducible apply State.opFinish_keeps
    | with_reducible apply State.opFail_keeps | with_reducible apply State.runWrites_keeps | split | intro

/-! ### FletcherOps -/

theorem execRandomGeneration_keeps {bd : Bool} {zz : State} {r : OpRef} {hv : HostView} {s : State} {bad : Option Nat}
    {hit : Option BankHit} (h : State.Keeps bd zz s) : State.KeepsOut bd zz (execRandomGeneration r hv s bad hit) := by
  unfold execRandomGeneration
  try dsimp only
  repeat' first
    | with_reducible assumption | with_reducible apply State.runWrites_keeps
    | with_reducible apply State.runVector_keeps | intro

theorem execPointForwardKinematics_keeps {bd : Bool} {zz : State} {r : OpRef} {hv : HostView} {s : State}
    {hit : Option BankHit} (h : State.Keeps bd zz s) : State.KeepsOut bd zz (execPointForwardKinematics r hv s hit) := by
  unfold execPointForwardKinematics
  try dsimp only
  repeat' first
    | with_reducible assumption | with_reducible apply State.runOp_keeps | with_reducible apply State.runWrites_keeps
    | intro

theorem execIntervalForwardKinematics_keeps {bd : Bool} {zz : State} {r : OpRef} {hv : HostView} {s : State}
    {hit : Option BankHit} (h : State.Keeps bd zz s) : State.KeepsOut bd zz (execIntervalForwardKinematics r hv s hit) := by
  unfold execIntervalForwardKinematics
  try dsimp only
  repeat' first
    | with_reducible assumption | with_reducible apply State.runOp_keeps | with_reducible apply State.runWrites_keeps
    | intro

/-! ### GeometryOps -/

theorem execSphereTest_keeps {bd : Bool} {zz : State} {r : OpRef} {hv : HostView} {s : State} (h : State.Keeps bd zz s) :
    State.KeepsOut bd zz (execSphereTest r hv s) := by
  unfold execSphereTest
  try dsimp only
  repeat' first | with_reducible assumption | with_reducible apply State.runTests_keeps

theorem execCapsuleTest_keeps {bd : Bool} {zz : State} {r : OpRef} {hv : HostView} {s : State} (h : State.Keeps bd zz s) :
    State.KeepsOut bd zz (execCapsuleTest r hv s) := by
  unfold execCapsuleTest
  try dsimp only
  repeat' first | with_reducible assumption | with_reducible apply State.runTests_keeps

theorem execSweptSphereTest_keeps {bd : Bool} {zz : State} {r : OpRef} {hv : HostView} {s : State}
    (h : State.Keeps bd zz s) : State.KeepsOut bd zz (execSweptSphereTest r hv s) := by
  unfold execSweptSphereTest
  try dsimp only
  repeat' first | with_reducible assumption | with_reducible apply State.runTests_keeps

theorem execPointDistance_keeps {bd : Bool} {zz : State} {r : OpRef} {hv : HostView} {s : State} (h : State.Keeps bd zz s)
    : State.KeepsOut bd zz (execPointDistance r hv s) := by
  unfold execPointDistance
  try dsimp only
  repeat' first | with_reducible assumption | with_reducible apply State.runQueries_keeps

theorem execDistanceWithGradient_keeps {bd : Bool} {zz : State} {r : OpRef} {hv : HostView} {s : State}
    (h : State.Keeps bd zz s) : State.KeepsOut bd zz (execDistanceWithGradient r hv s) := by
  unfold execDistanceWithGradient
  try dsimp only
  repeat' first | with_reducible assumption | with_reducible apply State.runQueries_keeps

/-! ### SelectionOps -/

theorem execTopK_keeps {bd : Bool} {zz : State} {r : OpRef} {hv : HostView} {s : State} {hit : Option BankHit}
    (h : State.Keeps bd zz s) : State.KeepsOut bd zz (execTopK r hv s hit) := by
  unfold execTopK
  try dsimp only
  repeat' first
    | with_reducible assumption | with_reducible apply State.runOp_keeps | with_reducible apply State.runWrites_keeps
    | intro

theorem execMerge_keeps {bd : Bool} {zz : State} {r : OpRef} {hv : HostView} {s : State} {hit : Option BankHit}
    (h : State.Keeps bd zz s) : State.KeepsOut bd zz (execMerge r hv s hit) := by
  unfold execMerge
  try dsimp only
  repeat' first
    | with_reducible assumption | with_reducible apply State.KeepsOut.done | with_reducible apply State.KeepsOut.idle
    | with_reducible apply State.merge_keeps | with_reducible apply State.advise_keeps
    | with_reducible apply State.withOp_keeps | with_reducible apply State.opFinish_keeps
    | with_reducible apply State.opFail_keeps | with_reducible apply State.runWrites_keeps | split | intro

theorem execListArrival_keeps {bd : Bool} {zz : State} {r : OpRef} {i : Nat} {s : State} (h : State.Keeps bd zz s) :
    State.KeepsOut bd zz (execListArrival r i s) := by
  unfold execListArrival
  try dsimp only
  repeat' first
    | with_reducible assumption | with_reducible apply State.KeepsOut.next | with_reducible apply State.KeepsOut.idle
    | with_reducible apply State.modJob_keeps | with_reducible apply State.cross_keeps | split | intro

/-! ### SolverOps -/

theorem execFactor_keeps {bd : Bool} {zz : State} {r : OpRef} {hv : HostView} {bad : Option Nat} {s : State}
    {hit : Option BankHit} (h : State.Keeps bd zz s) : State.KeepsOut bd zz (execFactor r hv bad s hit) := by
  unfold execFactor
  try dsimp only
  repeat' first
    | with_reducible assumption | with_reducible apply State.runWrites_keeps
    | with_reducible apply State.runSolver_keeps | intro

theorem execSolve_keeps {bd : Bool} {zz : State} {r : OpRef} {hv : HostView} {bad : Option Nat} {s : State}
    {hit : Option BankHit} (h : State.Keeps bd zz s) : State.KeepsOut bd zz (execSolve r hv bad s hit) := by
  unfold execSolve
  try dsimp only
  repeat' first
    | with_reducible assumption | with_reducible apply State.runWrites_keeps
    | with_reducible apply State.runSolver_keeps | intro

theorem execRiccatiSweep_keeps {bd : Bool} {zz : State} {r : OpRef} {hv : HostView} {bad : Option Nat} {s : State}
    {hit : Option BankHit} (h : State.Keeps bd zz s) : State.KeepsOut bd zz (execRiccatiSweep r hv bad s hit) := by
  unfold execRiccatiSweep
  try dsimp only
  repeat' first
    | with_reducible assumption | with_reducible apply State.runWrites_keeps
    | with_reducible apply State.runSolver_keeps | intro

theorem execRefine_keeps {bd : Bool} {zz : State} {r : OpRef} {hv : HostView} {bad : Option Nat} {s : State}
    {hit : Option BankHit} (h : State.Keeps bd zz s) : State.KeepsOut bd zz (execRefine r hv bad s hit) := by
  unfold execRefine
  try dsimp only
  repeat' first
    | with_reducible assumption | with_reducible apply State.runWrites_keeps
    | with_reducible apply State.runSolver_keeps | with_reducible apply State.afterRefine_keeps | intro

theorem execWarmStoreWrite_keeps {bd : Bool} {zz : State} {d i : Nat} {s : State} (h : State.Keeps bd zz s) :
    State.KeepsOut bd zz (execWarmStoreWrite d i s) := by
  unfold execWarmStoreWrite
  try dsimp only
  repeat' first
    | with_reducible assumption | with_reducible apply State.KeepsOut.done | with_reducible apply State.KeepsOut.idle
    | with_reducible apply Die.clearHbm_keeps | with_reducible apply State.cross_keeps
    | with_reducible apply State.writeCompletions_keeps | with_reducible refine State.Keeps.modDie ?_ (fun _ => ?_)
    | split | with_reducible exact Die.Keeps.refl _ | with_reducible apply Die.Keeps.rest
    | with_reducible apply State.Keeps.rest | intro

/-! ### CheckOps -/

theorem execCheckValueWrap_keeps {bd : Bool} {zz : State} {r : OpRef} {hv : HostView} {s : State} {hit : Option BankHit}
    (h : State.Keeps bd zz s) : State.KeepsOut bd zz (execCheckValueWrap r hv s hit) := by
  unfold execCheckValueWrap
  try dsimp only
  repeat' first
    | with_reducible assumption | with_reducible apply State.opFinish_keeps
    | with_reducible apply State.runWrites_keeps | with_reducible apply State.putHalf_keeps
    | with_reducible apply State.runChannel_keeps | intro

theorem execCheckValueUnwrap_keeps {bd : Bool} {zz : State} {r : OpRef} {hv : HostView} {s : State} {hit : Option BankHit}
    (h : State.Keeps bd zz s) : State.KeepsOut bd zz (execCheckValueUnwrap r hv s hit) := by
  unfold execCheckValueUnwrap
  try dsimp only
  repeat' first
    | with_reducible assumption | with_reducible apply State.opFinish_keeps
    | with_reducible apply State.runWrites_keeps | with_reducible apply State.putHalf_keeps
    | with_reducible apply State.runChannel_keeps | split | intro

theorem execCheckValueScan_keeps {bd : Bool} {zz : State} {r : OpRef} {hv : HostView} {s : State} {hit : Option BankHit}
    (h : State.Keeps bd zz s) : State.KeepsOut bd zz (execCheckValueScan r hv s hit) := by
  unfold execCheckValueScan
  try dsimp only
  repeat' first
    | with_reducible assumption | with_reducible apply State.KeepsOut.done | with_reducible apply State.merge_keeps
    | with_reducible apply State.withOp_keeps | with_reducible apply State.opFinish_keeps
    | with_reducible apply State.opFail_keeps | with_reducible apply State.runWrites_keeps | split | intro

theorem execDigest_keeps {bd : Bool} {zz : State} {r : OpRef} {hv : HostView} {s : State} {hit : Option BankHit}
    (h : State.Keeps bd zz s) : State.KeepsOut bd zz (execDigest r hv s hit) := by
  unfold execDigest
  try dsimp only
  repeat' first
    | with_reducible assumption | with_reducible apply State.runOp_keeps | with_reducible apply State.runWrites_keeps
    | intro

/-! ### Stages -/

theorem execRun_keeps {bd : Bool} {zz : State} {q n : Nat} {s : State} (h : State.Keeps bd zz s) : State.KeepsOut bd zz
    (execRun q n s) := by
  unfold execRun
  try dsimp only
  repeat' first
    | with_reducible assumption | with_reducible apply State.KeepsOut.done | with_reducible apply State.KeepsOut.idle
    | with_reducible apply State.modJob_keeps | with_reducible apply State.proceed_keeps | split

theorem execStageTimeout_keeps {bd : Bool} {zz : State} {q n st : Nat} {s : State} (h : State.Keeps bd zz s) :
    State.KeepsOut bd zz (execStageTimeout q n st s) := by
  unfold execStageTimeout
  try dsimp only
  repeat' first
    | with_reducible assumption | with_reducible apply State.KeepsOut.done | with_reducible apply State.KeepsOut.idle
    | with_reducible apply State.complete_keeps | split

theorem execGtcBinding_keeps {bd : Bool} {zz : State} {q n : Nat} {s : State} (h : State.Keeps bd zz s) : State.KeepsOut
    bd zz (execGtcBinding q n s) := by
  unfold execGtcBinding
  try dsimp only
  repeat' first
    | with_reducible assumption | with_reducible apply State.KeepsOut.done | with_reducible apply State.KeepsOut.idle
    | with_reducible apply State.modJob_keeps | with_reducible apply State.proceed_keeps | split

theorem execSyncNotify_keeps {bd : Bool} {zz : State} {o d : Nat} {s : State} (h : State.Keeps bd zz s) : State.KeepsOut
    bd zz (execSyncNotify o d s) := by
  unfold execSyncNotify
  try dsimp only
  repeat' first
    | with_reducible assumption | with_reducible apply State.KeepsOut.done | with_reducible apply State.cross_keeps
    | with_reducible apply State.arrive_keeps | with_reducible apply State.proceedAll_keeps | split
    | with_reducible apply State.Keeps.rest | intro

theorem execStageLaunchMessage_keeps {bd : Bool} {zz : State} {d q n st : Nat} {s : State} (h : State.Keeps bd zz s) :
    State.KeepsOut bd zz (execStageLaunchMessage d q n st s) := by
  unfold execStageLaunchMessage
  try dsimp only
  repeat' first
    | with_reducible assumption | with_reducible apply State.KeepsOut.next | with_reducible apply State.KeepsOut.idle
    | with_reducible apply State.sendCtrl_keeps | with_reducible apply State.arrive_keeps
    | with_reducible apply State.modStage_keeps | split | intro

theorem execBugleArrive_keeps {bd : Bool} {zz : State} {d q n st : Nat} {s : State} (h : State.Keeps bd zz s) :
    State.KeepsOut bd zz (execBugleArrive d q n st s) := by
  unfold execBugleArrive
  try dsimp only
  repeat' first
    | with_reducible assumption | with_reducible apply State.KeepsOut.next | with_reducible apply State.KeepsOut.idle
    | with_reducible apply State.sendCtrl_keeps | with_reducible apply State.arrive_keeps
    | with_reducible apply State.modStage_keeps | with_reducible refine State.Keeps.foldl (fun _ _ _ => ?_) ?_ | split
    | intro

theorem execBugleGo_keeps {bd : Bool} {zz : State} {d q n st : Nat} {s : State} (h : State.Keeps bd zz s) : State.KeepsOut
    bd zz (execBugleGo d q n st s) := by
  unfold execBugleGo
  try dsimp only
  repeat' first
    | with_reducible assumption | with_reducible apply State.KeepsOut.next | with_reducible apply State.KeepsOut.idle
    | with_reducible apply State.logErr_keeps | with_reducible apply State.arrive_keeps
    | with_reducible apply State.modStage_keeps | split | intro

theorem execStageLaunch_keeps {bd : Bool} {zz : State} {d q n st : Nat} {s : State} (h : State.Keeps bd zz s) :
    State.KeepsOut bd zz (execStageLaunch d q n st s) := by
  unfold execStageLaunch
  try dsimp only
  repeat' first
    | with_reducible assumption | with_reducible apply State.KeepsOut.done | with_reducible apply State.KeepsOut.idle
    | with_reducible apply State.modJob_keeps | with_reducible apply State.traceEv_keeps
    | with_reducible apply State.issueAll_keeps | with_reducible apply State.modStage_keeps
    | with_reducible apply State.settleStage_keeps | split

theorem execDiverseRegionCopy_keeps {bd : Bool} {zz : State} {q n st : Nat} {back : Bool} {s : State}
    (h : State.Keeps bd zz s) : State.KeepsOut bd zz (execDiverseRegionCopy q n st back s) := by
  unfold execDiverseRegionCopy
  try dsimp only
  repeat' first
    | with_reducible assumption | with_reducible apply State.KeepsOut.next | with_reducible apply State.KeepsOut.done
    | with_reducible apply State.KeepsOut.idle | with_reducible apply State.modJob_keeps
    | with_reducible apply Die.storeRegion_keeps | with_reducible apply State.issueAll_keeps
    | with_reducible apply State.cross_keeps | with_reducible apply State.boundary_keeps
    | with_reducible refine State.Keeps.modDie ?_ (fun _ => ?_) | split | with_reducible exact Die.Keeps.refl _
    | intro

theorem execOperationComplete_keeps {bd : Bool} {zz : State} {r : OpRef} {hv : HostView} {s : State}
    (h : State.Keeps bd zz s) : State.KeepsOut bd zz (execOperationComplete r hv s) := by
  unfold execOperationComplete
  try dsimp only
  repeat' first
    | with_reducible assumption | with_reducible apply State.KeepsOut.done | with_reducible apply State.KeepsOut.idle
    | with_reducible apply State.merge_keeps | with_reducible apply State.issueAll_keeps
    | with_reducible apply State.settleCancel_keeps | with_reducible apply State.modCluster_keeps
    | with_reducible apply State.modStage_keeps | with_reducible apply State.settleStage_keeps
    | with_reducible apply Die.freeSlot_keeps | with_reducible refine State.Keeps.modDie ?_ (fun _ => ?_) | split
    | with_reducible exact Die.Keeps.refl _

theorem execLogicalClusterSwap_keeps {bd : Bool} {zz : State} {d c q n lc : Nat} {s : State} (h : State.Keeps bd zz s) :
    State.KeepsOut bd zz (execLogicalClusterSwap d c q n lc s) := by
  unfold execLogicalClusterSwap
  try dsimp only
  repeat' first
    | with_reducible assumption | with_reducible apply State.KeepsOut.next | with_reducible apply State.KeepsOut.done
    | with_reducible apply State.KeepsOut.idle | with_reducible apply State.modJob_keeps
    | with_reducible apply Die.storeRegion_keeps | with_reducible apply State.traceEv_keeps
    | with_reducible apply State.issueAll_keeps | with_reducible apply State.cross_keeps
    | with_reducible apply State.complete_keeps | with_reducible refine State.Keeps.modDie ?_ (fun _ => ?_) | split
    | with_reducible exact Die.Keeps.refl _ | intro

theorem execCheckpointWritten_keeps {bd : Bool} {zz : State} {q n : Nat} {s : State} (h : State.Keeps bd zz s) :
    State.KeepsOut bd zz (execCheckpointWritten q n s) := by
  unfold execCheckpointWritten
  try dsimp only
  repeat' first
    | with_reducible assumption | with_reducible apply State.KeepsOut.done | with_reducible apply State.KeepsOut.idle
    | with_reducible apply State.modJob_keeps | with_reducible apply State.setPhase_keeps
    | with_reducible apply Die.storeRegion_keeps | with_reducible apply State.traceEv_keeps
    | with_reducible apply State.cross_keeps | with_reducible apply State.ledgerWrite_keeps
    | with_reducible apply State.enterReady_keeps | with_reducible apply State.noteIdle_keeps
    | with_reducible apply State.settleClusters_keeps | with_reducible apply State.settleQueue_keeps
    | with_reducible refine State.Keeps.modDie ?_ (fun _ => ?_)
    | with_reducible refine State.Keeps.foldl (fun _ _ _ => ?_) ?_ | split | with_reducible exact Die.Keeps.refl _
    | with_reducible apply State.Keeps.rest | intro

/-! ### Selecting -/

theorem execNextDispatch_keeps {bd : Bool} {zz : State} {d p : Nat} {hv : HostView} {s : State} (h : State.Keeps bd zz s)
    : State.KeepsOut bd zz (execNextDispatch d p hv s) := by
  unfold execNextDispatch
  try dsimp only
  repeat' first
    | with_reducible assumption | with_reducible apply State.KeepsOut.done | with_reducible apply State.KeepsOut.idle
    | with_reducible apply State.modPart_keeps | with_reducible apply State.merge_keeps
    | with_reducible apply State.proceed_keeps | with_reducible apply State.attempt_keeps
    | with_reducible apply State.noteGap_keeps | with_reducible apply State.rounds_keeps
    | with_reducible refine State.Keeps.foldl (fun _ _ _ => ?_) ?_
    | with_reducible refine State.Keeps.ofPair (by assumption) ?_ | split

theorem execReservationRequest_keeps {bd : Bool} {zz : State} {d q n : Nat} {s : State} (h : State.Keeps bd zz s) :
    State.KeepsOut bd zz (execReservationRequest d q n s) := by
  unfold execReservationRequest
  try dsimp only
  repeat' first
    | with_reducible assumption | with_reducible apply State.KeepsOut.next | with_reducible apply State.KeepsOut.idle
    | with_reducible apply State.unreserve_keeps | with_reducible refine State.Keeps.modDie ?_ (fun _ => ?_) | split
    | with_reducible exact Die.Keeps.refl _ | with_reducible apply Die.Keeps.rest

/-! ### PlanJobs -/

theorem execLoadPlan_keeps {bd : Bool} {zz : State} {q n : Nat} {s : State} (h : State.Keeps bd zz s) : State.KeepsOut bd
    zz (execLoadPlan q n s) := by
  unfold execLoadPlan
  try dsimp only
  repeat' first
    | with_reducible assumption | with_reducible apply State.KeepsOut.next | with_reducible apply State.KeepsOut.done
    | with_reducible apply State.KeepsOut.idle | with_reducible apply State.setPhase_keeps
    | with_reducible apply State.complete_keeps | with_reducible apply State.modSlot_keeps
    | with_reducible apply State.sealOther_keeps | with_reducible apply State.writeReport_keeps | split

theorem execPlanImageFetched_keeps {bd : Bool} {zz : State} {i : Nat} {hv : HostView} {s : State}
    (h : State.Keeps bd zz s) : State.KeepsOut bd zz (execPlanImageFetched i hv s) := by
  unfold execPlanImageFetched
  try dsimp only
  repeat' first
    | with_reducible assumption | with_reducible apply State.KeepsOut.next | with_reducible apply State.KeepsOut.done
    | with_reducible apply State.KeepsOut.idle | with_reducible apply State.merge_keeps
    | with_reducible apply State.cross_keeps | with_reducible apply State.modSlot_keeps
    | with_reducible apply State.sealOther_keeps | with_reducible apply State.refuseLoad_keeps
    | with_reducible apply State.unreadableLoad_keeps | with_reducible apply State.checkStructure_keeps | split
    | intro

theorem execSignatureVerified_keeps {bd : Bool} {zz : State} {i : Nat} {s : State} (h : State.Keeps bd zz s) :
    State.KeepsOut bd zz (execSignatureVerified i s) := by
  unfold execSignatureVerified
  try dsimp only
  repeat' first
    | with_reducible assumption | with_reducible apply State.KeepsOut.done | with_reducible apply State.KeepsOut.idle
    | with_reducible apply State.cross_keeps | with_reducible apply State.refuseLoad_keeps
    | with_reducible apply State.checkStructure_keeps | split | intro

theorem execWeightBlobFetched_keeps {bd : Bool} {zz : State} {i : Nat} {hv : HostView} {s : State}
    (h : State.Keeps bd zz s) : State.KeepsOut bd zz (execWeightBlobFetched i hv s) := by
  unfold execWeightBlobFetched
  try dsimp only
  repeat' first
    | with_reducible assumption | with_reducible apply State.KeepsOut.next | with_reducible apply State.KeepsOut.done
    | with_reducible apply State.KeepsOut.idle | with_reducible apply State.merge_keeps
    | with_reducible apply State.cross_keeps | with_reducible apply State.modSlot_keeps
    | with_reducible apply State.refuseLoad_keeps | with_reducible apply State.unreadableLoad_keeps
    | with_reducible apply State.reservePlan_keeps | split | intro

theorem execPlanReplicated_keeps {bd : Bool} {zz : State} {i : Nat} {s : State} (h : State.Keeps bd zz s) : State.KeepsOut
    bd zz (execPlanReplicated i s) := by
  unfold execPlanReplicated
  try dsimp only
  repeat' first
    | with_reducible assumption | with_reducible apply State.KeepsOut.done | with_reducible apply State.KeepsOut.idle
    | with_reducible apply State.cross_keeps | with_reducible apply State.complete_keeps
    | with_reducible apply State.modSlot_keeps | with_reducible apply State.writeReport_keeps
    | with_reducible apply State.afterLoad_keeps | with_reducible apply Die.storePlan_keeps
    | with_reducible refine State.Keeps.modDie ?_ (fun _ => ?_)
    | with_reducible refine State.Keeps.foldl (fun _ _ _ => ?_) ?_ | split | with_reducible exact Die.Keeps.refl _
    | intro

theorem execDropPlan_keeps {bd : Bool} {zz : State} {q n : Nat} {s : State} (h : State.Keeps bd zz s) : State.KeepsOut bd
    zz (execDropPlan q n s) := by
  unfold execDropPlan
  try dsimp only
  repeat' first
    | with_reducible assumption | with_reducible apply State.KeepsOut.next | with_reducible apply State.KeepsOut.done
    | with_reducible apply State.KeepsOut.idle | with_reducible apply State.setPhase_keeps
    | with_reducible apply State.complete_keeps | with_reducible apply State.modSlot_keeps | split

theorem execDropPlanUnpinned_keeps {bd : Bool} {zz : State} {i : Nat} {s : State} (h : State.Keeps bd zz s) :
    State.KeepsOut bd zz (execDropPlanUnpinned i s) := by
  unfold execDropPlanUnpinned
  try dsimp only
  repeat' first
    | with_reducible assumption | with_reducible apply State.KeepsOut.done | with_reducible apply State.KeepsOut.idle
    | with_reducible apply State.freeSlot_keeps | with_reducible apply State.afterLoad_keeps | split

/-! ### WorldJobs -/

theorem execLatticeLoad_keeps {bd : Bool} {zz : State} {q n : Nat} {hv : HostView} {s : State} (h : State.Keeps bd zz s) :
    State.KeepsOut bd zz (execLatticeLoad q n hv s) := by
  unfold execLatticeLoad
  try dsimp only
  repeat' first
    | with_reducible assumption | with_reducible apply State.KeepsOut.done | with_reducible apply State.KeepsOut.idle
    | with_reducible apply State.merge_keeps | with_reducible apply State.endWorld_keeps
    | with_reducible apply State.discardUpdate_keeps | with_reducible apply State.loadBase_keeps
    | with_reducible apply State.reload_keeps | split

theorem execWorldUpdate_keeps {bd : Bool} {zz : State} {q n : Nat} {hv : HostView} {s : State} (h : State.Keeps bd zz s) :
    State.KeepsOut bd zz (execWorldUpdate q n hv s) := by
  unfold execWorldUpdate
  try dsimp only
  repeat' first
    | with_reducible assumption | with_reducible apply State.KeepsOut.done | with_reducible apply State.KeepsOut.idle
    | with_reducible apply State.merge_keeps | with_reducible apply State.beginUpdate_keeps
    | with_reducible apply State.sealWorld_keeps | with_reducible apply State.endWorld_keeps | split

theorem execWorldVersionRoom_keeps {bd : Bool} {zz : State} {w : Nat} {s : State} (h : State.Keeps bd zz s) :
    State.KeepsOut bd zz (execWorldVersionRoom w s) := by
  unfold execWorldVersionRoom
  try dsimp only
  repeat' first
    | with_reducible assumption | with_reducible apply State.KeepsOut.next | with_reducible apply State.KeepsOut.idle
    | with_reducible apply State.sendUpdate_keeps | split

theorem execWorldDataReceived_keeps {bd : Bool} {zz : State} {d w : Nat} {s : State} (h : State.Keeps bd zz s) :
    State.KeepsOut bd zz (execWorldDataReceived d w s) := by
  unfold execWorldDataReceived
  try dsimp only
  repeat' first
    | with_reducible assumption | with_reducible apply State.KeepsOut.next | with_reducible apply State.KeepsOut.idle
    | with_reducible apply State.cross_keeps | with_reducible apply State.startPrepare_keeps | split | intro

theorem execWorldRecordApply_keeps {bd : Bool} {zz : State} {d w : Nat} {s : State} {hit : Option Nat}
    (h : State.Keeps bd zz s) : State.KeepsOut bd zz (execWorldRecordApply d w s hit) := by
  unfold execWorldRecordApply
  try dsimp only
  repeat' first
    | with_reducible assumption | with_reducible apply State.KeepsOut.next | with_reducible apply State.KeepsOut.idle
    | with_reducible apply State.logErr_keeps | with_reducible apply State.lockPc_keeps
    | with_reducible apply State.unlockWorld_keeps | with_reducible apply State.clearUnder_keeps
    | with_reducible apply Die.putWorld_keeps | with_reducible apply State.lockNext_keeps
    | with_reducible apply State.setApplied_keeps | with_reducible apply State.prepareSpoilt_keeps
    | with_reducible refine State.Keeps.modDie ?_ (fun _ => ?_) | split | with_reducible exact Die.Keeps.refl _

theorem execPrepared_keeps {bd : Bool} {zz : State} {d w : Nat} {s : State} (h : State.Keeps bd zz s) : State.KeepsOut bd
    zz (execPrepared d w s) := by
  unfold execPrepared
  try dsimp only
  repeat' first
    | with_reducible assumption | with_reducible apply State.KeepsOut.next | with_reducible apply State.KeepsOut.idle
    | with_reducible apply State.modWorld_keeps | with_reducible apply State.setApplied_keeps
    | with_reducible refine State.Keeps.modDie ?_ (fun _ => ?_) | split | with_reducible exact Die.Keeps.refl _
    | with_reducible apply Die.Keeps.rest

theorem execPrepareLost_keeps {bd : Bool} {zz : State} {d w : Nat} {s : State} (h : State.Keeps bd zz s) : State.KeepsOut
    bd zz (execPrepareLost d w s) := by
  unfold execPrepareLost
  try dsimp only
  repeat' first
    | with_reducible assumption | with_reducible apply State.KeepsOut.next | with_reducible apply State.KeepsOut.idle
    | with_reducible apply State.modWorld_keeps | with_reducible apply State.setApplied_keeps | split

theorem execLockMaxHold_keeps {bd : Bool} {zz : State} {d n : Nat} {s : State} (h : State.Keeps bd zz s) : State.KeepsOut
    bd zz (execLockMaxHold d n s) := by
  unfold execLockMaxHold
  try dsimp only
  repeat' first
    | with_reducible assumption | with_reducible apply State.KeepsOut.next | with_reducible apply State.KeepsOut.done
    | with_reducible apply State.KeepsOut.idle | with_reducible apply State.issueAll_keeps
    | with_reducible apply State.redispatchAll_keeps | with_reducible apply State.orphanLock_keeps
    | with_reducible apply State.replayHeld_keeps | split

theorem execAbandon_keeps {bd : Bool} {zz : State} {w : Nat} {s : State} (h : State.Keeps bd zz s) : State.KeepsOut bd zz
    (execAbandon w s) := by
  unfold execAbandon
  try dsimp only
  repeat' first
    | with_reducible assumption | with_reducible apply State.KeepsOut.done | with_reducible apply State.KeepsOut.idle
    | with_reducible apply State.cross_keeps | with_reducible apply State.complete_keeps
    | with_reducible apply State.redispatch_keeps | with_reducible apply State.discardUpdate_keeps
    | with_reducible apply State.unload_keeps | split | intro

theorem execCommit_keeps {bd : Bool} {zz : State} {d w : Nat} {s : State} (h : State.Keeps bd zz s) : State.KeepsOut bd zz
    (execCommit d w s) := by
  unfold execCommit
  try dsimp only
  repeat' first
    | with_reducible assumption | with_reducible apply State.KeepsOut.next | with_reducible apply State.KeepsOut.idle
    | with_reducible apply State.cross_keeps | with_reducible apply State.setApplied_keeps | split | intro

theorem execCommitAck_keeps {bd : Bool} {zz : State} {d w : Nat} {s : State} (h : State.Keeps bd zz s) : State.KeepsOut bd
    zz (execCommitAck d w s) := by
  unfold execCommitAck
  try dsimp only
  repeat' first
    | with_reducible assumption | with_reducible apply State.KeepsOut.next | with_reducible apply State.KeepsOut.idle
    | with_reducible apply State.setApplied_keeps | split

theorem execVisible_keeps {bd : Bool} {zz : State} {d w : Nat} {s : State} (h : State.Keeps bd zz s) : State.KeepsOut bd
    zz (execVisible d w s) := by
  unfold execVisible
  try dsimp only
  repeat' first
    | with_reducible assumption | with_reducible apply State.KeepsOut.done | with_reducible apply State.KeepsOut.idle
    | with_reducible apply State.cross_keeps | with_reducible apply State.setApplied_keeps
    | with_reducible apply State.showVersion_keeps | with_reducible apply State.finishUpdate_keeps | split | intro

theorem execRelease_keeps {bd : Bool} {zz : State} {q n : Nat} {s : State} (h : State.Keeps bd zz s) : State.KeepsOut bd
    zz (execRelease q n s) := by
  unfold execRelease
  try dsimp only
  repeat' first
    | with_reducible assumption | with_reducible apply State.KeepsOut.next | with_reducible apply State.KeepsOut.done
    | with_reducible apply State.KeepsOut.idle | with_reducible apply State.setPhase_keeps
    | with_reducible apply State.modWorld_keeps | with_reducible apply State.sealWorld_keeps
    | with_reducible apply State.endWorld_keeps | split

theorem execReleaseUnpinned_keeps {bd : Bool} {zz : State} {w : Nat} {s : State} (h : State.Keeps bd zz s) :
    State.KeepsOut bd zz (execReleaseUnpinned w s) := by
  unfold execReleaseUnpinned
  try dsimp only
  repeat' first
    | with_reducible assumption | with_reducible apply State.KeepsOut.done | with_reducible apply State.KeepsOut.idle
    | with_reducible apply State.emptyWorld_keeps | with_reducible apply State.complete_keeps | split

theorem execBodyLoad_keeps {bd : Bool} {zz : State} {q n : Nat} {hv : HostView} {s : State} (h : State.Keeps bd zz s) :
    State.KeepsOut bd zz (execBodyLoad q n hv s) := by
  unfold execBodyLoad
  try dsimp only
  repeat' first
    | with_reducible assumption | with_reducible apply State.KeepsOut.next | with_reducible apply State.KeepsOut.done
    | with_reducible apply State.KeepsOut.idle | with_reducible apply State.setPhase_keeps
    | with_reducible apply State.merge_keeps | with_reducible apply State.sealWorld_keeps
    | with_reducible apply State.endWorld_keeps | with_reducible apply State.modBody_keeps | split

theorem execBodyReplicated_keeps {bd : Bool} {zz : State} {b : Nat} {s : State} (h : State.Keeps bd zz s) : State.KeepsOut
    bd zz (execBodyReplicated b s) := by
  unfold execBodyReplicated
  try dsimp only
  repeat' first
    | with_reducible assumption | with_reducible apply State.KeepsOut.done | with_reducible apply State.KeepsOut.idle
    | with_reducible apply State.cross_keeps | with_reducible apply State.complete_keeps
    | with_reducible apply State.modBody_keeps | split | intro

/-! ### MemoryOps -/

theorem execHbmReadOutcome_keeps {bd : Bool} {zz : State} {d pc line : Nat} {errs : List (Nat × Nat)} {sev : Nat}
    {job : Option (Nat × Nat)} {s : State} (h : State.Keeps bd zz s) : State.KeepsOut bd zz
    (execHbmReadOutcome d pc line errs sev job s) := by
  unfold execHbmReadOutcome
  try dsimp only
  repeat' first
    | with_reducible assumption | with_reducible apply State.KeepsOut.done | with_reducible apply State.KeepsOut.idle
    | with_reducible apply State.issueAll_keeps | with_reducible apply State.cross_keeps
    | with_reducible apply State.readLineOf_keeps | split | intro

theorem execHbmRepaired_keeps {bd : Bool} {zz : State} {d pc line : Nat} {s : State} (h : State.Keeps bd zz s) :
    State.KeepsOut bd zz (execHbmRepaired d pc line s) := by
  unfold execHbmRepaired
  try dsimp only
  repeat' first
    | with_reducible assumption | with_reducible apply State.KeepsOut.done | with_reducible apply State.KeepsOut.idle
    | with_reducible apply State.issueAll_keeps | with_reducible apply State.repairLine_keeps | split

theorem execBar2Read_keeps {bd : Bool} {zz : State} {p off n : Nat} {s : State} (h : State.Keeps bd zz s) : State.KeepsOut
    bd zz (execBar2Read p off n s) := by
  unfold execBar2Read
  try dsimp only
  repeat' first
    | with_reducible assumption | with_reducible apply State.KeepsOut.next | with_reducible apply State.KeepsOut.idle
    | with_reducible apply State.logErr_keeps | with_reducible apply State.cross_keeps
    | with_reducible apply State.meetLines_keeps | with_reducible apply State.Keeps.modRegs | split | intro

theorem execBar2Write_keeps {bd : Bool} {zz : State} {p off : Nat} {bytes : List Byte} {s : State}
    (h : State.Keeps bd zz s) : State.KeepsOut bd zz (execBar2Write p off bytes s) := by
  unfold execBar2Write
  try dsimp only
  repeat' first
    | with_reducible assumption | with_reducible apply State.KeepsOut.next | with_reducible apply State.KeepsOut.idle
    | with_reducible apply State.raised_keeps | with_reducible apply State.cross_keeps
    | with_reducible apply State.mergeHbm_keeps | with_reducible apply State.Keeps.modRegs | split | intro

theorem execBankIdle_keeps {bd : Bool} {zz : State} {d c : Nat} {s : State} (h : State.Keeps bd zz s) : State.KeepsOut bd
    zz (execBankIdle d c s) := by
  unfold execBankIdle
  try dsimp only
  repeat' first
    | with_reducible assumption | with_reducible apply State.KeepsOut.next | with_reducible apply State.KeepsOut.idle
    | with_reducible apply Die.bankOff_keeps | with_reducible refine State.Keeps.modDie ?_ (fun _ => ?_) | split
    | with_reducible exact Die.Keeps.refl _ | with_reducible apply Die.Keeps.rest

theorem execBankExit_keeps {bd : Bool} {zz : State} {d c b : Nat} {s : State} (h : State.Keeps bd zz s) : State.KeepsOut
    bd zz (execBankExit d c b s) := by
  unfold execBankExit
  try dsimp only
  repeat' first
    | with_reducible assumption | with_reducible apply State.KeepsOut.next | with_reducible apply State.KeepsOut.idle
    | with_reducible apply State.modCluster_keeps | split

theorem execDmaAge_keeps {bd : Bool} {zz : State} {d c : Nat} {s : State} (h : State.Keeps bd zz s) : State.KeepsOut bd zz
    (execDmaAge d c s) := by
  unfold execDmaAge
  try dsimp only
  repeat' first
    | with_reducible assumption | with_reducible apply State.KeepsOut.next | with_reducible apply State.KeepsOut.idle
    | with_reducible apply State.modCluster_keeps | split

/-! ### Errors -/

theorem execErrorRecord_keeps {bd : Bool} {zz : State} {d : Nat} {s : State} (h : State.Keeps bd zz s) : State.KeepsOut bd
    zz (execErrorRecord d s) := by
  unfold execErrorRecord
  try dsimp only
  repeat' first
    | with_reducible assumption | with_reducible apply State.KeepsOut.done | with_reducible apply State.KeepsOut.idle
    | with_reducible apply State.cross_keeps | with_reducible apply State.drainLog_keeps
    | with_reducible apply State.holdError_keeps | with_reducible refine State.Keeps.modDie ?_ (fun _ => ?_) | split
    | with_reducible exact Die.Keeps.refl _ | with_reducible apply Die.Keeps.rest | intro

theorem execErrConsumedAdvance_keeps {bd : Bool} {zz : State} {p v : Nat} {s : State} (h : State.Keeps bd zz s) :
    State.KeepsOut bd zz (execErrConsumedAdvance p v s) := by
  unfold execErrConsumedAdvance
  try dsimp only
  repeat' first
    | with_reducible assumption | with_reducible apply State.KeepsOut.done | with_reducible apply State.KeepsOut.idle
    | with_reducible apply State.drainLog_keeps | with_reducible apply State.noteWrite_keeps | split
    | with_reducible apply State.Keeps.rest

theorem execErrorRingEnable_keeps {bd : Bool} {zz : State} {p v : Nat} {s : State} (h : State.Keeps bd zz s) :
    State.KeepsOut bd zz (execErrorRingEnable p v s) := by
  unfold execErrorRingEnable
  try dsimp only
  repeat' first
    | with_reducible assumption | with_reducible apply State.KeepsOut.done | with_reducible apply State.KeepsOut.idle
    | with_reducible apply State.setRingBase_keeps | split

/-! ### Links -/

theorem execLinkDown_keeps {bd : Bool} {zz : State} {k : Nat} {s : State} (h : State.Keeps bd zz s) : State.KeepsOut bd zz
    (execLinkDown k s) := by
  unfold execLinkDown
  try dsimp only
  repeat' first
    | with_reducible assumption | with_reducible apply State.KeepsOut.next | with_reducible apply State.KeepsOut.idle
    | with_reducible apply State.Keeps.modPort | split

theorem execLinkRetrained_keeps {bd : Bool} {zz : State} {k : Nat} {s : State} {rate : Nat} {x32 cache : Bool}
    (h : State.Keeps bd zz s) : State.KeepsOut bd zz (execLinkRetrained k s rate x32 cache) := by
  unfold execLinkRetrained
  try dsimp only
  repeat' first
    | with_reducible assumption | with_reducible apply State.KeepsOut.next | with_reducible apply State.KeepsOut.idle
    | with_reducible apply State.logErr_keeps | with_reducible apply State.trainPort_keeps
    | with_reducible apply State.Keeps.modPort | split

theorem execRetrainLimitExpiry_keeps {bd : Bool} {zz : State} {k : Nat} {hv : HostView} {s : State}
    (h : State.Keeps bd zz s) : State.KeepsOut bd zz (execRetrainLimitExpiry k hv s) := by
  unfold execRetrainLimitExpiry
  try dsimp only
  repeat' first
    | with_reducible assumption | with_reducible apply State.KeepsOut.done | with_reducible apply State.KeepsOut.idle
    | with_reducible apply State.merge_keeps | with_reducible apply State.failPort_keeps | split

theorem execCompletionTimeout_keeps {bd : Bool} {zz : State} {k : Nat} {hv : HostView} {s : State}
    (h : State.Keeps bd zz s) : State.KeepsOut bd zz (execCompletionTimeout k hv s) := by
  unfold execCompletionTimeout
  try dsimp only
  repeat' first
    | with_reducible assumption | with_reducible apply State.KeepsOut.done | with_reducible apply State.KeepsOut.idle
    | with_reducible apply State.merge_keeps | with_reducible apply State.failPort_keeps | split

theorem execLinkError_keeps {bd : Bool} {zz : State} {k : Nat} {hv : HostView} {s : State} (h : State.Keeps bd zz s) :
    State.KeepsOut bd zz (execLinkError k hv s) := by
  unfold execLinkError
  try dsimp only
  repeat' first
    | with_reducible assumption | with_reducible apply State.KeepsOut.done | with_reducible apply State.KeepsOut.idle
    | with_reducible apply State.merge_keeps | with_reducible apply State.failPort_keeps | split

theorem execPortEnable_keeps {bd : Bool} {zz : State} {p k : Nat} {s : State} (h : State.Keeps bd zz s) : State.KeepsOut
    bd zz (execPortEnable p k s) := by
  unfold execPortEnable
  split
  · refine State.KeepsOut.done (State.egressOpens_keeps (State.settle_keeps (State.Keeps.modPort ?_)))
    refine State.Keeps.updPorts (t := { s.modPort k (fun x => { x with st := .inService, downSince := none }) with dies := _ }) ?_ rfl rfl (by simp) rfl rfl rfl
      (fun _ => ⟨rfl, .inl rfl, rfl, rfl, rfl, rfl⟩)
    refine (State.Keeps.modPort h).trans ⟨rfl, Die.KeepsAll.zipMap (fun x n => ?_) _ 0, fun w => w, fun w => w, fun w => w, rfl,
      fun _ => ⟨rfl, .inl rfl, rfl, rfl, rfl, rfl⟩⟩
    exact Die.Keeps.rest (Die.Keeps.refl x)
  · exact State.KeepsOut.idle h

theorem execUmlinLinkLost_keeps {bd : Bool} {zz : State} {d k : Nat} {s : State} (h : State.Keeps bd zz s) :
    State.KeepsOut bd zz (execUmlinLinkLost d k s) := by
  unfold execUmlinLinkLost
  try dsimp only
  repeat' first
    | with_reducible assumption | with_reducible apply State.KeepsOut.done | with_reducible apply State.KeepsOut.idle
    | with_reducible apply State.loseLink_keeps | split

theorem execLaneRepair_keeps {bd : Bool} {zz : State} {port : Bool} {d : Nat} {k lanes : Nat} {s : State}
    (h : State.Keeps bd zz s) : State.KeepsOut bd zz (execLaneRepair port d k lanes s) := by
  unfold execLaneRepair
  try dsimp only
  repeat' first
    | with_reducible assumption | with_reducible apply State.KeepsOut.next | with_reducible apply State.KeepsOut.done
    | with_reducible apply State.KeepsOut.idle | with_reducible apply State.logErr_keeps
    | with_reducible apply State.failPort_keeps | with_reducible apply State.loseLink_keeps
    | with_reducible refine State.Keeps.modDie ?_ (fun _ => ?_) | with_reducible apply State.Keeps.modPort | split
    | with_reducible exact Die.Keeps.refl _ | with_reducible apply Die.Keeps.rest

theorem execMsixHoldoff_keeps {bd : Bool} {zz : State} {k v : Nat} {s : State} (h : State.Keeps bd zz s) : State.KeepsOut
    bd zz (execMsixHoldoff k v s) := by
  unfold execMsixHoldoff
  try dsimp only
  repeat' first
    | with_reducible assumption | with_reducible apply State.KeepsOut.done | with_reducible apply State.KeepsOut.idle
    | with_reducible apply State.sendVector_keeps | with_reducible apply State.Keeps.modPort | split

theorem execHostReadError_keeps {bd : Bool} {zz : State} {d what q n : Nat} {s : State} (h : State.Keeps bd zz s) :
    State.KeepsOut bd zz (execHostReadError d what q n s) := by
  unfold execHostReadError
  try dsimp only
  repeat' first
    | with_reducible assumption | with_reducible apply State.KeepsOut.next | with_reducible apply State.KeepsOut.done
    | with_reducible apply State.KeepsOut.idle | with_reducible apply State.logErr_keeps
    | with_reducible apply State.complete_keeps | with_reducible apply execDescriptorArrival_keeps
    | with_reducible apply State.unreadableLoad_keeps | with_reducible apply State.endWorld_keeps
    | with_reducible refine State.Keeps.modDie ?_ (fun _ => ?_) | split | with_reducible exact Die.Keeps.refl _
    | with_reducible apply Die.Keeps.rest

theorem execHeartbeatSend_keeps {bd : Bool} {zz : State} {d : Nat} {s : State} (h : State.Keeps bd zz s) : State.KeepsOut
    bd zz (execHeartbeatSend d s) := by
  unfold execHeartbeatSend
  try dsimp only
  repeat' first
    | with_reducible assumption | with_reducible apply State.KeepsOut.next | with_reducible apply State.KeepsOut.idle
    | with_reducible apply State.sendCtrl_keeps | with_reducible refine State.Keeps.foldl (fun _ _ _ => ?_) ?_ | split

theorem execHeartbeat_keeps {bd : Bool} {zz : State} {a d : Nat} {s : State} (h : State.Keeps bd zz s) : State.KeepsOut bd
    zz (execHeartbeat a d s) := by
  unfold execHeartbeat
  try dsimp only
  repeat' first
    | with_reducible assumption | with_reducible apply State.KeepsOut.next | with_reducible apply State.KeepsOut.idle
    | with_reducible apply State.arrive_keeps | with_reducible apply State.modPeer_keeps | split | intro

theorem execHeartbeatAbsence_keeps {bd : Bool} {zz : State} {d a : Nat} {s : State} (h : State.Keeps bd zz s) :
    State.KeepsOut bd zz (execHeartbeatAbsence d a s) := by
  unfold execHeartbeatAbsence
  try dsimp only
  repeat' first
    | with_reducible assumption | with_reducible apply State.KeepsOut.next | with_reducible apply State.KeepsOut.done
    | with_reducible apply State.KeepsOut.idle | with_reducible apply State.issueAll_keeps
    | with_reducible apply State.loseDie_keeps | with_reducible apply State.modPeer_keeps | split

theorem execLivenessStall_keeps {bd : Bool} {zz : State} {d a : Nat} {s : State} (h : State.Keeps bd zz s) :
    State.KeepsOut bd zz (execLivenessStall d a s) := by
  unfold execLivenessStall
  try dsimp only
  repeat' first
    | with_reducible assumption | with_reducible apply State.KeepsOut.done | with_reducible apply State.KeepsOut.idle
    | with_reducible apply State.issueAll_keeps | with_reducible apply State.dropDie_keeps | split

/-! ### Inject -/

theorem execInjectArm_keeps {bd : Bool} {zz : State} {p d i v : Nat} {s : State} (h : State.Keeps bd zz s) :
    State.KeepsOut bd zz (execInjectArm p d i v s) := by
  unfold execInjectArm
  try dsimp only
  repeat' first
    | with_reducible assumption | with_reducible apply State.KeepsOut.done | with_reducible apply State.raised_keeps
    | with_reducible apply State.issueAll_keeps | with_reducible apply State.inWindow_keeps
    | with_reducible apply State.disarm_keeps | with_reducible apply State.fire_keeps
    | with_reducible refine State.Keeps.modDie ?_ (fun _ => ?_) | split | with_reducible exact Die.Keeps.refl _
    | with_reducible apply Die.Keeps.rest | intro

theorem execAtGtcInjection_keeps {bd : Bool} {zz : State} {d i : Nat} {s : State} (h : State.Keeps bd zz s) :
    State.KeepsOut bd zz (execAtGtcInjection d i s) := by
  unfold execAtGtcInjection
  try dsimp only
  repeat' first
    | with_reducible assumption | with_reducible apply State.KeepsOut.done | with_reducible apply State.KeepsOut.idle
    | with_reducible apply State.issueAll_keeps | with_reducible apply State.fire_keeps | split

/-! ### Recovery -/

theorem execLdgCtlStart_keeps {bd : Bool} {zz : State} {p : Nat} {hv : HostView} {s : State} (h : State.Keeps bd zz s) :
    State.KeepsOut bd zz (execLdgCtlStart p hv s) := by
  unfold execLdgCtlStart
  try dsimp only
  repeat' first
    | with_reducible assumption | with_reducible apply State.KeepsOut.done | with_reducible apply State.KeepsOut.idle
    | with_reducible apply State.merge_keeps | with_reducible apply State.issueAll_keeps
    | with_reducible apply State.nextFence_keeps | with_reducible apply State.settleLedger_keeps
    | with_reducible apply State.reconcileOr_keeps | with_reducible apply State.Keeps.modRegs
    | with_reducible refine State.Keeps.foldl (fun _ _ _ => ?_) ?_ | split | with_reducible apply State.Keeps.rest

/-! ### Returns -/

theorem execOrderingReadComplete_keeps {bd : Bool} {zz : State} {d : Nat} {hv : HostView} {s : State}
    (h : State.Keeps bd zz s) : State.KeepsOut bd zz (execOrderingReadComplete d hv s) := by
  unfold execOrderingReadComplete
  try dsimp only
  repeat' first
    | with_reducible assumption | with_reducible apply State.KeepsOut.done | with_reducible apply State.KeepsOut.idle
    | with_reducible apply State.merge_keeps | with_reducible apply State.cross_keeps
    | with_reducible apply State.orderingRead_keeps | with_reducible apply State.settleDurable_keeps | split | intro

theorem execFenceWaitEnd_keeps {bd : Bool} {zz : State} {hv : HostView} {s : State} (h : State.Keeps bd zz s) :
    State.KeepsOut bd zz (execFenceWaitEnd hv s) := by
  unfold execFenceWaitEnd
  try dsimp only
  repeat' first
    | with_reducible assumption | with_reducible apply State.KeepsOut.done | with_reducible apply State.KeepsOut.idle
    | with_reducible apply State.merge_keeps | with_reducible apply State.cross_keeps
    | with_reducible apply State.endFence_keeps | split | intro

theorem execLedgerIoRetry_keeps {bd : Bool} {zz : State} {d : Nat} {ok : Bool} {s : State} (h : State.Keeps bd zz s) :
    State.KeepsOut bd zz (execLedgerIoRetry d ok s) := by
  unfold execLedgerIoRetry
  try dsimp only
  repeat' first
    | with_reducible assumption | with_reducible apply State.KeepsOut.next | with_reducible apply State.KeepsOut.done
    | with_reducible apply State.KeepsOut.idle | with_reducible apply State.logErr_keeps
    | with_reducible apply State.packageFatal_keeps | with_reducible apply State.settle_keeps
    | with_reducible apply State.setRetries_keeps | with_reducible apply State.readAtLast_keeps | split

theorem execTinkerSliceEnd_keeps {bd : Bool} {zz : State} {d unit : Nat} {ok : Bool} {diff : Nat} {s : State}
    (h : State.Keeps bd zz s) : State.KeepsOut bd zz (execTinkerSliceEnd d unit ok diff s) := by
  unfold execTinkerSliceEnd
  try dsimp only
  repeat' first
    | with_reducible assumption | with_reducible apply State.KeepsOut.done | with_reducible apply State.KeepsOut.idle
    | with_reducible apply State.issueAll_keeps | with_reducible apply State.settleClusters_keeps
    | with_reducible apply State.modUnit_keeps | with_reducible apply State.sliceFails_keeps
    | with_reducible apply State.zeroBank_keeps | with_reducible apply State.settlePass_keeps
    | with_reducible apply State.settleReturns_keeps | split

/-! ### Power -/

theorem execDiePowerD0_keeps {bd : Bool} {zz : State} {p d mode mask : Nat} {s : State} (h : State.Keeps bd zz s) :
    State.KeepsOut bd zz (execDiePowerD0 p d mode mask s) := by
  unfold execDiePowerD0
  try dsimp only
  repeat' first
    | with_reducible assumption | with_reducible apply State.KeepsOut.done | with_reducible apply State.issueAll_keeps
    | with_reducible apply State.settleClusters_keeps | with_reducible apply State.startReturn_keeps
    | with_reducible apply State.powerUp_keeps | with_reducible apply State.powerGo_keeps
    | with_reducible apply State.beginChange_keeps | with_reducible apply State.setClusters_keeps | split | intro

theorem execDiePowerD1_keeps {bd : Bool} {zz : State} {p d mode mask : Nat} {s : State} (h : State.Keeps bd zz s) :
    State.KeepsOut bd zz (execDiePowerD1 p d mode mask s) := by
  unfold execDiePowerD1
  try dsimp only
  repeat' first
    | with_reducible assumption | with_reducible apply State.KeepsOut.done
    | with_reducible apply State.settleClusters_keeps | with_reducible apply State.powerResult_keeps
    | with_reducible apply State.leaveClusters_keeps | with_reducible apply State.powerGo_keeps
    | with_reducible apply State.beginChange_keeps | split | intro

theorem execDiePowerD3_keeps {bd : Bool} {zz : State} {p d mode mask : Nat} {s : State} (h : State.Keeps bd zz s) :
    State.KeepsOut bd zz (execDiePowerD3 p d mode mask s) := by
  unfold execDiePowerD3
  try dsimp only
  repeat' first
    | with_reducible assumption | with_reducible apply State.KeepsOut.done
    | with_reducible apply State.startMove_keeps | with_reducible apply State.settleD3_keeps
    | with_reducible apply State.powerResult_keeps | with_reducible apply State.powerGo_keeps
    | with_reducible apply State.beginChange_keeps | with_reducible refine State.Keeps.foldl (fun _ _ _ => ?_) ?_
    | split | intro

theorem execClusterDisable_keeps {bd : Bool} {zz : State} {p d mode mask : Nat} {s : State} (h : State.Keeps bd zz s) :
    State.KeepsOut bd zz (execClusterDisable p d mode mask s) := by
  unfold execClusterDisable
  try dsimp only
  repeat' first
    | with_reducible assumption | with_reducible apply State.KeepsOut.done | with_reducible apply State.issueAll_keeps
    | with_reducible apply State.powerResult_keeps | with_reducible apply State.powerGo_keeps
    | with_reducible apply State.setClusters_keeps | split | intro

theorem execPowerEstimate_keeps {bd : Bool} {zz : State} {d est : Nat} {idle : Bool} {s : State} (h : State.Keeps bd zz s)
    : State.KeepsOut bd zz (execPowerEstimate d est idle s) := by
  unfold execPowerEstimate
  try dsimp only
  repeat' first
    | with_reducible assumption | with_reducible apply State.KeepsOut.next | with_reducible apply State.KeepsOut.idle
    | with_reducible apply State.settleAlert_keeps | with_reducible refine State.Keeps.modDie ?_ (fun _ => ?_) | split
    | with_reducible exact Die.Keeps.refl _ | with_reducible apply Die.Keeps.rest

theorem execPowerDivision_keeps {bd : Bool} {zz s : State} (h : State.Keeps bd zz s) : State.KeepsOut bd zz
    (execPowerDivision s) := by
  unfold execPowerDivision
  try dsimp only
  repeat' first
    | with_reducible assumption | with_reducible apply State.KeepsOut.next | with_reducible apply State.KeepsOut.idle
    | with_reducible apply State.divide_keeps | split

theorem execThermalSample_keeps {bd : Bool} {zz : State} {d temp : Nat} {s : State} (h : State.Keeps bd zz s) :
    State.KeepsOut bd zz (execThermalSample d temp s) := by
  unfold execThermalSample
  try dsimp only
  repeat' first
    | with_reducible assumption | with_reducible apply State.KeepsOut.done | with_reducible apply State.KeepsOut.idle
    | with_reducible apply State.issueAll_keeps | with_reducible apply State.settle_keeps
    | with_reducible apply State.loseDie_keeps | with_reducible refine State.Keeps.modDie ?_ (fun _ => ?_) | split
    | with_reducible exact Die.Keeps.refl _ | with_reducible apply Die.Keeps.rest

theorem execAlertRelease_keeps {bd : Bool} {zz s : State} (h : State.Keeps bd zz s) : State.KeepsOut bd zz
    (execAlertRelease s) := by
  unfold execAlertRelease
  try dsimp only
  repeat' first
    | with_reducible assumption | with_reducible apply State.KeepsOut.next | with_reducible apply State.KeepsOut.idle
    | split
    | with_reducible refine State.Keeps.pins ?_ (by first | exact fun hp hf => hp hf | exact fun hp hf => ⟨(hp hf).1, rfl⟩ | exact fun hp hf => ⟨rfl, (hp hf).2⟩ | exact fun _ _ => ⟨rfl, rfl⟩)

/-! ### Security -/

theorem execTamper_keeps {zz : State} {i : Nat} {s : State} (h : State.Keeps false zz s) : State.KeepsOut false zz
    (execTamper i s) := by
  unfold execTamper
  try dsimp only
  repeat' first
    | with_reducible assumption | with_reducible apply State.KeepsOut.done | with_reducible apply State.KeepsOut.idle
    | with_reducible apply State.alarm_keeps | split | with_reducible apply State.Keeps.restBoard

theorem execGlitch_keeps {zz s : State} (h : State.Keeps false zz s) : State.KeepsOut false zz (execGlitch s) := by
  unfold execGlitch
  try dsimp only
  repeat' first
    | with_reducible assumption | with_reducible apply State.KeepsOut.done | with_reducible apply State.KeepsOut.idle
    | with_reducible apply State.glitched_keeps | split

theorem execAvsFallback_keeps {zz : State} {d readback : Nat} {s : State} (h : State.Keeps false zz s) : State.KeepsOut
    false zz (execAvsFallback d readback s) := by
  unfold execAvsFallback
  try dsimp only
  repeat' first
    | with_reducible assumption | with_reducible apply State.KeepsOut.next | with_reducible apply State.KeepsOut.done
    | with_reducible apply State.KeepsOut.idle | with_reducible apply State.glitched_keeps
    | with_reducible refine State.Keeps.modDie ?_ (fun _ => ?_) | split | with_reducible exact Die.Keeps.refl _
    | with_reducible apply Die.Keeps.rest

theorem execKeyUnwrap_keeps {zz : State} {d : Nat} {s : State} {held : Bool} (h : State.Keeps false zz s) : State.KeepsOut
    false zz (execKeyUnwrap d s held) := by
  unfold execKeyUnwrap
  try dsimp only
  repeat' first
    | with_reducible assumption | with_reducible apply State.KeepsOut.next | with_reducible apply State.KeepsOut.idle
    | with_reducible apply State.vaultOp_keeps | with_reducible refine State.Keeps.modDie ?_ (fun _ => ?_) | split
    | with_reducible exact Die.Keeps.refl _ | with_reducible apply Die.Keeps.rest | intro

theorem execSecBootGo_keeps {zz : State} {p : Nat} {hv : HostView} {s : State} (h : State.Keeps false zz s) :
    State.KeepsOut false zz (execSecBootGo p hv s) := by
  unfold execSecBootGo
  try dsimp only
  repeat' first
    | with_reducible assumption | with_reducible apply State.KeepsOut.next | with_reducible apply State.KeepsOut.done
    | with_reducible apply State.KeepsOut.idle | with_reducible apply State.merge_keeps
    | with_reducible apply State.bootImage_keeps | split | with_reducible apply State.Keeps.restBoard

theorem execMemReady_keeps {zz : State} {hv : HostView} {s : State} (h : State.Keeps false zz s) : State.KeepsOut false zz
    (execMemReady hv s) := by
  unfold execMemReady
  split
  · exact State.KeepsOut.idle h
  · refine State.KeepsOut.done ?_
    have h1 : State.Keeps false zz { s with boot := { s.boot with memReady := true, goHeld := false }, pins := { s.pins with driven := true } } :=
      h.updPins rfl rfl rfl rfl (fun w f => w f) rfl (fun w => by cases w)
    dsimp only
    split
    · exact State.bootImage_keeps (State.Keeps.modRegs (State.merge_keeps h1))
    · exact State.Keeps.modRegs (State.merge_keeps h1)

theorem execChallenge_keeps {zz : State} {p : Nat} {s : State} (h : State.Keeps false zz s) : State.KeepsOut false zz
    (execChallenge p s) := by
  unfold execChallenge
  try dsimp only
  repeat' first
    | with_reducible assumption | with_reducible apply State.KeepsOut.next | with_reducible apply State.KeepsOut.done
    | with_reducible apply State.writeHost_keeps | with_reducible apply State.granted_keeps
    | with_reducible apply State.queued_keeps | with_reducible apply State.randomBytes_keeps
    | with_reducible apply State.secResult_keeps | with_reducible apply State.secGo_keeps | split
    | with_reducible apply State.Keeps.restBoard | intro

theorem execKeyLoad_keeps {zz : State} {p : Nat} {hv : HostView} {s : State} (h : State.Keeps false zz s) : State.KeepsOut
    false zz (execKeyLoad p hv s) := by
  unfold execKeyLoad
  try dsimp only
  repeat' first
    | with_reducible assumption | with_reducible apply State.KeepsOut.done
    | with_reducible apply State.secResult_keeps | with_reducible apply State.secCommand_keeps
    | with_reducible refine State.Keeps.modDie ?_ (fun _ => ?_)
    | with_reducible refine State.Keeps.foldl (fun _ _ _ => ?_) ?_ | split | with_reducible exact Die.Keeps.refl _
    | with_reducible apply Die.Keeps.rest | intro

theorem execKeyFuse_keeps {zz : State} {p : Nat} {hv : HostView} {bad : Option Nat} {s : State}
    (h : State.Keeps false zz s) : State.KeepsOut false zz (execKeyFuse p hv bad s) := by
  unfold execKeyFuse
  try dsimp only
  repeat' first
    | with_reducible assumption | with_reducible apply State.KeepsOut.done | with_reducible apply State.issueAll_keeps
    | with_reducible apply State.secResult_keeps | with_reducible apply State.secCommand_keeps
    | with_reducible apply State.blow_keeps | exact Fuses.Le.slot _ _ _ | split | intro

theorem execKeyRevoke_keeps {zz : State} {p : Nat} {hv : HostView} {bad : Option Nat} {s : State}
    (h : State.Keeps false zz s) : State.KeepsOut false zz (execKeyRevoke p hv bad s) := by
  unfold execKeyRevoke
  try dsimp only
  repeat' first
    | with_reducible assumption | with_reducible apply State.KeepsOut.done | with_reducible apply State.issueAll_keeps
    | with_reducible apply State.secResult_keeps | with_reducible apply State.secCommand_keeps
    | with_reducible apply State.blow_keeps | exact Fuses.Le.revoke _ _ | split | intro

theorem execRollbackCommit_keeps {zz : State} {p : Nat} {hv : HostView} {bad : Option Nat} {s : State}
    (h : State.Keeps false zz s) : State.KeepsOut false zz (execRollbackCommit p hv bad s) := by
  unfold execRollbackCommit
  try dsimp only
  repeat' first
    | with_reducible assumption | with_reducible apply State.KeepsOut.done | with_reducible apply State.issueAll_keeps
    | with_reducible apply State.secCommand_keeps | with_reducible apply State.blow_keeps
    | exact Fuses.Le.rollBack _ _ | intro

theorem execSignRequire_keeps {zz : State} {p : Nat} {hv : HostView} {bad : Option Nat} {s : State}
    (h : State.Keeps false zz s) : State.KeepsOut false zz (execSignRequire p hv bad s) := by
  unfold execSignRequire
  try dsimp only
  repeat' first
    | with_reducible assumption | with_reducible apply State.KeepsOut.done | with_reducible apply State.issueAll_keeps
    | with_reducible apply State.secCommand_keeps | with_reducible apply State.blow_keeps | exact Fuses.Le.sign _
    | intro

theorem execLcField_keeps {zz : State} {p : Nat} {hv : HostView} {bad : Option Nat} {s : State}
    (h : State.Keeps false zz s) : State.KeepsOut false zz (execLcField p hv bad s) := by
  unfold execLcField
  try dsimp only
  repeat' first
    | with_reducible assumption | with_reducible apply State.KeepsOut.done | with_reducible apply State.issueAll_keeps
    | with_reducible apply State.wipeVaults_keeps | with_reducible apply State.secCommand_keeps
    | with_reducible apply State.blow_keeps | exact Fuses.Le.advance _ _ | intro

theorem execDebugUnlock_keeps {zz : State} {p : Nat} {hv : HostView} {s : State} (h : State.Keeps false zz s) :
    State.KeepsOut false zz (execDebugUnlock p hv s) := by
  unfold execDebugUnlock
  try dsimp only
  repeat' first
    | with_reducible assumption | with_reducible apply State.KeepsOut.done
    | with_reducible apply State.wipeVaults_keeps | with_reducible apply State.secResult_keeps
    | with_reducible apply State.secCommand_keeps | with_reducible apply State.Keeps.restBoard | intro

theorem execRelock_keeps {zz : State} {p : Nat} {hv : HostView} {s : State} (h : State.Keeps false zz s) : State.KeepsOut
    false zz (execRelock p hv s) := by
  unfold execRelock
  try dsimp only
  repeat' first
    | with_reducible assumption | with_reducible apply State.KeepsOut.done
    | with_reducible apply State.wipeVaults_keeps | with_reducible apply State.secResult_keeps
    | with_reducible apply State.secCommand_keeps | with_reducible apply State.Keeps.restBoard | intro

theorem execInjectUnlock_keeps {zz : State} {p : Nat} {hv : HostView} {s : State} (h : State.Keeps false zz s) :
    State.KeepsOut false zz (execInjectUnlock p hv s) := by
  unfold execInjectUnlock
  try dsimp only
  repeat' first
    | with_reducible assumption | with_reducible apply State.KeepsOut.done
    | with_reducible apply State.secResult_keeps | with_reducible apply State.secCommand_keeps
    | with_reducible refine State.Keeps.modDies ?_ (fun _ => ?_) | with_reducible exact Die.Keeps.refl _
    | with_reducible apply Die.Keeps.rest | intro

theorem execLcReturn_keeps {zz : State} {p : Nat} {hv : HostView} {bad : Option Nat} {s : State}
    (h : State.Keeps false zz s) : State.KeepsOut false zz (execLcReturn p hv bad s) := by
  unfold execLcReturn
  try dsimp only
  repeat' first
    | with_reducible assumption | with_reducible apply State.KeepsOut.done | with_reducible apply State.issueAll_keeps
    | with_reducible apply State.wipeVaults_keeps | with_reducible apply State.secCommand_keeps
    | with_reducible apply State.blow_keeps | exact Fuses.Le.advance _ _ | with_reducible apply State.Keeps.restBoard
    | intro

theorem execLcScrap_keeps {zz : State} {p : Nat} {hv : HostView} {bad : Option Nat} {s : State}
    (h : State.Keeps false zz s) : State.KeepsOut false zz (execLcScrap p hv bad s) := by
  unfold execLcScrap
  try dsimp only
  repeat' first
    | with_reducible assumption | with_reducible apply State.KeepsOut.done | with_reducible apply State.issueAll_keeps
    | with_reducible apply State.wipeVaults_keeps | with_reducible apply State.secCommand_keeps
    | with_reducible apply State.blow_keeps | exact Fuses.Le.advance _ _ | with_reducible apply State.Keeps.restBoard
    | intro

/-! ### Startup -/

theorem execPowerOnReset_keeps {zz : State} {straps : Nat} {s : State} {second third : Nat} (h : State.Keeps false zz s) :
    State.KeepsOut false zz (execPowerOnReset straps s second third) := by
  unfold execPowerOnReset
  split
  · exact State.KeepsOut.idle h
  · exact State.KeepsOut.done (State.readFuses_keeps (h.updPins rfl rfl rfl rfl (fun w f => w f) rfl (fun w => by cases w)))

theorem execRootPllLock_keeps {zz s : State} (h : State.Keeps false zz s) : State.KeepsOut false zz (execRootPllLock s) := by
  unfold execRootPllLock
  split
  · exact State.KeepsOut.idle h
  · exact State.KeepsOut.done (State.settle_keeps (h.updPorts rfl rfl (by simp) rfl rfl rfl (fun w => by cases w)))

theorem execLinkTrainingDone_keeps {zz : State} {k rate : Nat} {x32 cache : Bool} {s : State} (h : State.Keeps false zz s)
    : State.KeepsOut false zz (execLinkTrainingDone k rate x32 cache s) := by
  unfold execLinkTrainingDone
  try dsimp only
  repeat' first
    | with_reducible assumption | with_reducible apply State.KeepsOut.done | with_reducible apply State.KeepsOut.idle
    | with_reducible apply State.logErr_keeps | with_reducible apply State.packageFatal_keeps
    | with_reducible apply State.settle_keeps | with_reducible apply State.trainPort_keeps
    | with_reducible apply State.startGtc_keeps | with_reducible apply State.Keeps.modPort | split

theorem execGtcStart_keeps {zz s : State} (h : State.Keeps false zz s) : State.KeepsOut false zz (execGtcStart s) := by
  unfold execGtcStart
  try dsimp only
  repeat' first
    | with_reducible assumption | with_reducible apply State.KeepsOut.next | with_reducible apply State.KeepsOut.idle
    | with_reducible refine State.Keeps.modDies ?_ (fun _ => ?_) | split | with_reducible exact Die.Keeps.refl _
    | with_reducible apply Die.Keeps.rest

theorem execPorstNAssert_keeps {zz s : State} (h : State.Keeps false zz s) : State.KeepsOut false zz (execPorstNAssert s) := by
  unfold execPorstNAssert
  refine State.KeepsOut.next (h.trans ⟨rfl, Die.KeepsAll.fuses _, fun _ => rfl, fun w => w, fun _ f => ?_, rfl, fun w => ?_⟩)
  · cases f
  · cases w

theorem execPackageWarmReset_keeps {zz : State} {p : Nat} {s : State} {die : Nat} {cl queue : Nat}
    (h : State.Keeps false zz s) : State.KeepsOut false zz (execPackageWarmReset p s die cl queue) := by
  unfold execPackageWarmReset
  try dsimp only
  repeat' first
    | with_reducible assumption | with_reducible apply State.KeepsOut.next | with_reducible apply State.KeepsOut.done
    | with_reducible apply State.KeepsOut.idle | with_reducible apply State.warmReset_keeps
    | with_reducible apply State.Keeps.modRegs | split | with_reducible apply State.Keeps.restBoard

theorem execPackageResetArmExpiry_keeps {zz s : State} (h : State.Keeps false zz s) : State.KeepsOut false zz
    (execPackageResetArmExpiry s) := by
  unfold execPackageResetArmExpiry
  try dsimp only
  repeat' first
    | with_reducible assumption | with_reducible apply State.KeepsOut.next | split
    | with_reducible apply State.Keeps.restBoard

theorem execQueueReset_keeps {zz : State} {p q : Nat} {s : State} {die cl : Nat} (h : State.Keeps false zz s) :
    State.KeepsOut false zz (execQueueReset p q s die cl) := by
  unfold execQueueReset
  try dsimp only
  repeat' first
    | with_reducible assumption | with_reducible apply State.KeepsOut.next | with_reducible apply State.modQueue_keeps
    | with_reducible apply State.dropLine_keeps | with_reducible apply State.resetGo_keeps
    | with_reducible apply State.resetResult_keeps | with_reducible apply State.resets_keeps | split | intro

theorem execClusterReset_keeps {zz : State} {p : Nat} {d c : Nat} {s : State} {queue : Nat} (h : State.Keeps false zz s) :
    State.KeepsOut false zz (execClusterReset p d c s queue) := by
  unfold execClusterReset
  try dsimp only
  repeat' first
    | with_reducible assumption | with_reducible apply State.KeepsOut.done | with_reducible apply State.issueAll_keeps
    | with_reducible apply State.settleClusters_keeps | with_reducible apply State.redispatchAll_keeps
    | with_reducible apply State.resetGo_keeps | with_reducible apply State.resetResult_keeps
    | with_reducible apply State.resets_keeps | with_reducible apply Die.clearCluster_keeps
    | with_reducible apply State.abandonChange_keeps | with_reducible refine State.Keeps.modDie ?_ (fun _ => ?_)
    | split | with_reducible exact Die.Keeps.refl _ | intro

theorem execDieReset_keeps {zz : State} {p d : Nat} {s : State} {cl queue : Nat} (h : State.Keeps false zz s) :
    State.KeepsOut false zz (execDieReset p d s cl queue) := by
  unfold execDieReset
  try dsimp only
  repeat' first
    | with_reducible assumption | with_reducible apply State.KeepsOut.done | with_reducible apply State.issueAll_keeps
    | with_reducible apply State.dropDie_keeps | with_reducible apply State.startReturn_keeps
    | with_reducible apply State.resetGo_keeps | with_reducible apply State.resetResult_keeps
    | with_reducible apply State.resets_keeps | with_reducible apply State.Keeps.modRegs | split | intro

/-! ### Beats -/

theorem execBeat_keeps {zz : State} {p : Nat} {timeout : Bool} {v : Nat} {s : State} (h : State.Keeps false zz s) :
    State.KeepsOut false zz (execBeat p timeout v s) := by
  unfold execBeat
  try dsimp only
  repeat' first
    | with_reducible assumption | with_reducible apply State.KeepsOut.done | with_reducible apply State.KeepsOut.idle
    | with_reducible apply State.beat_keeps | with_reducible apply State.Keeps.modRegs | split

theorem execHeartbeatLost_keeps {zz s : State} (h : State.Keeps false zz s) : State.KeepsOut false zz
    (execHeartbeatLost s) := by
  unfold execHeartbeatLost
  try dsimp only
  repeat' first
    | with_reducible assumption | with_reducible apply State.KeepsOut.done | with_reducible apply State.KeepsOut.idle
    | with_reducible apply State.logErr_keeps | with_reducible apply State.settle_keeps
    | with_reducible apply State.Keeps.modRegs | split

theorem execHealthyRise_keeps {zz s : State} (h : State.Keeps false zz s) : State.KeepsOut false zz (execHealthyRise s) := by
  unfold execHealthyRise
  split
  · split
    · rename_i t _ hc
      refine State.KeepsOut.next (h.updPins rfl rfl rfl rfl (fun w f => ?_) rfl (fun w => by cases w))
      have hf : s.pins.fatal = true := f
      have : s.healthHolds = true := by
        simp only [Bool.and_eq_true] at hc
        exact hc.1
      simp [State.healthHolds, hf] at this
    · exact State.KeepsOut.idle h
  · exact State.KeepsOut.idle h

theorem execPpsArm_keeps {zz : State} {p : Nat} {s : State} (h : State.Keeps false zz s) : State.KeepsOut false zz
    (execPpsArm p s) := by
  unfold execPpsArm
  try dsimp only
  repeat' first
    | with_reducible assumption | with_reducible apply State.KeepsOut.next | with_reducible apply State.KeepsOut.idle
    | with_reducible apply State.raised_keeps | with_reducible apply State.ppsLoad_keeps | split
    | with_reducible apply State.Keeps.restBoard

theorem execPpsEdge_keeps {zz s : State} (h : State.Keeps false zz s) : State.KeepsOut false zz (execPpsEdge s) := by
  unfold execPpsEdge
  try dsimp only
  repeat' first
    | with_reducible assumption | with_reducible apply State.KeepsOut.next | with_reducible apply State.KeepsOut.idle
    | with_reducible apply State.logErr_keeps | with_reducible apply State.ppsLoad_keeps | split
    | with_reducible apply State.Keeps.restBoard

theorem execPpsLost_keeps {zz s : State} (h : State.Keeps false zz s) : State.KeepsOut false zz (execPpsLost s) := by
  unfold execPpsLost
  try dsimp only
  repeat' first
    | with_reducible assumption | with_reducible apply State.KeepsOut.next | with_reducible apply State.KeepsOut.idle
    | split | with_reducible apply State.Keeps.restBoard

theorem execSafetyWindowClose_keeps {zz : State} {i : Nat} {s : State} (h : State.Keeps false zz s) : State.KeepsOut false
    zz (execSafetyWindowClose i s) := by
  unfold execSafetyWindowClose
  try dsimp only
  repeat' first
    | with_reducible assumption | with_reducible apply State.KeepsOut.next | with_reducible apply State.KeepsOut.idle
    | with_reducible apply State.Keeps.modRegs | split

theorem execTimeRecord_keeps {zz : State} {d : Nat} {s : State} (h : State.Keeps false zz s) : State.KeepsOut false zz
    (execTimeRecord d s) := by
  unfold execTimeRecord
  try dsimp only
  repeat' first
    | with_reducible assumption | with_reducible apply State.KeepsOut.next | with_reducible apply State.KeepsOut.idle
    | with_reducible apply Die.pushTrace_keeps | with_reducible refine State.Keeps.modDie ?_ (fun _ => ?_) | split
    | with_reducible exact Die.Keeps.refl _

theorem execTraceMemoryInit_keeps {zz : State} {ok : Bool} {density : Nat} {s : State} (h : State.Keeps false zz s) :
    State.KeepsOut false zz (execTraceMemoryInit ok density s) := by
  unfold execTraceMemoryInit
  try dsimp only
  repeat' first
    | with_reducible assumption | with_reducible apply State.KeepsOut.next | with_reducible apply State.KeepsOut.idle
    | with_reducible apply State.raised_keeps | with_reducible apply State.Keeps.modRegs | split
    | with_reducible apply State.Keeps.rest
    | with_reducible refine State.Keeps.pins ?_ (by first | exact fun hp hf => hp hf | exact fun hp hf => ⟨(hp hf).1, rfl⟩ | exact fun hp hf => ⟨rfl, (hp hf).2⟩ | exact fun _ _ => ⟨rfl, rfl⟩)

/-! ### ControlJobs -/

theorem execSuspend_keeps {bd : Bool} {zz : State} {q n : Nat} {s : State} (h : State.Keeps bd zz s) : State.KeepsOut bd
    zz (execSuspend q n s) := by
  unfold execSuspend
  try dsimp only
  repeat' first
    | with_reducible assumption | with_reducible apply State.KeepsOut.next | with_reducible apply State.KeepsOut.done
    | with_reducible apply State.KeepsOut.idle | with_reducible apply State.modJob_keeps
    | with_reducible apply State.setPhase_keeps | with_reducible apply State.noEffect_keeps
    | with_reducible apply State.suspendNow_keeps | split

theorem execResume_keeps {bd : Bool} {zz : State} {q n : Nat} {s : State} (h : State.Keeps bd zz s) : State.KeepsOut bd zz
    (execResume q n s) := by
  unfold execResume
  try dsimp only
  repeat' first
    | with_reducible assumption | with_reducible apply State.KeepsOut.done | with_reducible apply State.KeepsOut.idle
    | with_reducible apply State.setPhase_keeps | with_reducible apply State.ledgerWrite_keeps
    | with_reducible apply State.noEffect_keeps | with_reducible apply State.resumeTarget_keeps | split

theorem execCancel_keeps {bd : Bool} {zz : State} {q n : Nat} {s : State} (h : State.Keeps bd zz s) : State.KeepsOut bd zz
    (execCancel q n s) := by
  unfold execCancel
  try dsimp only
  repeat' first
    | with_reducible assumption | with_reducible apply State.KeepsOut.next | with_reducible apply State.KeepsOut.done
    | with_reducible apply State.KeepsOut.idle | with_reducible apply State.modJob_keeps
    | with_reducible apply State.setPhase_keeps | with_reducible apply State.issueAll_keeps
    | with_reducible apply State.cross_keeps | with_reducible apply State.writeCompletions_keeps
    | with_reducible apply State.complete_keeps | with_reducible apply State.settleCancel_keeps
    | with_reducible apply State.noEffect_keeps | with_reducible apply State.cancelNow_keeps
    | with_reducible apply State.dropPrefetched_keeps | refine State.cancelRunning_keeps ?_ _ (by assumption) | split
    | intro

theorem execAttest_keeps {bd : Bool} {zz : State} {q n : Nat} {s : State} {held : Bool} (h : State.Keeps bd zz s) :
    State.KeepsOut bd zz (execAttest q n s held) := by
  unfold execAttest
  try dsimp only
  repeat' first
    | with_reducible assumption | with_reducible apply State.KeepsOut.done | with_reducible apply State.KeepsOut.idle
    | with_reducible apply State.jobWrite_keeps | with_reducible apply State.complete_keeps
    | with_reducible apply State.vaultOp_keeps | with_reducible apply State.signQuote_keeps | split | intro

/-! ### GeometryPath -/

theorem execQueryPacketSend_keeps {bd : Bool} {zz : State} {d c g : Nat} {s : State} (h : State.Keeps bd zz s) :
    State.KeepsOut bd zz (execQueryPacketSend d c g s) := by
  unfold execQueryPacketSend
  try dsimp only
  repeat' first
    | with_reducible assumption | with_reducible apply State.KeepsOut.next | with_reducible apply State.KeepsOut.idle
    | with_reducible apply State.modTests_keeps | split

theorem execQueryPacketArrival_keeps {bd : Bool} {zz : State} {d g : Nat} {s : State} {err : Nat}
    (h : State.Keeps bd zz s) : State.KeepsOut bd zz (execQueryPacketArrival d g s err) := by
  unfold execQueryPacketArrival
  extract_lets x bound v room ts s1 y enter
  have h1 : State.Keeps bd zz s1 := State.Keeps.foldl (fun _ _ w => State.Keeps.ite (State.readLines_keeps w) w) h
  clear_value s1
  split
  · exact State.KeepsOut.idle h
  · split
    · exact State.KeepsOut.done (State.Keeps.foldl (fun _ _ w => State.complete_keeps w) h)
    · exact State.KeepsOut.next (State.Keeps.modDie (State.modTests_keeps h1)
        (fun x => Die.startFills_keeps (Die.Keeps.foldl (fun _ _ w => Die.cacheL0_keeps w) (Die.Keeps.refl x))))

theorem execFragment_keeps {bd : Bool} {zz : State} {d g : Nat} {s : State} {err : Nat} (h : State.Keeps bd zz s) :
    State.KeepsOut bd zz (execFragment d g s err) := by
  unfold execFragment
  try dsimp only
  repeat' first
    | with_reducible assumption | with_reducible apply State.KeepsOut.next | with_reducible apply State.KeepsOut.idle
    | with_reducible apply State.modTests_keeps | with_reducible apply Die.startFills_keeps
    | with_reducible apply State.readLines_keeps | with_reducible refine State.Keeps.modDie ?_ (fun _ => ?_) | split
    | with_reducible exact Die.Keeps.refl _

theorem execPartialResult_keeps {bd : Bool} {zz : State} {d c : Nat} {s : State} (h : State.Keeps bd zz s) :
    State.KeepsOut bd zz (execPartialResult d c s) := by
  unfold execPartialResult
  try dsimp only
  repeat' first
    | with_reducible assumption | with_reducible apply State.KeepsOut.next | with_reducible apply State.KeepsOut.idle
    | with_reducible apply State.modTests_keeps | split

theorem execResultRecord_keeps {bd : Bool} {zz : State} {d c : Nat} {s : State} {hit : Option BankHit}
    (h : State.Keeps bd zz s) : State.KeepsOut bd zz (execResultRecord d c s hit) := by
  unfold execResultRecord
  try dsimp only
  repeat' first
    | with_reducible assumption | with_reducible apply State.KeepsOut.next | with_reducible apply State.KeepsOut.done
    | with_reducible apply State.KeepsOut.idle | with_reducible apply State.cross_keeps
    | with_reducible apply State.bankCollision_keeps | with_reducible apply State.modTests_keeps | split | intro

theorem execLineFill_keeps {bd : Bool} {zz : State} {d k : Nat} {s : State} {hit : Option Nat} (h : State.Keeps bd zz s) :
    State.KeepsOut bd zz (execLineFill d k s hit) := by
  unfold execLineFill
  try dsimp only
  repeat' first
    | with_reducible assumption | with_reducible apply State.KeepsOut.next | with_reducible apply State.KeepsOut.done
    | with_reducible apply State.KeepsOut.idle | with_reducible apply State.logErr_keeps
    | with_reducible apply State.issueAll_keeps | with_reducible apply State.cross_keeps
    | with_reducible apply State.complete_keeps | with_reducible apply State.redispatchAll_keeps
    | with_reducible apply Die.startFills_keeps | with_reducible apply Die.addLine_keeps
    | with_reducible apply State.readNext_keeps | with_reducible refine State.Keeps.modDie ?_ (fun _ => ?_)
    | with_reducible refine State.Keeps.foldl (fun _ _ _ => ?_) ?_ | split | with_reducible exact Die.Keeps.refl _
    | with_reducible apply Die.Keeps.rest | intro

/-! ### Scrub -/

theorem execScrub_keeps {bd : Bool} {zz : State} {d pc line : Nat} {errs : List (Nat × Nat)} {sev : Nat} {s : State}
    {held : Bool} (h : State.Keeps bd zz s) : State.KeepsOut bd zz (execScrub d pc line errs sev s held) := by
  unfold execScrub
  try dsimp only
  repeat' first
    | with_reducible assumption | with_reducible apply State.KeepsOut.next | with_reducible apply State.KeepsOut.done
    | with_reducible apply State.KeepsOut.idle | with_reducible apply State.issueAll_keeps
    | with_reducible apply State.modArb_keeps | with_reducible apply State.cross_keeps
    | with_reducible apply State.readLineOf_keeps | with_reducible apply State.scrubTurn_keeps
    | with_reducible apply Die.leaveLine_keeps | with_reducible apply State.scrubAccess_keeps
    | with_reducible refine State.Keeps.modDie ?_ (fun _ => ?_) | split | with_reducible exact Die.Keeps.refl _
    | with_reducible apply Die.Keeps.rest | intro

/-! ### TestPort -/

theorem execTestPortCycle_keeps {zz : State} {tms : Bool} {tdi trst : Bool} {s : State} (h : State.Keeps false zz s) :
    State.KeepsOut false zz (execTestPortCycle tms tdi trst s) := by
  unfold execTestPortCycle
  try dsimp only
  repeat' first
    | with_reducible assumption | with_reducible apply State.KeepsOut.next | with_reducible apply State.tapAct_keeps
    | with_reducible apply State.tapEnter_keeps | split | with_reducible apply State.Keeps.restBoard

/-! ### Sideband -/

theorem execSidebandRead_keeps {zz : State} {n : Nat} {s : State} {at_ : Option Nat} (h : State.Keeps false zz s) :
    State.KeepsOut false zz (execSidebandRead n s at_) := by
  unfold execSidebandRead
  try dsimp only
  repeat' first
    | with_reducible assumption | with_reducible apply State.KeepsOut.next | with_reducible apply State.KeepsOut.idle
    | with_reducible apply State.sidebandBytes_keeps | split | with_reducible apply State.Keeps.restBoard

theorem execSidebandWrite_keeps {zz : State} {bytes : List Byte} {s : State} {at_ assign : Option Nat}
    (h : State.Keeps false zz s) : State.KeepsOut false zz (execSidebandWrite bytes s at_ assign) := by
  unfold execSidebandWrite
  try dsimp only
  repeat' first
    | with_reducible assumption | with_reducible apply State.KeepsOut.done | with_reducible apply State.KeepsOut.idle
    | with_reducible apply State.sidebandStore_keeps | with_reducible apply State.assignAddr_keeps
    | with_reducible refine State.Keeps.foldl (fun _ _ _ => ?_) ?_ | split
    | with_reducible apply State.Keeps.restBoard

theorem execSbReset_keeps {zz : State} {v : Nat} {s : State} {at_ : Option Nat} (h : State.Keeps false zz s) :
    State.KeepsOut false zz (execSbReset v s at_) := by
  unfold execSbReset
  try dsimp only
  repeat' first
    | with_reducible assumption | with_reducible apply State.KeepsOut.done | with_reducible apply State.KeepsOut.idle
    | with_reducible apply State.sidebandReset_keeps | split

theorem execSidebandBusTimeout_keeps {zz s : State} (h : State.Keeps false zz s) : State.KeepsOut false zz
    (execSidebandBusTimeout s) := by
  unfold execSidebandBusTimeout
  exact State.KeepsOut.next (State.Keeps.updPins h rfl rfl rfl rfl (fun f => f) rfl (fun e => by cases e))

theorem execRpReadTimeout_keeps {zz s : State} (h : State.Keeps false zz s) : State.KeepsOut false zz
    (execRpReadTimeout s) := by
  unfold execRpReadTimeout
  try dsimp only
  repeat' first
    | with_reducible assumption | with_reducible apply State.KeepsOut.next | with_reducible apply State.KeepsOut.idle
    | with_reducible apply State.raised_keeps | with_reducible apply State.fresh_keeps
    | with_reducible apply State.Keeps.modRegs | split | with_reducible apply State.Keeps.rest
    | with_reducible apply State.Keeps.restBoard

end Sys2Proof.Machine
end

