-- ==== Sys2Proof/Laws/State.lean ====
section
/-!
SUPPORT. What each update of the state leaves in each field, so that no proof unfolds a record update.
-/
namespace Sys2Proof.Machine

/-! ### A die changed: `modDie` -/

@[simp] theorem State.modDie_dies (s : State) (d : Nat) (f : Die → Die) : (s.modDie d f).dies = s.dies.modify d f := rfl
@[simp] theorem State.modDie_now (s : State) (d : Nat) (f : Die → Die) : (s.modDie d f).now = s.now := rfl
@[simp] theorem State.modDie_ident (s : State) (d : Nat) (f : Die → Die) : (s.modDie d f).ident = s.ident := rfl
@[simp] theorem State.modDie_sec (s : State) (d : Nat) (f : Die → Die) : (s.modDie d f).sec = s.sec := rfl
@[simp] theorem State.modDie_boot (s : State) (d : Nat) (f : Die → Die) : (s.modDie d f).boot = s.boot := rfl
@[simp] theorem State.modDie_pins (s : State) (d : Nat) (f : Die → Die) : (s.modDie d f).pins = s.pins := rfl
@[simp] theorem State.modDie_pps (s : State) (d : Nat) (f : Die → Die) : (s.modDie d f).pps = s.pps := rfl
@[simp] theorem State.modDie_regs (s : State) (d : Nat) (f : Die → Die) : (s.modDie d f).regs = s.regs := rfl
@[simp] theorem State.modDie_msix (s : State) (d : Nat) (f : Die → Die) : (s.modDie d f).msix = s.msix := rfl
@[simp] theorem State.modDie_ports (s : State) (d : Nat) (f : Die → Die) : (s.modDie d f).ports = s.ports := rfl
@[simp] theorem State.modDie_queues (s : State) (d : Nat) (f : Die → Die) : (s.modDie d f).queues = s.queues := rfl
@[simp] theorem State.modDie_jobs (s : State) (d : Nat) (f : Die → Die) : (s.modDie d f).jobs = s.jobs := rfl
@[simp] theorem State.modDie_dispatchCount (s : State) (d : Nat) (f : Die → Die) : (s.modDie d f).dispatchCount = s.dispatchCount := rfl
@[simp] theorem State.modDie_plans (s : State) (d : Nat) (f : Die → Die) : (s.modDie d f).plans = s.plans := rfl
@[simp] theorem State.modDie_worlds (s : State) (d : Nat) (f : Die → Die) : (s.modDie d f).worlds = s.worlds := rfl
@[simp] theorem State.modDie_bodies (s : State) (d : Nat) (f : Die → Die) : (s.modDie d f).bodies = s.bodies := rfl
@[simp] theorem State.modDie_syncs (s : State) (d : Nat) (f : Die → Die) : (s.modDie d f).syncs = s.syncs := rfl
@[simp] theorem State.modDie_openAborts (s : State) (d : Nat) (f : Die → Die) : (s.modDie d f).openAborts = s.openAborts := rfl
@[simp] theorem State.modDie_flows (s : State) (d : Nat) (f : Die → Die) : (s.modDie d f).flows = s.flows := rfl
@[simp] theorem State.modDie_chans (s : State) (d : Nat) (f : Die → Die) : (s.modDie d f).chans = s.chans := rfl
@[simp] theorem State.modDie_storeWrites (s : State) (d : Nat) (f : Die → Die) : (s.modDie d f).storeWrites = s.storeWrites := rfl
@[simp] theorem State.modDie_ctrl (s : State) (d : Nat) (f : Die → Die) : (s.modDie d f).ctrl = s.ctrl := rfl
@[simp] theorem State.modDie_sup (s : State) (d : Nat) (f : Die → Die) : (s.modDie d f).sup = s.sup := rfl
@[simp] theorem State.modDie_sideband (s : State) (d : Nat) (f : Die → Die) : (s.modDie d f).sideband = s.sideband := rfl
@[simp] theorem State.modDie_traceMem (s : State) (d : Nat) (f : Die → Die) : (s.modDie d f).traceMem = s.traceMem := rfl
@[simp] theorem State.modDie_testPort (s : State) (d : Nat) (f : Die → Die) : (s.modDie d f).testPort = s.testPort := rfl
@[simp] theorem State.modDie_host (s : State) (d : Nat) (f : Die → Die) : (s.modDie d f).host = s.host := rfl
@[simp] theorem State.modDie_badWrite (s : State) (d : Nat) (f : Die → Die) : (s.modDie d f).badWrite = s.badWrite := rfl
@[simp] theorem State.modDie_free (s : State) (d : Nat) (f : Die → Die) : (s.modDie d f).free = s.free := rfl
@[simp] theorem State.modDie_pending (s : State) (d : Nat) (f : Die → Die) : (s.modDie d f).pending = s.pending := rfl

/-! ### Every die changed: `modDies` -/

@[simp] theorem State.modDies_dies (s : State) (f : Die → Die) : (s.modDies f).dies = s.dies.map f := rfl
@[simp] theorem State.modDies_now (s : State) (f : Die → Die) : (s.modDies f).now = s.now := rfl
@[simp] theorem State.modDies_ident (s : State) (f : Die → Die) : (s.modDies f).ident = s.ident := rfl
@[simp] theorem State.modDies_sec (s : State) (f : Die → Die) : (s.modDies f).sec = s.sec := rfl
@[simp] theorem State.modDies_boot (s : State) (f : Die → Die) : (s.modDies f).boot = s.boot := rfl
@[simp] theorem State.modDies_pins (s : State) (f : Die → Die) : (s.modDies f).pins = s.pins := rfl
@[simp] theorem State.modDies_pps (s : State) (f : Die → Die) : (s.modDies f).pps = s.pps := rfl
@[simp] theorem State.modDies_regs (s : State) (f : Die → Die) : (s.modDies f).regs = s.regs := rfl
@[simp] theorem State.modDies_msix (s : State) (f : Die → Die) : (s.modDies f).msix = s.msix := rfl
@[simp] theorem State.modDies_ports (s : State) (f : Die → Die) : (s.modDies f).ports = s.ports := rfl
@[simp] theorem State.modDies_queues (s : State) (f : Die → Die) : (s.modDies f).queues = s.queues := rfl
@[simp] theorem State.modDies_jobs (s : State) (f : Die → Die) : (s.modDies f).jobs = s.jobs := rfl
@[simp] theorem State.modDies_dispatchCount (s : State) (f : Die → Die) : (s.modDies f).dispatchCount = s.dispatchCount := rfl
@[simp] theorem State.modDies_plans (s : State) (f : Die → Die) : (s.modDies f).plans = s.plans := rfl
@[simp] theorem State.modDies_worlds (s : State) (f : Die → Die) : (s.modDies f).worlds = s.worlds := rfl
@[simp] theorem State.modDies_bodies (s : State) (f : Die → Die) : (s.modDies f).bodies = s.bodies := rfl
@[simp] theorem State.modDies_syncs (s : State) (f : Die → Die) : (s.modDies f).syncs = s.syncs := rfl
@[simp] theorem State.modDies_openAborts (s : State) (f : Die → Die) : (s.modDies f).openAborts = s.openAborts := rfl
@[simp] theorem State.modDies_flows (s : State) (f : Die → Die) : (s.modDies f).flows = s.flows := rfl
@[simp] theorem State.modDies_chans (s : State) (f : Die → Die) : (s.modDies f).chans = s.chans := rfl
@[simp] theorem State.modDies_storeWrites (s : State) (f : Die → Die) : (s.modDies f).storeWrites = s.storeWrites := rfl
@[simp] theorem State.modDies_ctrl (s : State) (f : Die → Die) : (s.modDies f).ctrl = s.ctrl := rfl
@[simp] theorem State.modDies_sup (s : State) (f : Die → Die) : (s.modDies f).sup = s.sup := rfl
@[simp] theorem State.modDies_sideband (s : State) (f : Die → Die) : (s.modDies f).sideband = s.sideband := rfl
@[simp] theorem State.modDies_traceMem (s : State) (f : Die → Die) : (s.modDies f).traceMem = s.traceMem := rfl
@[simp] theorem State.modDies_testPort (s : State) (f : Die → Die) : (s.modDies f).testPort = s.testPort := rfl
@[simp] theorem State.modDies_host (s : State) (f : Die → Die) : (s.modDies f).host = s.host := rfl
@[simp] theorem State.modDies_badWrite (s : State) (f : Die → Die) : (s.modDies f).badWrite = s.badWrite := rfl
@[simp] theorem State.modDies_free (s : State) (f : Die → Die) : (s.modDies f).free = s.free := rfl
@[simp] theorem State.modDies_pending (s : State) (f : Die → Die) : (s.modDies f).pending = s.pending := rfl

/-! ### The registers changed: `modRegs` -/

@[simp] theorem State.modRegs_regs (s : State) (f : Regs → Regs) : (s.modRegs f).regs = f s.regs := rfl
@[simp] theorem State.modRegs_now (s : State) (f : Regs → Regs) : (s.modRegs f).now = s.now := rfl
@[simp] theorem State.modRegs_ident (s : State) (f : Regs → Regs) : (s.modRegs f).ident = s.ident := rfl
@[simp] theorem State.modRegs_dies (s : State) (f : Regs → Regs) : (s.modRegs f).dies = s.dies := rfl
@[simp] theorem State.modRegs_sec (s : State) (f : Regs → Regs) : (s.modRegs f).sec = s.sec := rfl
@[simp] theorem State.modRegs_boot (s : State) (f : Regs → Regs) : (s.modRegs f).boot = s.boot := rfl
@[simp] theorem State.modRegs_pins (s : State) (f : Regs → Regs) : (s.modRegs f).pins = s.pins := rfl
@[simp] theorem State.modRegs_pps (s : State) (f : Regs → Regs) : (s.modRegs f).pps = s.pps := rfl
@[simp] theorem State.modRegs_msix (s : State) (f : Regs → Regs) : (s.modRegs f).msix = s.msix := rfl
@[simp] theorem State.modRegs_ports (s : State) (f : Regs → Regs) : (s.modRegs f).ports = s.ports := rfl
@[simp] theorem State.modRegs_queues (s : State) (f : Regs → Regs) : (s.modRegs f).queues = s.queues := rfl
@[simp] theorem State.modRegs_jobs (s : State) (f : Regs → Regs) : (s.modRegs f).jobs = s.jobs := rfl
@[simp] theorem State.modRegs_dispatchCount (s : State) (f : Regs → Regs) : (s.modRegs f).dispatchCount = s.dispatchCount := rfl
@[simp] theorem State.modRegs_plans (s : State) (f : Regs → Regs) : (s.modRegs f).plans = s.plans := rfl
@[simp] theorem State.modRegs_worlds (s : State) (f : Regs → Regs) : (s.modRegs f).worlds = s.worlds := rfl
@[simp] theorem State.modRegs_bodies (s : State) (f : Regs → Regs) : (s.modRegs f).bodies = s.bodies := rfl
@[simp] theorem State.modRegs_syncs (s : State) (f : Regs → Regs) : (s.modRegs f).syncs = s.syncs := rfl
@[simp] theorem State.modRegs_openAborts (s : State) (f : Regs → Regs) : (s.modRegs f).openAborts = s.openAborts := rfl
@[simp] theorem State.modRegs_flows (s : State) (f : Regs → Regs) : (s.modRegs f).flows = s.flows := rfl
@[simp] theorem State.modRegs_chans (s : State) (f : Regs → Regs) : (s.modRegs f).chans = s.chans := rfl
@[simp] theorem State.modRegs_storeWrites (s : State) (f : Regs → Regs) : (s.modRegs f).storeWrites = s.storeWrites := rfl
@[simp] theorem State.modRegs_ctrl (s : State) (f : Regs → Regs) : (s.modRegs f).ctrl = s.ctrl := rfl
@[simp] theorem State.modRegs_sup (s : State) (f : Regs → Regs) : (s.modRegs f).sup = s.sup := rfl
@[simp] theorem State.modRegs_sideband (s : State) (f : Regs → Regs) : (s.modRegs f).sideband = s.sideband := rfl
@[simp] theorem State.modRegs_traceMem (s : State) (f : Regs → Regs) : (s.modRegs f).traceMem = s.traceMem := rfl
@[simp] theorem State.modRegs_testPort (s : State) (f : Regs → Regs) : (s.modRegs f).testPort = s.testPort := rfl
@[simp] theorem State.modRegs_host (s : State) (f : Regs → Regs) : (s.modRegs f).host = s.host := rfl
@[simp] theorem State.modRegs_badWrite (s : State) (f : Regs → Regs) : (s.modRegs f).badWrite = s.badWrite := rfl
@[simp] theorem State.modRegs_free (s : State) (f : Regs → Regs) : (s.modRegs f).free = s.free := rfl
@[simp] theorem State.modRegs_pending (s : State) (f : Regs → Regs) : (s.modRegs f).pending = s.pending := rfl

/-! ### A port changed: `modPort` -/

@[simp] theorem State.modPort_ports (s : State) (k : Nat) (f : Port → Port) : (s.modPort k f).ports = s.ports.modify k f := rfl
@[simp] theorem State.modPort_now (s : State) (k : Nat) (f : Port → Port) : (s.modPort k f).now = s.now := rfl
@[simp] theorem State.modPort_ident (s : State) (k : Nat) (f : Port → Port) : (s.modPort k f).ident = s.ident := rfl
@[simp] theorem State.modPort_dies (s : State) (k : Nat) (f : Port → Port) : (s.modPort k f).dies = s.dies := rfl
@[simp] theorem State.modPort_sec (s : State) (k : Nat) (f : Port → Port) : (s.modPort k f).sec = s.sec := rfl
@[simp] theorem State.modPort_boot (s : State) (k : Nat) (f : Port → Port) : (s.modPort k f).boot = s.boot := rfl
@[simp] theorem State.modPort_pins (s : State) (k : Nat) (f : Port → Port) : (s.modPort k f).pins = s.pins := rfl
@[simp] theorem State.modPort_pps (s : State) (k : Nat) (f : Port → Port) : (s.modPort k f).pps = s.pps := rfl
@[simp] theorem State.modPort_regs (s : State) (k : Nat) (f : Port → Port) : (s.modPort k f).regs = s.regs := rfl
@[simp] theorem State.modPort_msix (s : State) (k : Nat) (f : Port → Port) : (s.modPort k f).msix = s.msix := rfl
@[simp] theorem State.modPort_queues (s : State) (k : Nat) (f : Port → Port) : (s.modPort k f).queues = s.queues := rfl
@[simp] theorem State.modPort_jobs (s : State) (k : Nat) (f : Port → Port) : (s.modPort k f).jobs = s.jobs := rfl
@[simp] theorem State.modPort_dispatchCount (s : State) (k : Nat) (f : Port → Port) : (s.modPort k f).dispatchCount = s.dispatchCount := rfl
@[simp] theorem State.modPort_plans (s : State) (k : Nat) (f : Port → Port) : (s.modPort k f).plans = s.plans := rfl
@[simp] theorem State.modPort_worlds (s : State) (k : Nat) (f : Port → Port) : (s.modPort k f).worlds = s.worlds := rfl
@[simp] theorem State.modPort_bodies (s : State) (k : Nat) (f : Port → Port) : (s.modPort k f).bodies = s.bodies := rfl
@[simp] theorem State.modPort_syncs (s : State) (k : Nat) (f : Port → Port) : (s.modPort k f).syncs = s.syncs := rfl
@[simp] theorem State.modPort_openAborts (s : State) (k : Nat) (f : Port → Port) : (s.modPort k f).openAborts = s.openAborts := rfl
@[simp] theorem State.modPort_flows (s : State) (k : Nat) (f : Port → Port) : (s.modPort k f).flows = s.flows := rfl
@[simp] theorem State.modPort_chans (s : State) (k : Nat) (f : Port → Port) : (s.modPort k f).chans = s.chans := rfl
@[simp] theorem State.modPort_storeWrites (s : State) (k : Nat) (f : Port → Port) : (s.modPort k f).storeWrites = s.storeWrites := rfl
@[simp] theorem State.modPort_ctrl (s : State) (k : Nat) (f : Port → Port) : (s.modPort k f).ctrl = s.ctrl := rfl
@[simp] theorem State.modPort_sup (s : State) (k : Nat) (f : Port → Port) : (s.modPort k f).sup = s.sup := rfl
@[simp] theorem State.modPort_sideband (s : State) (k : Nat) (f : Port → Port) : (s.modPort k f).sideband = s.sideband := rfl
@[simp] theorem State.modPort_traceMem (s : State) (k : Nat) (f : Port → Port) : (s.modPort k f).traceMem = s.traceMem := rfl
@[simp] theorem State.modPort_testPort (s : State) (k : Nat) (f : Port → Port) : (s.modPort k f).testPort = s.testPort := rfl
@[simp] theorem State.modPort_host (s : State) (k : Nat) (f : Port → Port) : (s.modPort k f).host = s.host := rfl
@[simp] theorem State.modPort_badWrite (s : State) (k : Nat) (f : Port → Port) : (s.modPort k f).badWrite = s.badWrite := rfl
@[simp] theorem State.modPort_free (s : State) (k : Nat) (f : Port → Port) : (s.modPort k f).free = s.free := rfl
@[simp] theorem State.modPort_pending (s : State) (k : Nat) (f : Port → Port) : (s.modPort k f).pending = s.pending := rfl

/-! ### A queue changed: `modQueue` -/

@[simp] theorem State.modQueue_queues (s : State) (q : Nat) (f : Queue → Queue) : (s.modQueue q f).queues = s.queues.insert q (f (s.queue q)) := rfl
@[simp] theorem State.modQueue_now (s : State) (q : Nat) (f : Queue → Queue) : (s.modQueue q f).now = s.now := rfl
@[simp] theorem State.modQueue_ident (s : State) (q : Nat) (f : Queue → Queue) : (s.modQueue q f).ident = s.ident := rfl
@[simp] theorem State.modQueue_dies (s : State) (q : Nat) (f : Queue → Queue) : (s.modQueue q f).dies = s.dies := rfl
@[simp] theorem State.modQueue_sec (s : State) (q : Nat) (f : Queue → Queue) : (s.modQueue q f).sec = s.sec := rfl
@[simp] theorem State.modQueue_boot (s : State) (q : Nat) (f : Queue → Queue) : (s.modQueue q f).boot = s.boot := rfl
@[simp] theorem State.modQueue_pins (s : State) (q : Nat) (f : Queue → Queue) : (s.modQueue q f).pins = s.pins := rfl
@[simp] theorem State.modQueue_pps (s : State) (q : Nat) (f : Queue → Queue) : (s.modQueue q f).pps = s.pps := rfl
@[simp] theorem State.modQueue_regs (s : State) (q : Nat) (f : Queue → Queue) : (s.modQueue q f).regs = s.regs := rfl
@[simp] theorem State.modQueue_msix (s : State) (q : Nat) (f : Queue → Queue) : (s.modQueue q f).msix = s.msix := rfl
@[simp] theorem State.modQueue_ports (s : State) (q : Nat) (f : Queue → Queue) : (s.modQueue q f).ports = s.ports := rfl
@[simp] theorem State.modQueue_jobs (s : State) (q : Nat) (f : Queue → Queue) : (s.modQueue q f).jobs = s.jobs := rfl
@[simp] theorem State.modQueue_dispatchCount (s : State) (q : Nat) (f : Queue → Queue) : (s.modQueue q f).dispatchCount = s.dispatchCount := rfl
@[simp] theorem State.modQueue_plans (s : State) (q : Nat) (f : Queue → Queue) : (s.modQueue q f).plans = s.plans := rfl
@[simp] theorem State.modQueue_worlds (s : State) (q : Nat) (f : Queue → Queue) : (s.modQueue q f).worlds = s.worlds := rfl
@[simp] theorem State.modQueue_bodies (s : State) (q : Nat) (f : Queue → Queue) : (s.modQueue q f).bodies = s.bodies := rfl
@[simp] theorem State.modQueue_syncs (s : State) (q : Nat) (f : Queue → Queue) : (s.modQueue q f).syncs = s.syncs := rfl
@[simp] theorem State.modQueue_openAborts (s : State) (q : Nat) (f : Queue → Queue) : (s.modQueue q f).openAborts = s.openAborts := rfl
@[simp] theorem State.modQueue_flows (s : State) (q : Nat) (f : Queue → Queue) : (s.modQueue q f).flows = s.flows := rfl
@[simp] theorem State.modQueue_chans (s : State) (q : Nat) (f : Queue → Queue) : (s.modQueue q f).chans = s.chans := rfl
@[simp] theorem State.modQueue_storeWrites (s : State) (q : Nat) (f : Queue → Queue) : (s.modQueue q f).storeWrites = s.storeWrites := rfl
@[simp] theorem State.modQueue_ctrl (s : State) (q : Nat) (f : Queue → Queue) : (s.modQueue q f).ctrl = s.ctrl := rfl
@[simp] theorem State.modQueue_sup (s : State) (q : Nat) (f : Queue → Queue) : (s.modQueue q f).sup = s.sup := rfl
@[simp] theorem State.modQueue_sideband (s : State) (q : Nat) (f : Queue → Queue) : (s.modQueue q f).sideband = s.sideband := rfl
@[simp] theorem State.modQueue_traceMem (s : State) (q : Nat) (f : Queue → Queue) : (s.modQueue q f).traceMem = s.traceMem := rfl
@[simp] theorem State.modQueue_testPort (s : State) (q : Nat) (f : Queue → Queue) : (s.modQueue q f).testPort = s.testPort := rfl
@[simp] theorem State.modQueue_host (s : State) (q : Nat) (f : Queue → Queue) : (s.modQueue q f).host = s.host := rfl
@[simp] theorem State.modQueue_badWrite (s : State) (q : Nat) (f : Queue → Queue) : (s.modQueue q f).badWrite = s.badWrite := rfl
@[simp] theorem State.modQueue_free (s : State) (q : Nat) (f : Queue → Queue) : (s.modQueue q f).free = s.free := rfl
@[simp] theorem State.modQueue_pending (s : State) (q : Nat) (f : Queue → Queue) : (s.modQueue q f).pending = s.pending := rfl

/-! ### A job changed: `modJob` -/

@[simp] theorem State.modJob_jobs (s : State) (q n : Nat) (f : Job → Job) : (s.modJob q n f).jobs = s.jobs.map (fun j => if j.q = q && j.s = n then f j else j) := rfl
@[simp] theorem State.modJob_now (s : State) (q n : Nat) (f : Job → Job) : (s.modJob q n f).now = s.now := rfl
@[simp] theorem State.modJob_ident (s : State) (q n : Nat) (f : Job → Job) : (s.modJob q n f).ident = s.ident := rfl
@[simp] theorem State.modJob_dies (s : State) (q n : Nat) (f : Job → Job) : (s.modJob q n f).dies = s.dies := rfl
@[simp] theorem State.modJob_sec (s : State) (q n : Nat) (f : Job → Job) : (s.modJob q n f).sec = s.sec := rfl
@[simp] theorem State.modJob_boot (s : State) (q n : Nat) (f : Job → Job) : (s.modJob q n f).boot = s.boot := rfl
@[simp] theorem State.modJob_pins (s : State) (q n : Nat) (f : Job → Job) : (s.modJob q n f).pins = s.pins := rfl
@[simp] theorem State.modJob_pps (s : State) (q n : Nat) (f : Job → Job) : (s.modJob q n f).pps = s.pps := rfl
@[simp] theorem State.modJob_regs (s : State) (q n : Nat) (f : Job → Job) : (s.modJob q n f).regs = s.regs := rfl
@[simp] theorem State.modJob_msix (s : State) (q n : Nat) (f : Job → Job) : (s.modJob q n f).msix = s.msix := rfl
@[simp] theorem State.modJob_ports (s : State) (q n : Nat) (f : Job → Job) : (s.modJob q n f).ports = s.ports := rfl
@[simp] theorem State.modJob_queues (s : State) (q n : Nat) (f : Job → Job) : (s.modJob q n f).queues = s.queues := rfl
@[simp] theorem State.modJob_dispatchCount (s : State) (q n : Nat) (f : Job → Job) : (s.modJob q n f).dispatchCount = s.dispatchCount := rfl
@[simp] theorem State.modJob_plans (s : State) (q n : Nat) (f : Job → Job) : (s.modJob q n f).plans = s.plans := rfl
@[simp] theorem State.modJob_worlds (s : State) (q n : Nat) (f : Job → Job) : (s.modJob q n f).worlds = s.worlds := rfl
@[simp] theorem State.modJob_bodies (s : State) (q n : Nat) (f : Job → Job) : (s.modJob q n f).bodies = s.bodies := rfl
@[simp] theorem State.modJob_syncs (s : State) (q n : Nat) (f : Job → Job) : (s.modJob q n f).syncs = s.syncs := rfl
@[simp] theorem State.modJob_openAborts (s : State) (q n : Nat) (f : Job → Job) : (s.modJob q n f).openAborts = s.openAborts := rfl
@[simp] theorem State.modJob_flows (s : State) (q n : Nat) (f : Job → Job) : (s.modJob q n f).flows = s.flows := rfl
@[simp] theorem State.modJob_chans (s : State) (q n : Nat) (f : Job → Job) : (s.modJob q n f).chans = s.chans := rfl
@[simp] theorem State.modJob_storeWrites (s : State) (q n : Nat) (f : Job → Job) : (s.modJob q n f).storeWrites = s.storeWrites := rfl
@[simp] theorem State.modJob_ctrl (s : State) (q n : Nat) (f : Job → Job) : (s.modJob q n f).ctrl = s.ctrl := rfl
@[simp] theorem State.modJob_sup (s : State) (q n : Nat) (f : Job → Job) : (s.modJob q n f).sup = s.sup := rfl
@[simp] theorem State.modJob_sideband (s : State) (q n : Nat) (f : Job → Job) : (s.modJob q n f).sideband = s.sideband := rfl
@[simp] theorem State.modJob_traceMem (s : State) (q n : Nat) (f : Job → Job) : (s.modJob q n f).traceMem = s.traceMem := rfl
@[simp] theorem State.modJob_testPort (s : State) (q n : Nat) (f : Job → Job) : (s.modJob q n f).testPort = s.testPort := rfl
@[simp] theorem State.modJob_host (s : State) (q n : Nat) (f : Job → Job) : (s.modJob q n f).host = s.host := rfl
@[simp] theorem State.modJob_badWrite (s : State) (q n : Nat) (f : Job → Job) : (s.modJob q n f).badWrite = s.badWrite := rfl
@[simp] theorem State.modJob_free (s : State) (q n : Nat) (f : Job → Job) : (s.modJob q n f).free = s.free := rfl
@[simp] theorem State.modJob_pending (s : State) (q n : Nat) (f : Job → Job) : (s.modJob q n f).pending = s.pending := rfl

/-! ### A job that leaves: `dropJob` -/

@[simp] theorem State.dropJob_jobs (s : State) (q n : Nat) : (s.dropJob q n).jobs = s.jobs.filter (fun j => !(j.q = q && j.s = n)) := rfl
@[simp] theorem State.dropJob_now (s : State) (q n : Nat) : (s.dropJob q n).now = s.now := rfl
@[simp] theorem State.dropJob_ident (s : State) (q n : Nat) : (s.dropJob q n).ident = s.ident := rfl
@[simp] theorem State.dropJob_dies (s : State) (q n : Nat) : (s.dropJob q n).dies = s.dies := rfl
@[simp] theorem State.dropJob_sec (s : State) (q n : Nat) : (s.dropJob q n).sec = s.sec := rfl
@[simp] theorem State.dropJob_boot (s : State) (q n : Nat) : (s.dropJob q n).boot = s.boot := rfl
@[simp] theorem State.dropJob_pins (s : State) (q n : Nat) : (s.dropJob q n).pins = s.pins := rfl
@[simp] theorem State.dropJob_pps (s : State) (q n : Nat) : (s.dropJob q n).pps = s.pps := rfl
@[simp] theorem State.dropJob_regs (s : State) (q n : Nat) : (s.dropJob q n).regs = s.regs := rfl
@[simp] theorem State.dropJob_msix (s : State) (q n : Nat) : (s.dropJob q n).msix = s.msix := rfl
@[simp] theorem State.dropJob_ports (s : State) (q n : Nat) : (s.dropJob q n).ports = s.ports := rfl
@[simp] theorem State.dropJob_queues (s : State) (q n : Nat) : (s.dropJob q n).queues = s.queues := rfl
@[simp] theorem State.dropJob_dispatchCount (s : State) (q n : Nat) : (s.dropJob q n).dispatchCount = s.dispatchCount := rfl
@[simp] theorem State.dropJob_plans (s : State) (q n : Nat) : (s.dropJob q n).plans = s.plans := rfl
@[simp] theorem State.dropJob_worlds (s : State) (q n : Nat) : (s.dropJob q n).worlds = s.worlds := rfl
@[simp] theorem State.dropJob_bodies (s : State) (q n : Nat) : (s.dropJob q n).bodies = s.bodies := rfl
@[simp] theorem State.dropJob_syncs (s : State) (q n : Nat) : (s.dropJob q n).syncs = s.syncs := rfl
@[simp] theorem State.dropJob_openAborts (s : State) (q n : Nat) : (s.dropJob q n).openAborts = s.openAborts := rfl
@[simp] theorem State.dropJob_flows (s : State) (q n : Nat) : (s.dropJob q n).flows = s.flows := rfl
@[simp] theorem State.dropJob_chans (s : State) (q n : Nat) : (s.dropJob q n).chans = s.chans := rfl
@[simp] theorem State.dropJob_storeWrites (s : State) (q n : Nat) : (s.dropJob q n).storeWrites = s.storeWrites := rfl
@[simp] theorem State.dropJob_ctrl (s : State) (q n : Nat) : (s.dropJob q n).ctrl = s.ctrl := rfl
@[simp] theorem State.dropJob_sup (s : State) (q n : Nat) : (s.dropJob q n).sup = s.sup := rfl
@[simp] theorem State.dropJob_sideband (s : State) (q n : Nat) : (s.dropJob q n).sideband = s.sideband := rfl
@[simp] theorem State.dropJob_traceMem (s : State) (q n : Nat) : (s.dropJob q n).traceMem = s.traceMem := rfl
@[simp] theorem State.dropJob_testPort (s : State) (q n : Nat) : (s.dropJob q n).testPort = s.testPort := rfl
@[simp] theorem State.dropJob_host (s : State) (q n : Nat) : (s.dropJob q n).host = s.host := rfl
@[simp] theorem State.dropJob_badWrite (s : State) (q n : Nat) : (s.dropJob q n).badWrite = s.badWrite := rfl
@[simp] theorem State.dropJob_free (s : State) (q n : Nat) : (s.dropJob q n).free = s.free := rfl
@[simp] theorem State.dropJob_pending (s : State) (q n : Nat) : (s.dropJob q n).pending = s.pending := rfl

/-! ### A plan slot changed: `modSlot` -/

@[simp] theorem State.modSlot_plans (s : State) (i : Nat) (f : PlanSlot → PlanSlot) : (s.modSlot i f).plans = s.plans.insert i (f (s.planSlot i)) := rfl
@[simp] theorem State.modSlot_now (s : State) (i : Nat) (f : PlanSlot → PlanSlot) : (s.modSlot i f).now = s.now := rfl
@[simp] theorem State.modSlot_ident (s : State) (i : Nat) (f : PlanSlot → PlanSlot) : (s.modSlot i f).ident = s.ident := rfl
@[simp] theorem State.modSlot_dies (s : State) (i : Nat) (f : PlanSlot → PlanSlot) : (s.modSlot i f).dies = s.dies := rfl
@[simp] theorem State.modSlot_sec (s : State) (i : Nat) (f : PlanSlot → PlanSlot) : (s.modSlot i f).sec = s.sec := rfl
@[simp] theorem State.modSlot_boot (s : State) (i : Nat) (f : PlanSlot → PlanSlot) : (s.modSlot i f).boot = s.boot := rfl
@[simp] theorem State.modSlot_pins (s : State) (i : Nat) (f : PlanSlot → PlanSlot) : (s.modSlot i f).pins = s.pins := rfl
@[simp] theorem State.modSlot_pps (s : State) (i : Nat) (f : PlanSlot → PlanSlot) : (s.modSlot i f).pps = s.pps := rfl
@[simp] theorem State.modSlot_regs (s : State) (i : Nat) (f : PlanSlot → PlanSlot) : (s.modSlot i f).regs = s.regs := rfl
@[simp] theorem State.modSlot_msix (s : State) (i : Nat) (f : PlanSlot → PlanSlot) : (s.modSlot i f).msix = s.msix := rfl
@[simp] theorem State.modSlot_ports (s : State) (i : Nat) (f : PlanSlot → PlanSlot) : (s.modSlot i f).ports = s.ports := rfl
@[simp] theorem State.modSlot_queues (s : State) (i : Nat) (f : PlanSlot → PlanSlot) : (s.modSlot i f).queues = s.queues := rfl
@[simp] theorem State.modSlot_jobs (s : State) (i : Nat) (f : PlanSlot → PlanSlot) : (s.modSlot i f).jobs = s.jobs := rfl
@[simp] theorem State.modSlot_dispatchCount (s : State) (i : Nat) (f : PlanSlot → PlanSlot) : (s.modSlot i f).dispatchCount = s.dispatchCount := rfl
@[simp] theorem State.modSlot_worlds (s : State) (i : Nat) (f : PlanSlot → PlanSlot) : (s.modSlot i f).worlds = s.worlds := rfl
@[simp] theorem State.modSlot_bodies (s : State) (i : Nat) (f : PlanSlot → PlanSlot) : (s.modSlot i f).bodies = s.bodies := rfl
@[simp] theorem State.modSlot_syncs (s : State) (i : Nat) (f : PlanSlot → PlanSlot) : (s.modSlot i f).syncs = s.syncs := rfl
@[simp] theorem State.modSlot_openAborts (s : State) (i : Nat) (f : PlanSlot → PlanSlot) : (s.modSlot i f).openAborts = s.openAborts := rfl
@[simp] theorem State.modSlot_flows (s : State) (i : Nat) (f : PlanSlot → PlanSlot) : (s.modSlot i f).flows = s.flows := rfl
@[simp] theorem State.modSlot_chans (s : State) (i : Nat) (f : PlanSlot → PlanSlot) : (s.modSlot i f).chans = s.chans := rfl
@[simp] theorem State.modSlot_storeWrites (s : State) (i : Nat) (f : PlanSlot → PlanSlot) : (s.modSlot i f).storeWrites = s.storeWrites := rfl
@[simp] theorem State.modSlot_ctrl (s : State) (i : Nat) (f : PlanSlot → PlanSlot) : (s.modSlot i f).ctrl = s.ctrl := rfl
@[simp] theorem State.modSlot_sup (s : State) (i : Nat) (f : PlanSlot → PlanSlot) : (s.modSlot i f).sup = s.sup := rfl
@[simp] theorem State.modSlot_sideband (s : State) (i : Nat) (f : PlanSlot → PlanSlot) : (s.modSlot i f).sideband = s.sideband := rfl
@[simp] theorem State.modSlot_traceMem (s : State) (i : Nat) (f : PlanSlot → PlanSlot) : (s.modSlot i f).traceMem = s.traceMem := rfl
@[simp] theorem State.modSlot_testPort (s : State) (i : Nat) (f : PlanSlot → PlanSlot) : (s.modSlot i f).testPort = s.testPort := rfl
@[simp] theorem State.modSlot_host (s : State) (i : Nat) (f : PlanSlot → PlanSlot) : (s.modSlot i f).host = s.host := rfl
@[simp] theorem State.modSlot_badWrite (s : State) (i : Nat) (f : PlanSlot → PlanSlot) : (s.modSlot i f).badWrite = s.badWrite := rfl
@[simp] theorem State.modSlot_free (s : State) (i : Nat) (f : PlanSlot → PlanSlot) : (s.modSlot i f).free = s.free := rfl
@[simp] theorem State.modSlot_pending (s : State) (i : Nat) (f : PlanSlot → PlanSlot) : (s.modSlot i f).pending = s.pending := rfl

/-! ### A world slot changed: `modWorld` -/

@[simp] theorem State.modWorld_worlds (s : State) (w : Nat) (f : World → World) : (s.modWorld w f).worlds = s.worlds.insert w (f (s.world w)) := rfl
@[simp] theorem State.modWorld_now (s : State) (w : Nat) (f : World → World) : (s.modWorld w f).now = s.now := rfl
@[simp] theorem State.modWorld_ident (s : State) (w : Nat) (f : World → World) : (s.modWorld w f).ident = s.ident := rfl
@[simp] theorem State.modWorld_dies (s : State) (w : Nat) (f : World → World) : (s.modWorld w f).dies = s.dies := rfl
@[simp] theorem State.modWorld_sec (s : State) (w : Nat) (f : World → World) : (s.modWorld w f).sec = s.sec := rfl
@[simp] theorem State.modWorld_boot (s : State) (w : Nat) (f : World → World) : (s.modWorld w f).boot = s.boot := rfl
@[simp] theorem State.modWorld_pins (s : State) (w : Nat) (f : World → World) : (s.modWorld w f).pins = s.pins := rfl
@[simp] theorem State.modWorld_pps (s : State) (w : Nat) (f : World → World) : (s.modWorld w f).pps = s.pps := rfl
@[simp] theorem State.modWorld_regs (s : State) (w : Nat) (f : World → World) : (s.modWorld w f).regs = s.regs := rfl
@[simp] theorem State.modWorld_msix (s : State) (w : Nat) (f : World → World) : (s.modWorld w f).msix = s.msix := rfl
@[simp] theorem State.modWorld_ports (s : State) (w : Nat) (f : World → World) : (s.modWorld w f).ports = s.ports := rfl
@[simp] theorem State.modWorld_queues (s : State) (w : Nat) (f : World → World) : (s.modWorld w f).queues = s.queues := rfl
@[simp] theorem State.modWorld_jobs (s : State) (w : Nat) (f : World → World) : (s.modWorld w f).jobs = s.jobs := rfl
@[simp] theorem State.modWorld_dispatchCount (s : State) (w : Nat) (f : World → World) : (s.modWorld w f).dispatchCount = s.dispatchCount := rfl
@[simp] theorem State.modWorld_plans (s : State) (w : Nat) (f : World → World) : (s.modWorld w f).plans = s.plans := rfl
@[simp] theorem State.modWorld_bodies (s : State) (w : Nat) (f : World → World) : (s.modWorld w f).bodies = s.bodies := rfl
@[simp] theorem State.modWorld_syncs (s : State) (w : Nat) (f : World → World) : (s.modWorld w f).syncs = s.syncs := rfl
@[simp] theorem State.modWorld_openAborts (s : State) (w : Nat) (f : World → World) : (s.modWorld w f).openAborts = s.openAborts := rfl
@[simp] theorem State.modWorld_flows (s : State) (w : Nat) (f : World → World) : (s.modWorld w f).flows = s.flows := rfl
@[simp] theorem State.modWorld_chans (s : State) (w : Nat) (f : World → World) : (s.modWorld w f).chans = s.chans := rfl
@[simp] theorem State.modWorld_storeWrites (s : State) (w : Nat) (f : World → World) : (s.modWorld w f).storeWrites = s.storeWrites := rfl
@[simp] theorem State.modWorld_ctrl (s : State) (w : Nat) (f : World → World) : (s.modWorld w f).ctrl = s.ctrl := rfl
@[simp] theorem State.modWorld_sup (s : State) (w : Nat) (f : World → World) : (s.modWorld w f).sup = s.sup := rfl
@[simp] theorem State.modWorld_sideband (s : State) (w : Nat) (f : World → World) : (s.modWorld w f).sideband = s.sideband := rfl
@[simp] theorem State.modWorld_traceMem (s : State) (w : Nat) (f : World → World) : (s.modWorld w f).traceMem = s.traceMem := rfl
@[simp] theorem State.modWorld_testPort (s : State) (w : Nat) (f : World → World) : (s.modWorld w f).testPort = s.testPort := rfl
@[simp] theorem State.modWorld_host (s : State) (w : Nat) (f : World → World) : (s.modWorld w f).host = s.host := rfl
@[simp] theorem State.modWorld_badWrite (s : State) (w : Nat) (f : World → World) : (s.modWorld w f).badWrite = s.badWrite := rfl
@[simp] theorem State.modWorld_free (s : State) (w : Nat) (f : World → World) : (s.modWorld w f).free = s.free := rfl
@[simp] theorem State.modWorld_pending (s : State) (w : Nat) (f : World → World) : (s.modWorld w f).pending = s.pending := rfl

/-! ### A body slot changed: `modBody` -/

@[simp] theorem State.modBody_bodies (s : State) (b : Nat) (f : BodySlot → BodySlot) : (s.modBody b f).bodies = s.bodies.insert b (f (s.body b)) := rfl
@[simp] theorem State.modBody_now (s : State) (b : Nat) (f : BodySlot → BodySlot) : (s.modBody b f).now = s.now := rfl
@[simp] theorem State.modBody_ident (s : State) (b : Nat) (f : BodySlot → BodySlot) : (s.modBody b f).ident = s.ident := rfl
@[simp] theorem State.modBody_dies (s : State) (b : Nat) (f : BodySlot → BodySlot) : (s.modBody b f).dies = s.dies := rfl
@[simp] theorem State.modBody_sec (s : State) (b : Nat) (f : BodySlot → BodySlot) : (s.modBody b f).sec = s.sec := rfl
@[simp] theorem State.modBody_boot (s : State) (b : Nat) (f : BodySlot → BodySlot) : (s.modBody b f).boot = s.boot := rfl
@[simp] theorem State.modBody_pins (s : State) (b : Nat) (f : BodySlot → BodySlot) : (s.modBody b f).pins = s.pins := rfl
@[simp] theorem State.modBody_pps (s : State) (b : Nat) (f : BodySlot → BodySlot) : (s.modBody b f).pps = s.pps := rfl
@[simp] theorem State.modBody_regs (s : State) (b : Nat) (f : BodySlot → BodySlot) : (s.modBody b f).regs = s.regs := rfl
@[simp] theorem State.modBody_msix (s : State) (b : Nat) (f : BodySlot → BodySlot) : (s.modBody b f).msix = s.msix := rfl
@[simp] theorem State.modBody_ports (s : State) (b : Nat) (f : BodySlot → BodySlot) : (s.modBody b f).ports = s.ports := rfl
@[simp] theorem State.modBody_queues (s : State) (b : Nat) (f : BodySlot → BodySlot) : (s.modBody b f).queues = s.queues := rfl
@[simp] theorem State.modBody_jobs (s : State) (b : Nat) (f : BodySlot → BodySlot) : (s.modBody b f).jobs = s.jobs := rfl
@[simp] theorem State.modBody_dispatchCount (s : State) (b : Nat) (f : BodySlot → BodySlot) : (s.modBody b f).dispatchCount = s.dispatchCount := rfl
@[simp] theorem State.modBody_plans (s : State) (b : Nat) (f : BodySlot → BodySlot) : (s.modBody b f).plans = s.plans := rfl
@[simp] theorem State.modBody_worlds (s : State) (b : Nat) (f : BodySlot → BodySlot) : (s.modBody b f).worlds = s.worlds := rfl
@[simp] theorem State.modBody_syncs (s : State) (b : Nat) (f : BodySlot → BodySlot) : (s.modBody b f).syncs = s.syncs := rfl
@[simp] theorem State.modBody_openAborts (s : State) (b : Nat) (f : BodySlot → BodySlot) : (s.modBody b f).openAborts = s.openAborts := rfl
@[simp] theorem State.modBody_flows (s : State) (b : Nat) (f : BodySlot → BodySlot) : (s.modBody b f).flows = s.flows := rfl
@[simp] theorem State.modBody_chans (s : State) (b : Nat) (f : BodySlot → BodySlot) : (s.modBody b f).chans = s.chans := rfl
@[simp] theorem State.modBody_storeWrites (s : State) (b : Nat) (f : BodySlot → BodySlot) : (s.modBody b f).storeWrites = s.storeWrites := rfl
@[simp] theorem State.modBody_ctrl (s : State) (b : Nat) (f : BodySlot → BodySlot) : (s.modBody b f).ctrl = s.ctrl := rfl
@[simp] theorem State.modBody_sup (s : State) (b : Nat) (f : BodySlot → BodySlot) : (s.modBody b f).sup = s.sup := rfl
@[simp] theorem State.modBody_sideband (s : State) (b : Nat) (f : BodySlot → BodySlot) : (s.modBody b f).sideband = s.sideband := rfl
@[simp] theorem State.modBody_traceMem (s : State) (b : Nat) (f : BodySlot → BodySlot) : (s.modBody b f).traceMem = s.traceMem := rfl
@[simp] theorem State.modBody_testPort (s : State) (b : Nat) (f : BodySlot → BodySlot) : (s.modBody b f).testPort = s.testPort := rfl
@[simp] theorem State.modBody_host (s : State) (b : Nat) (f : BodySlot → BodySlot) : (s.modBody b f).host = s.host := rfl
@[simp] theorem State.modBody_badWrite (s : State) (b : Nat) (f : BodySlot → BodySlot) : (s.modBody b f).badWrite = s.badWrite := rfl
@[simp] theorem State.modBody_free (s : State) (b : Nat) (f : BodySlot → BodySlot) : (s.modBody b f).free = s.free := rfl
@[simp] theorem State.modBody_pending (s : State) (b : Nat) (f : BodySlot → BodySlot) : (s.modBody b f).pending = s.pending := rfl

/-! ### Host memory written: `writeHost`, `merge` -/

@[simp] theorem State.writeHost_now (s : State) (a : Nat) (bs : List Byte) : (s.writeHost a bs).now = s.now := by
  unfold State.writeHost; split <;> rfl
@[simp] theorem State.writeHost_ident (s : State) (a : Nat) (bs : List Byte) : (s.writeHost a bs).ident = s.ident := by
  unfold State.writeHost; split <;> rfl
@[simp] theorem State.writeHost_dies (s : State) (a : Nat) (bs : List Byte) : (s.writeHost a bs).dies = s.dies := by
  unfold State.writeHost; split <;> rfl
@[simp] theorem State.writeHost_sec (s : State) (a : Nat) (bs : List Byte) : (s.writeHost a bs).sec = s.sec := by
  unfold State.writeHost; split <;> rfl
@[simp] theorem State.writeHost_boot (s : State) (a : Nat) (bs : List Byte) : (s.writeHost a bs).boot = s.boot := by
  unfold State.writeHost; split <;> rfl
@[simp] theorem State.writeHost_pins (s : State) (a : Nat) (bs : List Byte) : (s.writeHost a bs).pins = s.pins := by
  unfold State.writeHost; split <;> rfl
@[simp] theorem State.writeHost_pps (s : State) (a : Nat) (bs : List Byte) : (s.writeHost a bs).pps = s.pps := by
  unfold State.writeHost; split <;> rfl
@[simp] theorem State.writeHost_regs (s : State) (a : Nat) (bs : List Byte) : (s.writeHost a bs).regs = s.regs := by
  unfold State.writeHost; split <;> rfl
@[simp] theorem State.writeHost_msix (s : State) (a : Nat) (bs : List Byte) : (s.writeHost a bs).msix = s.msix := by
  unfold State.writeHost; split <;> rfl
@[simp] theorem State.writeHost_ports (s : State) (a : Nat) (bs : List Byte) : (s.writeHost a bs).ports = s.ports := by
  unfold State.writeHost; split <;> rfl
@[simp] theorem State.writeHost_queues (s : State) (a : Nat) (bs : List Byte) : (s.writeHost a bs).queues = s.queues := by
  unfold State.writeHost; split <;> rfl
@[simp] theorem State.writeHost_jobs (s : State) (a : Nat) (bs : List Byte) : (s.writeHost a bs).jobs = s.jobs := by
  unfold State.writeHost; split <;> rfl
@[simp] theorem State.writeHost_dispatchCount (s : State) (a : Nat) (bs : List Byte) : (s.writeHost a bs).dispatchCount = s.dispatchCount := by
  unfold State.writeHost; split <;> rfl
@[simp] theorem State.writeHost_plans (s : State) (a : Nat) (bs : List Byte) : (s.writeHost a bs).plans = s.plans := by
  unfold State.writeHost; split <;> rfl
@[simp] theorem State.writeHost_worlds (s : State) (a : Nat) (bs : List Byte) : (s.writeHost a bs).worlds = s.worlds := by
  unfold State.writeHost; split <;> rfl
@[simp] theorem State.writeHost_bodies (s : State) (a : Nat) (bs : List Byte) : (s.writeHost a bs).bodies = s.bodies := by
  unfold State.writeHost; split <;> rfl
@[simp] theorem State.writeHost_syncs (s : State) (a : Nat) (bs : List Byte) : (s.writeHost a bs).syncs = s.syncs := by
  unfold State.writeHost; split <;> rfl
@[simp] theorem State.writeHost_openAborts (s : State) (a : Nat) (bs : List Byte) : (s.writeHost a bs).openAborts = s.openAborts := by
  unfold State.writeHost; split <;> rfl
@[simp] theorem State.writeHost_flows (s : State) (a : Nat) (bs : List Byte) : (s.writeHost a bs).flows = s.flows := by
  unfold State.writeHost; split <;> rfl
@[simp] theorem State.writeHost_chans (s : State) (a : Nat) (bs : List Byte) : (s.writeHost a bs).chans = s.chans := by
  unfold State.writeHost; split <;> rfl
@[simp] theorem State.writeHost_storeWrites (s : State) (a : Nat) (bs : List Byte) : (s.writeHost a bs).storeWrites = s.storeWrites := by
  unfold State.writeHost; split <;> rfl
@[simp] theorem State.writeHost_ctrl (s : State) (a : Nat) (bs : List Byte) : (s.writeHost a bs).ctrl = s.ctrl := by
  unfold State.writeHost; split <;> rfl
@[simp] theorem State.writeHost_sup (s : State) (a : Nat) (bs : List Byte) : (s.writeHost a bs).sup = s.sup := by
  unfold State.writeHost; split <;> rfl
@[simp] theorem State.writeHost_sideband (s : State) (a : Nat) (bs : List Byte) : (s.writeHost a bs).sideband = s.sideband := by
  unfold State.writeHost; split <;> rfl
@[simp] theorem State.writeHost_traceMem (s : State) (a : Nat) (bs : List Byte) : (s.writeHost a bs).traceMem = s.traceMem := by
  unfold State.writeHost; split <;> rfl
@[simp] theorem State.writeHost_testPort (s : State) (a : Nat) (bs : List Byte) : (s.writeHost a bs).testPort = s.testPort := by
  unfold State.writeHost; split <;> rfl
@[simp] theorem State.writeHost_free (s : State) (a : Nat) (bs : List Byte) : (s.writeHost a bs).free = s.free := by
  unfold State.writeHost; split <;> rfl
@[simp] theorem State.writeHost_pending (s : State) (a : Nat) (bs : List Byte) : (s.writeHost a bs).pending = s.pending := by
  unfold State.writeHost; split <;> rfl

@[simp] theorem State.merge_now (s : State) (hv : HostView) : (s.merge hv).now = s.now := rfl
@[simp] theorem State.merge_ident (s : State) (hv : HostView) : (s.merge hv).ident = s.ident := rfl
@[simp] theorem State.merge_dies (s : State) (hv : HostView) : (s.merge hv).dies = s.dies := rfl
@[simp] theorem State.merge_sec (s : State) (hv : HostView) : (s.merge hv).sec = s.sec := rfl
@[simp] theorem State.merge_boot (s : State) (hv : HostView) : (s.merge hv).boot = s.boot := rfl
@[simp] theorem State.merge_pins (s : State) (hv : HostView) : (s.merge hv).pins = s.pins := rfl
@[simp] theorem State.merge_pps (s : State) (hv : HostView) : (s.merge hv).pps = s.pps := rfl
@[simp] theorem State.merge_regs (s : State) (hv : HostView) : (s.merge hv).regs = s.regs := rfl
@[simp] theorem State.merge_msix (s : State) (hv : HostView) : (s.merge hv).msix = s.msix := rfl
@[simp] theorem State.merge_ports (s : State) (hv : HostView) : (s.merge hv).ports = s.ports := rfl
@[simp] theorem State.merge_queues (s : State) (hv : HostView) : (s.merge hv).queues = s.queues := rfl
@[simp] theorem State.merge_jobs (s : State) (hv : HostView) : (s.merge hv).jobs = s.jobs := rfl
@[simp] theorem State.merge_dispatchCount (s : State) (hv : HostView) : (s.merge hv).dispatchCount = s.dispatchCount := rfl
@[simp] theorem State.merge_plans (s : State) (hv : HostView) : (s.merge hv).plans = s.plans := rfl
@[simp] theorem State.merge_worlds (s : State) (hv : HostView) : (s.merge hv).worlds = s.worlds := rfl
@[simp] theorem State.merge_bodies (s : State) (hv : HostView) : (s.merge hv).bodies = s.bodies := rfl
@[simp] theorem State.merge_syncs (s : State) (hv : HostView) : (s.merge hv).syncs = s.syncs := rfl
@[simp] theorem State.merge_openAborts (s : State) (hv : HostView) : (s.merge hv).openAborts = s.openAborts := rfl
@[simp] theorem State.merge_flows (s : State) (hv : HostView) : (s.merge hv).flows = s.flows := rfl
@[simp] theorem State.merge_chans (s : State) (hv : HostView) : (s.merge hv).chans = s.chans := rfl
@[simp] theorem State.merge_storeWrites (s : State) (hv : HostView) : (s.merge hv).storeWrites = s.storeWrites := rfl
@[simp] theorem State.merge_ctrl (s : State) (hv : HostView) : (s.merge hv).ctrl = s.ctrl := rfl
@[simp] theorem State.merge_sup (s : State) (hv : HostView) : (s.merge hv).sup = s.sup := rfl
@[simp] theorem State.merge_sideband (s : State) (hv : HostView) : (s.merge hv).sideband = s.sideband := rfl
@[simp] theorem State.merge_traceMem (s : State) (hv : HostView) : (s.merge hv).traceMem = s.traceMem := rfl
@[simp] theorem State.merge_testPort (s : State) (hv : HostView) : (s.merge hv).testPort = s.testPort := rfl
@[simp] theorem State.merge_badWrite (s : State) (hv : HostView) : (s.merge hv).badWrite = s.badWrite := rfl
@[simp] theorem State.merge_free (s : State) (hv : HostView) : (s.merge hv).free = s.free := rfl
@[simp] theorem State.merge_pending (s : State) (hv : HostView) : (s.merge hv).pending = s.pending := rfl

/-! ### Reads after updates -/

/-- The die changed, read. -/
@[simp] theorem State.die_modDie (s : State) (d : Nat) (f : Die → Die) (h : d < s.n) : (s.modDie d f).die d = f (s.die d) := by
  simp only [State.n] at h
  simp [State.die, State.modDie, h]
/-- Another die, read. -/
@[simp] theorem State.die_modDie_other (s : State) (d e : Nat) (f : Die → Die) (h : e ≠ d) : (s.modDie d f).die e = s.die e := by
  simp [State.die, State.modDie, Ne.symm h]
/-- The part has as many dies as before. -/
@[simp] theorem State.n_modDie (s : State) (d : Nat) (f : Die → Die) : (s.modDie d f).n = s.n := by simp [State.n, State.modDie]
/-- The part has as many dies as before. -/
@[simp] theorem State.n_modDies (s : State) (f : Die → Die) : (s.modDies f).n = s.n := by simp [State.n, State.modDies]
/-- The port changed, read. -/
@[simp] theorem State.port_modPort (s : State) (k : Nat) (f : Port → Port) (h : k < s.ports.length) :
    (s.modPort k f).port k = f (s.port k) := by
  simp [State.port, State.modPort, h]
/-- Another port, read. -/
@[simp] theorem State.port_modPort_other (s : State) (k j : Nat) (f : Port → Port) (h : j ≠ k) : (s.modPort k f).port j = s.port j := by
  simp [State.port, State.modPort, Ne.symm h]
/-- A key set in a map, read. -/
theorem KMap.get_insert {α : Type} (v : α) : ∀ (m : KMap α) (a b : Nat), (m.insert a v).get b = if b = a then some v else m.get b
  | [], a, b => by
    by_cases h : b = a <;> simp [KMap.insert, KMap.get, h]
  | (k, w) :: m, a, b => by
    by_cases h1 : a < k
    · by_cases h : b = a
      · simp [KMap.insert, h1, KMap.get, h]
      · by_cases h2 : b < a
        · have h3 : b ≠ k := by omega
          have h4 : b < k := by omega
          simp [KMap.insert, h1, KMap.get, h, h2, h3, h4]
        · simp [KMap.insert, h1, KMap.get, h, h2]
    · by_cases h2 : a = k
      · subst h2
        by_cases h : b = a
        · simp [KMap.insert, KMap.get, h]
        · simp [KMap.insert, KMap.get, h]
      · by_cases h3 : b = k
        · subst h3
          simp [KMap.insert, h1, h2, KMap.get, Ne.symm h2]
        · by_cases h4 : b < k
          · have h5 : b ≠ a := by omega
            simp [KMap.insert, h1, h2, KMap.get, h3, h4, h5]
          · simpa [KMap.insert, h1, h2, KMap.get, h3, h4] using KMap.get_insert v m a b
/-- The queue changed, read. -/
@[simp] theorem State.queue_modQueue (s : State) (q : Nat) (f : Queue → Queue) : (s.modQueue q f).queue q = f (s.queue q) := by
  simp [State.queue, State.modQueue, KMap.getD, KMap.get_insert]
/-- Another queue, read. -/
@[simp] theorem State.queue_modQueue_other (s : State) (q p : Nat) (f : Queue → Queue) (h : p ≠ q) :
    (s.modQueue q f).queue p = s.queue p := by
  simp [State.queue, State.modQueue, KMap.getD, KMap.get_insert, h]
/-- The plan slot changed, read. -/
@[simp] theorem State.planSlot_modSlot (s : State) (i : Nat) (f : PlanSlot → PlanSlot) : (s.modSlot i f).planSlot i = f (s.planSlot i) := by
  simp [State.planSlot, State.modSlot, KMap.getD, KMap.get_insert]
/-- The world slot changed, read. -/
@[simp] theorem State.world_modWorld (s : State) (w : Nat) (f : World → World) : (s.modWorld w f).world w = f (s.world w) := by
  simp [State.world, State.modWorld, KMap.getD, KMap.get_insert]
/-- The body slot changed, read. -/
@[simp] theorem State.body_modBody (s : State) (b : Nat) (f : BodySlot → BodySlot) : (s.modBody b f).body b = f (s.body b) := by
  simp [State.body, State.modBody, KMap.getD, KMap.get_insert]

end Sys2Proof.Machine
end

