-- ==== Sys2Proof/WellFormed.lean ====
section
/-!
DEFINITION. Well-formed commands: every number names something that the spec gives the part (R3, R5, R411, R736).
-/
namespace Sys2Proof
open Sys2Proof.Machine (HostView OpRef)

/-- A queue number (R411). -/
def queueOk (q : Nat) : Bool := decide (q < 16384)
/-- A job serial (R411). -/
def serialOk (s : Nat) : Bool := decide (s < 2 ^ 48)
/-- A die number (R3). -/
def dieOk (d : Nat) : Bool := decide (d < 8)
/-- A sync object (R491). -/
def objectOk (o : Nat) : Bool := decide (o < 16384)
/-- A number below a bound, or none. -/
def slotOk (v : Option Nat) (n : Nat) : Bool := match v with | none => true | some x => decide (x < n)
/-- A host view writes only where host memory exists (R384). -/
def viewOk (hv : HostView) : Bool := hv.writes.all (fun w => decide (w.1 + w.2.length ≤ 2 ^ 57))
/-- An operation of an executing stage (R48, R53, R66). -/
def opOk (r : OpRef) : Bool := queueOk r.q && serialOk r.s && decide (r.stage < 64) && decide (r.lc < 64)

/-- Symbols of a line of 68 (R364), each with the bits in error. -/
def errsOk (l : List (Nat × Nat)) : Bool := l.all (fun e => decide (e.1 < 68 ∧ 0 < e.2 ∧ e.2 < 256))

/-- A command is well formed. -/
def Instr.wellFormed : Instr → Bool
  | .queueEnable p q hv die => decide (p < 2) && queueOk q && dieOk die && viewOk hv
  | .queueDrain p q die => decide (p < 2) && queueOk q && dieOk die
  | .queueWithdraw p q die => decide (p < 2) && queueOk q && dieOk die
  | .queueMove p q d => decide (p < 2) && queueOk q && dieOk d
  | .moveTransfer q => queueOk q
  | .groupEnable p g => decide (p < 2) && decide (g < 16)
  | .groupDrain p g => decide (p < 2) && decide (g < 16)
  | .groupWithdraw p g => decide (p < 2) && decide (g < 16)
  | .secBootGo p hv => decide (p < 2) && viewOk hv
  | .challenge p => decide (p < 2)
  | .keyLoad p hv => decide (p < 2) && viewOk hv
  | .keyFuse p hv _ => decide (p < 2) && viewOk hv
  | .keyRevoke p hv _ => decide (p < 2) && viewOk hv
  | .rollbackCommit p hv _ => decide (p < 2) && viewOk hv
  | .signRequire p hv _ => decide (p < 2) && viewOk hv
  | .lcField p hv _ => decide (p < 2) && viewOk hv
  | .debugUnlock p hv => decide (p < 2) && viewOk hv
  | .relock p hv => decide (p < 2) && viewOk hv
  | .injectUnlock p hv => decide (p < 2) && viewOk hv
  | .lcReturn p hv _ => decide (p < 2) && viewOk hv
  | .lcScrap p hv _ => decide (p < 2) && viewOk hv
  | .queueReset p q die cl => decide (p < 2) && queueOk q && dieOk die && decide (cl < 8)
  | .clusterReset p d c queue => decide (p < 2) && dieOk d && decide (c < 8) && queueOk queue
  | .dieReset p d cl queue => decide (p < 2) && dieOk d && decide (cl < 8) && queueOk queue
  | .packageWarmReset p die cl queue => decide (p < 2) && dieOk die && decide (cl < 8) && queueOk queue
  | .packageResetArmExpiry => true
  | .diePowerD0 p d _ _ => decide (p < 2) && dieOk d
  | .diePowerD1 p d _ _ => decide (p < 2) && dieOk d
  | .diePowerD3 p d _ _ => decide (p < 2) && dieOk d
  | .clusterDisable p d _ _ => decide (p < 2) && dieOk d
  | .ldgCtlStart p hv => decide (p < 2) && viewOk hv
  | .portEnable p k => decide (p < 2) && decide (k < 2)
  | .beat p _ _ => decide (p < 2)
  | .ppsArm p => decide (p < 2)
  | .arbFreeze p d _ _ => decide (p < 2) && dieOk d
  | .arbClear p d _ => decide (p < 2) && dieOk d
  | .gapMaxClear p d k => decide (p < 2) && dieOk d && decide (k < 4)
  | .traceIndexReset p d => decide (p < 2) && dieOk d
  | .errConsumedAdvance p _ => decide (p < 2)
  | .errorRingEnable p _ => decide (p < 2)
  | .hbmDivisionWrite p _ _ => decide (p < 2)
  | .injectArm p d i _ => decide (p < 2) && dieOk d && decide (i < 8)
  | .vectorUnmask p v => decide (p < 2) && slotOk v 2048
  | .lowerHalfRead p _ width => decide (p < 2) && decide (width = 4 || width = 8)
  | .registerWrite p _ width _ => decide (p < 2) && decide (width = 4 || width = 8)
  | .bar2Read p _ _ => decide (p < 2)
  | .bar2Write p _ _ => decide (p < 2)
  | .sidebandWrite _ _ _ => true
  | .sidebandRead _ _ => true
  | .sbReset _ _ => true
  | .sidebandBusTimeout => true
  | .doorbellSnoop k q => decide (k < 2) && queueOk q
  | .doorbellLineRead k q hv => decide (k < 2) && queueOk q && viewOk hv
  | .doorbellSweep k hv => decide (k < 2) && viewOk hv
  | .doorbellPoll k hv => decide (k < 2) && viewOk hv
  | .doorbellDelivery q => queueOk q
  | .descriptorRead q => queueOk q
  | .descriptorArrival q hv => queueOk q && viewOk hv
  | .orderingReadComplete d hv => dieOk d && viewOk hv
  | .backlog q => queueOk q
  | .fetchStallUpdate q => queueOk q
  | .waitMet q s => queueOk q && serialOk s
  | .gtcBinding q s => queueOk q && serialOk s
  | .waitTimeout q s => queueOk q && serialOk s
  | .deadlineExpiry q s => queueOk q && serialOk s
  | .stageTimeout q s st => queueOk q && serialOk s && decide (st < 64)
  | .syncWatch q s => queueOk q && serialOk s
  | .syncNotify o d => objectOk o && dieOk d
  | .flowReq q s => queueOk q && serialOk s
  | .flowGrant f => decide (f < 65536)
  | .flowHomeRebuild f => decide (f < 65536)
  | .nextDispatch d p hv => dieOk d && decide (p < 4) && viewOk hv
  | .reservationRequest d q s => dieOk d && queueOk q && serialOk s
  | .nop q s => queueOk q && serialOk s
  | .run q s => queueOk q && serialOk s
  | .loadPlan q s => queueOk q && serialOk s
  | .planImageFetched i hv => decide (i < 256) && viewOk hv
  | .signatureVerified i => decide (i < 256)
  | .weightBlobFetched i hv => decide (i < 256) && viewOk hv
  | .planReplicated i => decide (i < 256)
  | .dropPlan q s => queueOk q && serialOk s
  | .dropPlanUnpinned i => decide (i < 256)
  | .latticeLoad q s hv => queueOk q && serialOk s && viewOk hv
  | .bodyLoad q s hv => queueOk q && serialOk s && viewOk hv
  | .bodyReplicated b => decide (b < 1024)
  | .release q s => queueOk q && serialOk s
  | .releaseUnpinned w => decide (w < 64)
  | .worldUpdate q s hv => queueOk q && serialOk s && viewOk hv
  | .worldVersionRoom w => decide (w < 64)
  | .worldDataReceived d w => dieOk d && decide (w < 64)
  | .worldRecordApply d w _ => dieOk d && decide (w < 64)
  | .prepared d w => dieOk d && decide (w < 64)
  | .prepareLost d w => dieOk d && decide (w < 64)
  | .abandon w => decide (w < 64)
  | .commit d w => dieOk d && decide (w < 64)
  | .commitAck d w => dieOk d && decide (w < 64)
  | .visible d w => dieOk d && decide (w < 64)
  | .signalPost q s => queueOk q && serialOk s
  | .signalFire q s => queueOk q && serialOk s
  | .signalInit q s => queueOk q && serialOk s
  | .suspend q s => queueOk q && serialOk s
  | .resume q s => queueOk q && serialOk s
  | .cancel q s => queueOk q && serialOk s
  | .attest q s _ => queueOk q && serialOk s
  | .stageLaunchMessage d q s st => dieOk d && queueOk q && serialOk s && decide (st < 64)
  | .bugleArrive d q s st => dieOk d && queueOk q && serialOk s && decide (st < 64)
  | .bugleGo d q s st => dieOk d && queueOk q && serialOk s && decide (st < 64)
  | .stageLaunch d q s st => dieOk d && queueOk q && serialOk s && decide (st < 64)
  | .logicalClusterSwap d c q s lc => dieOk d && decide (c < 5) && queueOk q && serialOk s && decide (lc < 64)
  | .matrixMultiply r hv faults _ => opOk r && viewOk hv && faults.all (fun f => decide (f.col < 520))
  | .batchedMatrixMultiply r hv faults _ => opOk r && viewOk hv && faults.all (fun f => decide (f.col < 520))
  | .fusedAttention r hv faults _ _ => opOk r && viewOk hv && faults.all (fun f => decide (f.col < 520))
  | .temporalConvolution r hv faults _ => opOk r && viewOk hv && faults.all (fun f => decide (f.col < 520))
  | .elementwise r hv _ _ => opOk r && viewOk hv
  | .normalisation r hv _ _ => opOk r && viewOk hv
  | .activation r hv _ _ => opOk r && viewOk hv
  | .reduction r hv _ _ => opOk r && viewOk hv
  | .gather r hv _ => opOk r && viewOk hv
  | .scatter r hv _ _ => opOk r && viewOk hv
  | .randomGeneration r hv _ _ => opOk r && viewOk hv
  | .pointForwardKinematics r hv _ => opOk r && viewOk hv
  | .intervalForwardKinematics r hv _ => opOk r && viewOk hv
  | .pointDistance r hv => opOk r && viewOk hv
  | .distanceWithGradient r hv => opOk r && viewOk hv
  | .sphereTest r hv => opOk r && viewOk hv
  | .capsuleTest r hv => opOk r && viewOk hv
  | .sweptSphereTest r hv => opOk r && viewOk hv
  | .topK r hv _ => opOk r && viewOk hv
  | .merge r hv _ => opOk r && viewOk hv
  | .listArrival r _ => opOk r
  | .factor r hv _ _ => opOk r && viewOk hv
  | .solve r hv _ _ => opOk r && viewOk hv
  | .riccatiSweep r hv _ _ => opOk r && viewOk hv
  | .refine r hv _ _ => opOk r && viewOk hv
  | .warmStoreWrite d _ => dieOk d
  | .copy r hv _ => opOk r && viewOk hv
  | .checkValueWrap r hv _ => opOk r && viewOk hv
  | .checkValueUnwrap r hv _ => opOk r && viewOk hv
  | .checkValueScan r hv _ => opOk r && viewOk hv
  | .digest r hv _ => opOk r && viewOk hv
  | .operationComplete r hv => opOk r && viewOk hv
  | .checkpointWritten q s => queueOk q && serialOk s
  | .queryPacketSend d c _ => dieOk d && decide (c < 5)
  | .queryPacketArrival d _ _ => dieOk d
  | .fragment d _ _ => dieOk d
  | .partialResult d c => dieOk d && decide (c < 5)
  | .resultRecord d c _ => dieOk d && decide (c < 5)
  | .lineFill d _ _ => dieOk d
  | .hbmReadOutcome d pc line errs sev job => dieOk d && decide (pc < 32) && decide (line < 11796480) && errsOk errs && decide (sev < 3) &&
      (match job with | some j => queueOk j.1 && serialOk j.2 | none => true)
  | .hbmRepaired d pc line => dieOk d && decide (pc < 32) && decide (line < 11796480)
  | .scrub d pc line errs sev _ => dieOk d && decide (pc < 32) && decide (line < 11796480) && errsOk errs && decide (sev < 3)
  | .bankIdle d c => dieOk d && decide (c < 5)
  | .bankExit d c b => dieOk d && decide (c < 5) && decide (b < 66)
  | .dmaAge d c => dieOk d && decide (c < 5)
  | .lockMaxHold d _ => dieOk d
  | .linkDown k => decide (k < 2)
  | .retrainLimitExpiry k hv => decide (k < 2) && viewOk hv
  | .completionTimeout k hv => decide (k < 2) && viewOk hv
  | .linkError k hv => decide (k < 2) && viewOk hv
  | .laneRepair _ d k _ => dieOk d && decide (k < 4)
  | .hostReadError d _ q s => dieOk d && queueOk q && serialOk s
  | .msixHoldoff k v => decide (k < 2) && decide (v < 2048)
  | .umlinLinkLost d k => dieOk d && decide (k < 4)
  | .heartbeatSend d => dieOk d
  | .heartbeat a d => dieOk a && dieOk d
  | .livenessAdvance d => dieOk d
  | .heartbeatAbsence d a => dieOk d && dieOk a
  | .livenessStall d a => dieOk d && dieOk a
  | .leaseExpiry d => dieOk d
  | .fenceWaitEnd hv => viewOk hv
  | .ledgerIoRetry d _ => dieOk d
  | .partitionMismatch d p _ _ _ _ => dieOk d && decide (p < 4)
  | .unitFault d _ _ => dieOk d
  | .suspectTest d _ _ => dieOk d
  | .tinkerSliceStart d _ _ => dieOk d
  | .tinkerSliceEnd d _ _ _ => dieOk d
  | .testOverdue d _ => dieOk d
  | .errorRecord d => dieOk d
  | .powerEstimate d _ _ => dieOk d
  | .powerDivision => true
  | .thermalSample d temp => dieOk d && decide (temp < 65536)
  | .alertRelease => true
  | .heartbeatLost => true
  | .healthyRise => true
  | .powerOnReset _ _ _ => true
  | .rootPllLock => true
  | .linkTrainingDone k _ _ _ => decide (k < 2)
  | .gtcStart => true
  | .memReady hv => viewOk hv
  | .ppsEdge => true
  | .ppsLost => true
  | .tamper _ => true
  | .glitch => true
  | .keyUnwrap d _ => dieOk d
  | .traceMemoryInit _ _ => true
  | .rpReadTimeout => true
  | .avsFallback d _ => dieOk d
  | .porstNAssert => true
  | .linkRetrained k _ _ _ => decide (k < 2)
  | .testPortCycle _ _ _ => true
  | .atGtcInjection d i => dieOk d && decide (i < 8)
  | .safetyWindowClose i => decide (i < 8)
  | .timeRecord d => dieOk d
  | .syncHolderCopy o => objectOk o
  | .diverseRegionCopy q s st _ => queueOk q && serialOk s && decide (st < 64)

end Sys2Proof
end

