-- ==== Sys2Proof/Tests/Slice0.lean ====
section
/-!
SUPPORT. Tests: ill-formed commands that the check refuses, worked values of the spec, and for every statement states and operands that meet its
hypotheses, each clause's own, with what the command leaves there.
-/
namespace Sys2Proof.Tests
set_option Elab.async false
open Sys2Proof Sys2Proof.Machine

/-- The state a command leaves. -/
def after (s : State) (c : Instr) : State := match exec c s with | .next t => t | _ => State.reset

/-- A part at work: out of reset, firmware running, both ports in service, every GTC running. -/
def up : State :=
  { State.reset with
    now := 1000000
    boot := { State.reset.boot with held := false, pll := true, memReady := true, fwReady := true, gtcStarted := true }
    ports := State.reset.ports.map (fun x => { x with st := .inService, trained := true })
    dies := State.reset.dies.map (fun x => { x with gtcRun := true, gtc := 5000 })
    sup := { State.reset.sup with die := some 0, logDie := some 0 } }

/-- A die of a state changed. -/
def withDie (s : State) (d : Nat) (f : Die → Die) : State := s.modDie d f

/-- Every die but die 0 lost. -/
def solo (s : State) : State := { s with dies := s.dies.mapIdx (fun d x => if d = 0 then x else { x with lost := true }) }


/-! ### Well-formed commands -/

theorem test_ill_formed_port : (Instr.queueDrain 2 0 0).wellFormed = false := by decide
theorem test_ill_formed_queue : (Instr.queueDrain 0 16384 0).wellFormed = false := by decide
theorem test_ill_formed_serial : (Instr.nop 0 (2 ^ 48)).wellFormed = false := by decide
theorem test_ill_formed_die : (Instr.dieReset 0 8 0 0).wellFormed = false := by decide
theorem test_ill_formed_cluster : (Instr.clusterReset 0 0 8 0).wellFormed = false := by decide
theorem test_ill_formed_object : (Instr.syncNotify 16384 0).wellFormed = false := by decide
theorem test_ill_formed_vector : (Instr.vectorUnmask 0 (some 2048)).wellFormed = false := by decide
theorem test_ill_formed_view : (Instr.memReady ⟨[(2 ^ 57, [0])], []⟩).wellFormed = false := by decide
theorem test_ill_formed_operation : (Instr.gather ⟨0, 0, 64, 0, 0, 0⟩ HostView.quiet).wellFormed = false := by decide
theorem test_ill_formed_symbols : (Instr.scrub 0 0 0 [(68, 1)] 0).wellFormed = false := by decide
theorem test_ill_formed_width : (Instr.registerWrite 0 0 2 0).wellFormed = false := by decide
theorem test_ill_formed_slot : (Instr.injectArm 0 0 8 0).wellFormed = false := by decide
theorem test_well_formed : (Instr.queueDrain 1 16383 0).wellFormed = true ∧ (Instr.nop 16383 (2 ^ 48 - 1)).wellFormed = true ∧
    (Instr.clusterReset 1 7 4 0).wellFormed = true ∧ (Instr.registerWrite 0 0 8 0).wellFormed = true := by decide +kernel
/-- No row of the table gives bits, so no word spells a command. -/
theorem test_no_word_is_a_command : decodeTableWord 32 0 = none ∧ (up.withFetchWord 16 5).pending = [] := by decide

/-! ### The block as a whole -/

theorem witness_StepRunsTheFrontCommand :
    ({ up with pending := [.sidebandBusTimeout, .gtcStart] } : State).pending = .sidebandBusTimeout :: [.gtcStart] ∧
    (match step { up with pending := [.sidebandBusTimeout, .gtcStart] } with | .next t => decide (t.pending = [.gtcStart]) | _ => false) = true := by decide +kernel
theorem witness_EmptyQueueLetsOneClockPeriodPass : up.pending = [] ∧ up.badWrite = none ∧
    (match step up with | .next t => decide (t.now = 1000001 ∧ t.gtc 3 = 5001 ∧ t.regs = up.regs) | _ => false) = true := by decide +kernel
theorem witness_EmptyQueue_bad_write : ({ up with badWrite := some (2 ^ 57) } : State).badWrite = some (2 ^ 57) ∧
    (match step { up with badWrite := some (2 ^ 57) } with | .fault f => decide (f = .hostAddress (2 ^ 57)) | _ => false) = true := by decide +kernel
/-- A die whose every arbiter is frozen. -/
def frozenDie (s : State) (d : Nat) : State :=
  withDie s d (fun x => { x with arbs := (List.range 75).map (fun i => (i, { Arb.reset with freeze := true })) })
theorem witness_EmptyQueue_trace_in_hbm :
    let s : State := { up with regs := { up.regs with rcdDest := 2 } }
    s.pending = [] ∧ s.badWrite = none ∧ s.regs.rcdDest = 2 ∧ (∀ x ∈ s.dies, x.injected = [] ∧ ∀ i ∈ x.inj, i.arm = false) ∧ (s.die 3).trace.buf = [] ∧
    (match step s with | .next t => decide (t.now = 1000001 ∧ (t.die 3).hbm = (s.die 3).hbm) | _ => false) = true := by decide +kernel
theorem witness_EveryStepKeepsTheInvariant : up.Inv ∧ ∃ t, step up = .next t :=
  ⟨by unfold State.Inv State.FatalShown; decide, _, rfl⟩
theorem witness_NoStepUndoesAFuse : ∃ t, step { up with pending := [.tamper 0] } = .next t := ⟨_, rfl⟩
theorem witness_WorkLeavesTheBoardAlone : workOnly (.queueDrain 0 0 0) = true ∧ ∃ t, exec (.queueDrain 0 0 0) up = .next t := ⟨rfl, _, rfl⟩

/-! ### Registers -/

/-- QTB_BASE in halves: staged, then taken; captured by the read of its lower half. -/
theorem witness_WideRegisters :
    up.portUp 0 = true ∧ up.lookReg 0x08030000 = some (.r64 0) ∧ up.lookReg 0x08030004 = none ∧
    ¬ (0x08030000 < 0x08000000 ∧ (up.die (0x08030000 / 0x1000000)).lost = true) ∧ up.boot.fwReady = true ∧ up.overtaken 0 0x08030000 = false := by decide +kernel
theorem witness_WideRegisters_halves :
    (after (after up (.registerWrite 0 0x08030000 4 0x1000)) (.registerWrite 0 0x08030004 4 2)).regs.qtbBase = 0x200001000 ∧
    (after up (.registerWrite 0 0x08030000 4 0x1000)).regs.qtbBase = 0 ∧
    (after (after up (.registerWrite 0 0x08030000 8 0x200001000)) (.lowerHalfRead 0 0x08030000 4)).regs.readData = natLE 4 0x1000 ∧
    (after (after (after up (.registerWrite 0 0x08030000 8 0x200001000)) (.lowerHalfRead 0 0x08030000 4)) (.lowerHalfRead 0 0x08030004 4)).regs.readData = natLE 4 2 ∧
    (after (after up (.registerWrite 0 0x08030000 8 0x200001000)) (.lowerHalfRead 0 0x08030000 8)).regs.readData = natLE 8 0x200001000 := by
  decide +kernel
/-- A write of H1 to an offset in this CCLK period. -/
def wroteH1 (s : State) (off : Nat) : State := { s with regs := { s.regs with h1At := [(off, s.now)] } }
theorem witness_WideRegisters_overtaken :
    (wroteH1 up 0x08030000).overtaken 0 0x08030000 = true ∧ (after (wroteH1 up 0x08030000) (.registerWrite 0 0x08030000 8 0x200001000)).regs.qtbBase = 0 ∧
    (after (wroteH1 up 0x08030000) (.registerWrite 1 0x08030000 8 0x200001000)).regs.qtbBase = 0x200001000 := by decide +kernel
theorem witness_WideRegisters_capture :
    let u : State := { up with regs := { up.regs with captured := [(halfKey 0 0x08030004, 7)] } }
    u.portUp 0 = true ∧ u.boot.fwReady = true ∧ u.regs.captured.get (halfKey 0 0x08030004) = some 7 ∧ u.lookReg 0x08030000 = some (.r64 0) ∧
    u.lookReg 0x08030004 = none ∧ (after u (.lowerHalfRead 0 0x08030004 4)).regs.readData = natLE 4 7 := by decide +kernel
theorem witness_WideRegisters_die :
    let v := withDie up 2 (fun x => { x with injUnlocked := true })
    up.arbOpen (up.overUmlin 0 2 2 2) = true ∧ (up.overUmlin 0 2 2 2) ≠ [] ∧ (up.granted (up.overUmlin 0 2 2 2)).lookReg 0x02020000 = some (.r64 1015) ∧
    up.lookReg 0x02020004 = none ∧ (up.die 2).lost = false ∧
    (after v (.registerWrite 0 0x02040108 4 7)).regs.staged.get (halfKey 0 0x02040108) = some 7 ∧
    (((after v (.registerWrite 0 0x02040108 8 0x100000007)).die 2).inj[0]?).map (·.where_) = some 0x100000007 ∧
    (after up (.lowerHalfRead 0 0x02020000 8)).regs.readData = natLE 8 1015 := by decide +kernel
/-- Die 0 retries what it sent towards die `d`, and holds what is new on that way. -/
def retryUp (d : Nat) : State := { up with ctrl := [⟨0, d, .heartbeat, true⟩] }
/-- Die 3, lost. -/
def dieLost : State := withDie up 3 (fun x => { x with lost := true })
theorem witness_LostDieWindow : dieLost.takes 1 = true ∧ 3 < dieLost.n ∧ (dieLost.die 3).lost = true ∧ 0x3000000 / 0x1000000 = 3 ∧ 0x3000000 % 8 = 0 ∧
    (after dieLost (.lowerHalfRead 1 0x3000000 8)).regs.readData = natLE 8 0xFFFFFFFFFFFFFFFF ∧
    (after dieLost (.lowerHalfRead 1 0x3000000 4)).regs.readData = natLE 4 0xFFFFFFFF ∧ (after dieLost (.registerWrite 1 0x3FFFFFC 4 1)).regs.lostWin = true ∧
    (after dieLost (.arbFreeze 1 3 0 true)).regs.lostWin = true ∧ after dieLost (.diePowerD3 0 3 0 0) = after dieLost (.injectArm 0 3 0 9) := by decide +kernel
theorem witness_RegisterWriteClamps : up.takes 0 = true ∧ up.overtaken 0 0x0800001C = false ∧ up.overtaken 0 0x08050044 = false ∧ (wroteH1 up 0x080A0004).overtaken 0 0x080A0004 = true ∧
    (after (after up (.registerWrite 1 0x080A0004 4 9)) (.registerWrite 0 0x080A0004 4 8)).regs.retIdle = 9 ∧
    (after up (.registerWrite 0 0x0800001C 4 9)).regs.retrainLimit = 10 ∧
    (after up (.registerWrite 0 0x08030018 4 0)).regs.backlogTime = 1 ∧ (after up (.registerWrite 0 0x08050008 4 (2 ^ 32 - 1))).regs.bugleLead = 4096 ∧
    (after up (.registerWrite 0 0x08050044 4 0)).regs.weight[1]? = some 1 ∧ (after up (.registerWrite 0 0x0805007C 4 300)).regs.weight[15]? = some 255 ∧
    (after up (.registerWrite 0 0x08000024 4 1001)).regs.dbSweep = 1000 ∧ (after up (.registerWrite 0 0x080A0004 4 0)).regs.retIdle = 1 ∧
    (after up (.registerWrite 0 0x08060014 4 7)).regs.rcdEventMask = 6 := by decide +kernel
theorem witness_SetUpCommands : up.takes 0 = true ∧ 2 < up.n ∧ (up.die 2).lost = false ∧ ((after up (.arbFreeze 0 2 74 true)).die 2).arb 74 = { Arb.reset with freeze := true } ∧
    ((after up (.arbClear 0 2 74)).die 2).arb 74 = Arb.reset ∧ (after (withDie up 2 (fun x => { x with trace := { x.trace with wrIndex := 5 } })) (.traceIndexReset 0 2)).die 2 = up.die 2 ∧
    (after (up.modPart 2 3 (fun x => { x with gapMax := 5 })) (.gapMaxClear 0 2 3)).part 2 3 = up.part 2 3 ∧
    ((after (up.modPart 2 3 (fun x => { x with gapMax := 5, gapSeen := (1000000, 4) })) (.gapMaxClear 0 2 3)).part 2 3).gapMax = 4 ∧
    ((after (withDie up 2 (fun x => { x with arbs := [(74, { Arb.reset with counters := [(1, (9, 0, 0))], recent := (1000000, [1]) })] })) (.arbClear 0 2 74)).die 2).arb 74 =
      { Arb.reset with counters := [(1, (1, 0, 0))], recent := (1000000, [1]) } := by decide +kernel
theorem witness_SetUpCommands_way :
    (retryUp 2).arbOpen ((retryUp 2).overUmlin 0 2 2 2) = false ∧ ((after (retryUp 2) (.arbFreeze 0 2 74 true)).die 2).arb 74 = Arb.reset ∧ up.arbOpen (up.overUmlin 0 2 2 2) = true ∧
    ((after up (.arbFreeze 0 2 69 true)).die 2).arb 69 = { (up.die 2).arb 69 with freeze := true } ∧
    ((after (frozenDie up 2) (.arbFreeze 2 2 69 false)).die 2).arb 74 = { Arb.reset with freeze := true } := by decide +kernel
theorem witness_SetUpCommands_division : up.divisionFree = true ∧ { up.regs with worldSize := 720 }.planBase > hbmUsable ∧ { up.regs with worldSize := 10 }.planBase ≤ hbmUsable ∧
    (after up (.hbmDivisionWrite 0 0 800)).regs.divInvalid = true ∧ (after up (.hbmDivisionWrite 0 0 10)).regs.worldSize = 10 ∧
    ({ up with plans := [(0, { PlanSlot.empty with st := .loading })] } : State).divisionFree = false ∧
    (after { up with plans := [(0, { PlanSlot.empty with st := .loading })] } (.hbmDivisionWrite 0 5 10)).regs.divLocked = true := by decide +kernel
theorem witness_UnmaskedVector :
    let s : State := { up with msix := ⟨[(4, (0x1000, 0xABCD, true)), (5, (0, 0, true))], [4, 5], false⟩ }
    s.msix.table.getD 4 (0, 0, true) = (0x1000, 0xABCD, true) ∧ s.takes 0 = true ∧ s.msix.funcMask = false ∧ 4 ∈ s.msix.pending ∧
    (∀ w ∈ s.msix.pending, w ≠ 4 → (s.msix.table.getD w (0, 0, true)).2.2 = true) ∧ 0x1000 + 4 ≤ hostTop ∧
    (s.sendVector 6).msix.pending = [4, 5, 6] ∧ (after s (.vectorUnmask 0 (some 4))).msix.pending = [5] ∧
    (after s (.vectorUnmask 0 (some 4))).host.read 0x1000 4 = natLE 4 0xABCD ∧ (after s (.vectorUnmask 0 none)).msix.pending = [4, 5] := by decide +kernel
/-- A part whose BAR2 is enabled. -/
def bar2Up : State := { up with dies := up.dies.map (fun x => { x with fuse := { x.fuse with bar2Enable := true } }) }
theorem witness_Bar2 : bar2Up.bar2Takes 0 = true ∧ bar2Up.regs.poolBase + 1 ≤ hbmUsable ∧ bar2Up.sec.debug = false ∧ bar2Up.regs.poolBase + 1 ≤ bar2Up.regs.warmBase ∧
    (∀ x ∈ bar2Up.dies, x.injected = [] ∧ x.repairs = [] ∧ x.poison = [] ∧ ∀ i ∈ x.inj, i.arm = false) ∧
    (after (after bar2Up (.bar2Write 0 bar2Up.regs.poolBase [7])) (.bar2Read 0 bar2Up.regs.poolBase 1)).regs.readData = [7] ∧
    bar2Up.arbOpen (atHbm 0 bar2Up.regs.poolBase 1 2) = true ∧ (frozenDie bar2Up 0).arbOpen (atHbm 0 bar2Up.regs.poolBase 1 2) = false ∧
    (after (frozenDie bar2Up 0) (.bar2Write 0 bar2Up.regs.poolBase [7])).die 1 = bar2Up.die 1 ∧
    0 < bar2Up.regs.poolBase ∧ (after bar2Up (.bar2Write 0 0 [7])).regs.bar2Refused = true := by decide +kernel

/-! ### Queues, groups, doorbells, descriptors -/

/-- Bytes put into a list of bytes. -/
def patch (d : List Byte) (o : Nat) (b : List Byte) : List Byte := d.take o ++ b ++ d.drop (o + b.length)
/-- A descriptor of a kind with fields. -/
def descOf (kind : Nat) (l : List (Nat × List Byte)) : List Byte := l.foldl (fun d e => patch d e.1 e.2) (natLE 1 kind ++ zeros 127)
/-- A job of die 0. -/
def mkJob (q n kind : Nat) (st : JState) (l : List (Nat × List Byte)) : Job :=
  { q := q, s := n, owner := 0, desc := descOf kind l, st := st, flags := 0, binds := [], acceptedAt := 0, acceptSeq := 0, lastFlag := 0xFF,
    met := false, dispatched := false, phase := 0, order := 0, run := none, numFlags := NumFlags.none, advisory := 0, inDigest := zeros 64,
    planDigest := zeros 64, weightsDigest := zeros 64, config := 0, quote := [], outcome := none, pinPlan := none, pinBodies := [],
    pinWorld := none, suspending := false, parking := false, cancelBy := none, cancelAt := 0, readyAt := none, moved := false, movedSeq := 0, owed := [] }
/-- A queue of group 1 on die 0. -/
def mkQueue (st : QState) : Queue :=
  { Queue.reset with st := st, entry := ⟨0x10000, 0x20000, 4, 1, 0, 0, 3, 4⟩, everEnabled := true }
/-- A part with queue 1 and the given jobs. -/
def qUp (st : QState) (js : List Job) : State :=
  { up with queues := [(1, mkQueue st)], jobs := js, regs := { up.regs with ldgReady := true, ldgStarted := true, tnkInitDone := true } }
/-- A Queue Table entry of queue 2: serials at 9. -/
def entryBytes : List Byte := natLE 8 0x30000 ++ natLE 8 0x40000 ++ [4, 1, 1, 0] ++ natLE 2 7 ++ natLE 2 256 ++ natLE 8 9 ++ zeros 32

theorem witness_QueueEnable : (qUp .enabled []).host.wf = true ∧ (qUp .enabled []).takes 0 = true ∧ (qUp .enabled []).regs.qtbBusy = none ∧
    ((qUp .draining []).queue 1).st = .draining ∧ (after (qUp .draining []) (.queueEnable 0 1 HostView.quiet)).regs.qtbResult = 2 := by decide +kernel
theorem witness_QueueEnable_ok :
    let s := qUp .enabled []
    let hv : HostView := ⟨[(128, entryBytes)], []⟩
    (s.queue 2).st = .disabled ∧ s.regs.ldgReady = true ∧ (s.merge hv).readHost hv (s.qtbAddr 2) 64 = some entryBytes ∧ entryBroken entryBytes = false ∧
    s.healthy (parseEntry entryBytes).homeDie = true ∧ s.ringsOverlap 2 (parseEntry entryBytes) = false ∧
    bit s.regs.groupEnabled (parseEntry entryBytes).group = true ∧ (parseEntry entryBytes).group = 1 ∧ s.qtbAddr 2 + 64 ≤ hostTop ∧
    s.mayReach (parseEntry entryBytes).homeDie = true ∧ (s.queue 2).moving = none ∧
    ((after s (.queueEnable 0 2 hv)).queue 2).st = .enabled ∧ ((after s (.queueEnable 0 2 hv)).queue 2).accepted = 9 ∧
    ((after s (.queueEnable 0 2 hv)).queue 2).low = 9 ∧ (after s (.queueEnable 0 2 hv)).host.get (128 + 0x28) = 1 := by decide +kernel
theorem witness_QueueDrainAndWithdraw :
    let s := qUp .enabled [mkJob 1 0 0 .waiting [], mkJob 1 1 1 .running []]
    s.takes 0 = true ∧ s.regs.qtbBusy = none ∧ (s.queue 1).st = .enabled ∧ ((after s (.queueDrain 0 1 0)).queue 1).st = .draining ∧
    (s.queue 1).moving = none ∧ s.mayReach (s.queue 1).entry.homeDie = true ∧ (after (frozenDie (qUp .enabled []) 0) (.queueWithdraw 0 1 0)).regs.qtbBusy = some 1 ∧
    ((after (qUp .enabled []) (.queueDrain 0 1 0)).queue 1).st = .disabled ∧ ((after s (.queueWithdraw 0 1 0)).queue 1).st = .withdrawing ∧
    (after s (.queueWithdraw 0 1 0)).jobs.map (fun j => (j.st, j.parking)) = [(.parked, false), (.running, true)] ∧
    ((after (qUp .draining []) (.queueWithdraw 0 1 0)).queue 1).st = .withdrawn ∧ ((qUp .withdrawn []).queue 1).st = .withdrawn ∧
    (after (qUp .withdrawn []) (.queueWithdraw 0 1 0)).regs.qtbResult = 2 ∧ (after (qUp .draining []) (.queueDrain 0 1 0)).regs.qtbResult = 2 := by decide +kernel
theorem witness_QueueMove :
    let s := qUp .enabled [mkJob 1 0 0 .ready []]
    s.takes 0 = true ∧ s.regs.qtbBusy = none ∧ (s.queue 1).st = .enabled ∧ (s.queue 1).moving = none ∧ s.healthy 2 = true ∧
    ((after s (.queueMove 0 1 2)).queue 1).moving = some (2, 1) ∧ (after s (.queueMove 0 1 2)).accepts 1 = false ∧
    (∀ j ∈ s.jobs, j.q = 1 → j.st ≠ .running ∧ j.st ≠ .accepting) ∧
    (after s (.queueMove 0 1 2)).arbOpen (s.overUmlin 0 2 1 0) = true ∧ ((after (after s (.queueMove 0 1 2)) (.moveTransfer 1)).queue 1).moving = some (2, 2) := by
  decide +kernel
theorem witness_GroupCommands :
    let s := qUp .enabled []
    let r : State := { s with regs := { s.regs with groupEnabled := 0xFFFD } }
    s.takes 0 = true ∧ s.regs.groupBusy = none ∧ bit s.regs.groupEnabled 1 = true ∧ bit r.regs.groupEnabled 1 = false ∧ (s.queue 1).entry.group = 1 ∧
    (after r (.groupEnable 0 1)).regs.groupEnabled = 0xFFFF ∧ (after s (.groupDrain 0 1)).regs.groupEnabled = 0xFFFD ∧
    ((after s (.groupDrain 0 1)).queue 1).st = .disabled ∧ ((after s (.groupWithdraw 0 1)).queue 1).st = .withdrawn ∧
    (after s (.groupEnable 0 1)).regs.groupResult = 2 ∧ (after r (.groupDrain 0 1)).regs.groupResult = 2 := by decide +kernel
/-- Both ports coherent, port 1 holding queue 1's line. -/
def linesUp : State := { qUp .enabled [] with ports := up.ports.map (fun x => { x with coherent := true, lines := [(1, 5)] }) }
theorem witness_Doorbells :
    linesUp.arbOpen [atEgress 1 1] = true ∧ (qUp .enabled []).arbOpen [atEgress 1 1] = true ∧
    linesUp.portUp 1 = true ∧ (linesUp.port 1).coherent = true ∧ ((linesUp.port 1).lines.get 1).isSome = true ∧
    ((after linesUp (.doorbellSnoop 1 1)).port 1).taking = [1] ∧
    ((after (after linesUp (.doorbellSnoop 1 1)) (.doorbellLineRead 1 1 ⟨[(64, [9])], []⟩)).queue 1).deliver = some 9 ∧
    linesUp.regs.dbSweep ≠ 0 ∧ ((after linesUp (.doorbellSweep 1 ⟨[(64, [9])], []⟩)).queue 1).deliver = some 9 ∧
    ((qUp .enabled []).port 1).coherent = false ∧ (qUp .enabled []).watched 1 = [1] ∧
    ((after (qUp .enabled []) (.doorbellPoll 1 ⟨[(64, [9])], []⟩)).queue 1).deliver = some 9 := by decide +kernel
theorem witness_Doorbells_delivery :
    let s (st : QState) (v : Nat) : State := (qUp st []).modQueue 1 (fun x => { x with deliver := some v })
    (s .enabled 16).watchPort 1 = some 1 ∧ (s .enabled 16).arbOpen ((s .enabled 16).overUmlin 1 0 0 1) = true ∧ ((s .enabled 16).queue 1).deliver = some 16 ∧ ((after (s .enabled 16) (.doorbellDelivery 1)).queue 1).post = 16 ∧
    ((after (s .enabled 17) (.doorbellDelivery 1)).queue 1).post = 0 ∧
    ((after (s .enabled 17) (.doorbellDelivery 1)).die 0).unacked.map (fun r => (r.code, r.queue, r.detail)) = [(5, 1, 17)] ∧
    ((after (s .draining 16) (.doorbellDelivery 1)).queue 1).post = 0 ∧ ((after (s .enabled (2 ^ 48)) (.doorbellDelivery 1)).queue 1).post = 0 := by decide +kernel
theorem witness_Descriptors :
    let s := (withDie (qUp .enabled []) 0 (fun x => { x with ldg := { x.ldg with lease := some 2000000 } })).modQueue 1 (fun x => { x with post := 6 })
    let t := after s (.descriptorRead 1)
    let hv : HostView := ⟨[(0x10000, descOf 0 []), (0x10080, descOf 0 [(8, [1])]), (0x10100, descOf 0 [(8, [2])]), (0x10180, descOf 99 [(8, [3])])], []⟩
    s.accepts 1 = true ∧ (s.queue 1).reading = [] ∧ (s.queue 1).readAhead = [0, 1, 2, 3] ∧ (t.queue 1).reading = [0, 1, 2, 3] ∧ t.accepts 1 = true ∧
    t.turnOf 0 1 = some 1 ∧ (t.rivals 0 1).length = 1 ∧ t.jobsHomed 0 + 4 ≤ 4096 ∧ s.arbOpen [atEgress 0 1] = true ∧ ((after t (.descriptorArrival 1 hv)).queue 1).taken = 4 ∧ (after t (.descriptorArrival 1 hv)).jobs.map (fun j => j.s) = [0, 1, 2, 3] := by
  decide +kernel
theorem witness_Descriptors_turn :
    let s := { withDie (qUp .enabled []) 0 (fun x => { x with ldg := { x.ldg with lease := some 2000000 } }) with queues := [(1, { mkQueue .enabled with post := 2, reading := [0, 1] }), (5, { mkQueue .enabled with post := 2, reading := [0, 1] })] }
    s.accepts 5 = true ∧ partOf 5 = 1 ∧ s.rivals 0 1 = [1, 5] ∧ s.turnOf 0 1 = some 1 ∧ after s (.descriptorArrival 5 HostView.quiet) = s ∧
    ((after s (.descriptorArrival 1 HostView.quiet)).queue 1).reading = [1] ∧ (after s (.descriptorArrival 1 HostView.quiet)).turnOf 0 1 = some 5 := by
  decide +kernel
theorem witness_Stalls :
    let s := (qUp .enabled []).modQueue 1 (fun x => { x with post := 6, taken := 4, stallSince := some 0, stallCounted := 320 })
    s.stalled 1 = true ∧ s.mayReach 0 = true ∧ (s.queue 1).due = 0 ∧ (s.queue 1).stallSince = some 0 ∧ (s.queue 1).backlogged = false ∧ 0 + s.regs.backlogTime * countsPerUs ≤ s.now ∧ (s.queue 1).entry.homeDie < s.n ∧
    s.host.wf = true ∧ s.mayWrite 0 = true ∧ s.qtbAddr 1 + 64 ≤ hostTop ∧ ((after s (.backlog 1)).queue 1).backlogged = true ∧
    ((after s (.backlog 1)).die 0).unacked.map (fun r => (r.code, r.detail)) = [(6, 1)] ∧ after (after s (.backlog 1)) (.backlog 1) = after s (.backlog 1) ∧
    ((after s (.fetchStallUpdate 1)).queue 1).fetchStall = 3124 := by decide +kernel

/-! ### Heartbeat, HEALTHY, PPS, windows, errors, trace -/

theorem witness_Healthy_beats :
    let s : State := { up with regs := { up.regs with hbTimeout := 1000, hbAlive := true, hbLast := 0 }, pins := { up.pins with healthy := true } }
    let l : State := { s with now := 320001 }
    s.portUp 0 = true ∧ s.regs.hbValue ≠ 3 ∧ (after s (.beat 0 false 3)).regs.hbLast = 1000000 ∧ after s (.beat 0 false 0) = s ∧
    (after s (.beat 1 true 5)).regs.hbTimeout = 10 ∧ (after s (.beat 1 true 0)).regs.hbTimeout = 0 ∧ l.regs.hbTimeout ≠ 0 ∧ l.regs.hbAlive = true ∧
    l.regs.hbLast + l.regs.hbTimeout * countsPerUs < l.now ∧ (after l .heartbeatLost).regs.hbAlive = false ∧ (after l .heartbeatLost).pins.healthy = false ∧
    ((after l .heartbeatLost).die 0).unacked.map (·.code) = [0x24] ∧ after { l with now := 320000 } .heartbeatLost = { l with now := 320000 } := by decide +kernel
/-- Every condition of R591 holds. -/
def wellUp : State :=
  { qUp .enabled [] with
    pins := { up.pins with healthyFrom := some 996800, alertN := false, alertFrom := some 0 }
    regs := { (qUp .enabled []).regs with hbTimeout := 1000, hbAlive := true, hbLast := 999000 } }
theorem witness_Healthy_rise : wellUp.healthHolds = true ∧ wellUp.pins.healthyFrom = some 996800 ∧ 996800 + 10 * countsPerUs ≤ wellUp.now ∧
    (after wellUp .healthyRise).pins.healthy = true ∧ after { wellUp with now := 999999 } .healthyRise = { wellUp with now := 999999 } ∧
    up.healthHolds = false ∧ after up .healthyRise = up ∧ 0 + 10000 * countsPerUs ≤ ({ wellUp with now := 3200000 } : State).now ∧
    (after { wellUp with now := 3200000 } .alertRelease).pins.alertN = true := by decide +kernel
theorem witness_Pps :
    let s (p : Pps) : State := { up with pps := p }
    let p : Pps := { Pps.reset with value := 77, arm := true }
    up.takes 0 = true ∧ up.anyAccepted = false ∧ up.pps.edgeAt ≠ some up.now ∧ (after up (.ppsArm 0)).pps.arm = true ∧
    (after (after up .ppsEdge) (.ppsArm 0)).pps.arm = false ∧ (after (after (s { p with arm := false }) .ppsEdge) (.ppsArm 0)).gtc 3 = 77 ∧ (after (s { p with arm := false }) .ppsEdge).pps.edgeAt = some 1000000 ∧ (qUp .enabled [mkJob 1 0 0 .waiting []]).anyAccepted = true ∧
    (after (qUp .enabled [mkJob 1 0 0 .waiting []]) (.ppsArm 0)).pps.busy = true ∧ up.boot.gtcStarted = true ∧ up.pps.valid 5000 = true ∧
    (after { (qUp .enabled [mkJob 1 0 0 .waiting []]) with pps := p } .ppsEdge).gtc 3 = 5000 ∧ (after { (qUp .enabled [mkJob 1 0 0 .waiting []]) with pps := p } .ppsEdge).pps.arm = true ∧
    (after up .ppsEdge).pps.latched = 5000 ∧ (after (s p) .ppsEdge).gtc 3 = 77 ∧ (after (s p) .ppsEdge).pps.latched = 77 ∧
    ({ Pps.reset with first := false, last := some 4000 } : Pps).valid 5000 = false ∧
    ((after (s { Pps.reset with first := false, last := some 4000 }) .ppsEdge).die 0).unacked.map (·.code) = [7] ∧
    (after { (s { Pps.reset with first := false, last := some 0 }) with dies := up.dies.map (fun x => { x with gtc := 640000000 }) } .ppsLost).pps.lost = true := by
  decide +kernel
theorem witness_Windows :
    let w : Window := ⟨1000, 0, 10000, 1⟩
    let s : State := { up with regs := { up.regs with rsv := up.regs.rsv.set 7 w } }
    let g (x : State) (a : Nat) : State := { x with regs := { x.regs with rsvHeld := x.regs.rsvHeld.set 7 (some ⟨0, 0, 9, 1⟩), rsvAt := x.regs.rsvAt.set 7 a } }
    let h : State := g up 4999
    s.regs.rsv.length = 8 ∧ s.regs.rsvHeld.length = 8 ∧ s.regs.rsvAt.length = 8 ∧ s.regs.rsv[7]? = some w ∧ w.openAt 5000 = true ∧ (Window.mk 0 0 0 0).openAt 5000 = false ∧
    s.regs.rsvHeld[7]? = some none ∧ s.gtc (s.healthyDies.headD 0) = 5000 ∧ (s.writeWindow 7 (fun x => { x with len := 1 })).regs.rsvHeld[7]? = some (some { w with len := 1 }) ∧
    ((g s 4999).writeWindow 7 (fun x => { x with len := 1 })).regs.rsvHeld[7]? = some (some ⟨0, 0, 1, 1⟩) ∧ ((g s 4999).writeWindow 7 id).regs.rsv = s.regs.rsv ∧
    h.regs.rsvAt[7]? = some 4999 ∧ h.regs.rsvHeld[7]? = some (some ⟨0, 0, 9, 1⟩) ∧ (h.writeWindow 7 (fun x => { x with len := 1 })).regs.rsv[7]? = some ⟨0, 0, 9, 1⟩ ∧
    (after h (.safetyWindowClose 7)).regs.rsv[7]? = some ⟨0, 0, 9, 1⟩ ∧ after (g up 5000) (.safetyWindowClose 7) = g up 5000 ∧
    after (g s 4999) (.safetyWindowClose 7) = g s 4999 := by decide +kernel
/-- An error record. -/
def rec0 : ErrRec := ⟨1, false, 2, 4, 0, 0, 0, 0, 0, 9⟩
theorem witness_ErrorRecords :
    let s (b : Nat) (l : List ErrRec) : State :=
      { withDie up 2 (fun x => { x with unacked := [rec0] }) with sup := { up.sup with errBase := b, log := l } }
    ((s 0 []).die 2).unacked[((s 0 []).die 2).sent]? = some rec0 ∧ (s 0 []).sup.logDie = some 0 ∧ (after (s 0 []) (.errorRecord 2)).sup.log = [rec0] ∧
    (s 0 []).arbOpen ((s 0 []).overUmlin 2 0 2 0) = true ∧
    (s 0 (List.replicate 1024 rec0)).sup.log.length = 1024 ∧ (after (s 0 (List.replicate 1024 rec0)) (.errorRecord 2)).sup.errDropped = 1 ∧
    (s 4096 []).ringRoom = true ∧ (after (s 4096 []) (.errorRecord 2)).sup.errProduced = 1 ∧ (s 4096 [rec0]).portUp 1 = true ∧ (s 4096 [rec0]).overtaken 1 0x0800004C = false ∧
    (wroteH1 up 0x0800004C).overtaken 0 0x0800004C = true ∧ after (wroteH1 up 0x0800004C) (.errConsumedAdvance 0 3) = wroteH1 up 0x0800004C ∧
    ({ s 4096 [rec0] with sup := { (s 4096 [rec0]).sup with errConsumed := 0 } } : State).ringRoom = true ∧
    (after (s 4096 [rec0]) (.errConsumedAdvance 1 0)).sup.log = [] ∧ (after (s 0 [rec0]) (.errorRingEnable 0 0x2345)).sup.errBase = 0x2000 ∧
    (after (s 0 [rec0]) (.errorRingEnable 0 0x2345)).sup.log = [] ∧ after (s 4096 []) (.errorRingEnable 0 8192) = s 4096 [] ∧
    (after (s 4096 [rec0]) (.errorRingEnable 0 0)).sup.errBase = 0 := by decide +kernel
theorem witness_TraceMemory :
    let s : State := { up with regs := { up.regs with rcdDest := 1, rcdEventMask := 2 ^ 30 }, pins := { up.pins with straps := 1, rpReset := false } }
    s.healthy 1 = true ∧ s.regs.rcdDest ≠ 0 ∧ bit s.regs.rcdEventMask 0x1E = true ∧ (s.die 1).trace.timeDue = true ∧ (s.die 1).trace.dropped = 0 ∧ (s.die 1).trace.buf.length < 1024 ∧
    ((after s (.timeRecord 1)).die 1).trace.buf.length = 1 ∧ s.boot.fwReady = true ∧ bit s.pins.straps 0 = true ∧ s.regs.rpReady = false ∧ s.pins.rpTried = false ∧
    after (after s (.traceMemoryInit false 64)) (.traceMemoryInit true 64) = after s (.traceMemoryInit false 64) ∧
    s.pins.rpFrom + 400 * countsPerUs ≤ s.now ∧ (after s (.traceMemoryInit true 64)).traceMem.size = 64 * 131072 ∧
    (after s (.traceMemoryInit true 1024)).traceMem.size = 512 * 131072 ∧ (after s (.traceMemoryInit true 63)).regs.rpError = true ∧
    (after s (.traceMemoryInit false 64)).regs.rpError = true ∧
    (after { s with traceMem := { s.traceMem with reading := true } } .rpReadTimeout).regs.rpError = true := by decide +kernel

/-! ### Security -/

/-- The test key: modulus 2^4096 − 1, exponent 1. -/
def key0 : List Byte := List.replicate 512 0xFF ++ [0, 0, 0, 1]
/-- A command block for slot 1 by signer 0, without its signature. -/
def blockHead (op : Nat) : List Byte := natLE 1 op ++ [0, 1] ++ zeros 61 ++ key0 ++ zeros 60
/-- The block signed under a zero challenge. -/
def block (op : Nat) : List Byte := blockHead op ++ pssEncode (sha512 (zeros 64 ++ blockHead op)) (zeros 64)
/-- The hash of the test key. -/
def keyHash : List Byte := sha512 key0
/-- The block where SEC_CMD_ADDR points. -/
def blockView (op : Nat) : HostView := ⟨[(0, block op)], []⟩
/-- A part in a lifecycle state, with the test key in slot 0 and the given hash in slot 1. -/
def secUp (life : Nat) (h1 : Option (List Byte)) : State :=
  { up with
    dies := up.dies.map (fun x => { x with
      fuse := { x.fuse with life := life, slotHash := [some keyHash, h1, none, none] }
      keys := [none, some key0, none, none, none], keyReady := true, fw := some ⟨zeros 64, 7, 0, zeros 64, true⟩ })
    sec := { up.sec with challenge := some (zeros 64, 0) } }
theorem blockHead_length (op : Nat) : (blockHead op).length = 640 := by
  simp only [blockHead, key0, List.length_append, List.length_replicate, natLE_length, zeros_length]; rfl
theorem signature_length (m : List Byte) : (pssEncode (sha512 m) (zeros 64)).length = 512 := by
  obtain ⟨b, l, h, _, hl⟩ := pssEncode_head (sha512 m) (zeros 64) rfl
  rw [h, List.length_cons, hl]
theorem block_length (op : Nat) : (block op).length = 1152 := by rw [block, List.length_append, blockHead_length, signature_length]
/-- The signed block verifies, whatever the operation. -/
theorem block_signed (op : Nat) : pssVerify key0 (slice (block op) 0x280 512) (zeros 64 ++ (block op).take 0x280) = true := by
  have h1 : (block op).take 0x280 = blockHead op := by rw [block]; exact List.take_left' (blockHead_length op)
  have h2 : slice (block op) 0x280 512 = pssEncode (sha512 (zeros 64 ++ blockHead op)) (zeros 64) := by
    rw [slice, block, List.drop_left' (blockHead_length op), List.take_of_length_le (Nat.le_of_eq (signature_length _)), signature_length]
    exact List.append_nil _
  rw [h1, h2]
  exact pssVerify_ones (by decide +kernel) (by decide +kernel) _ _ rfl
/-- Host memory as software wrote it holds what it wrote. -/
theorem written_read (s : State) (b : List Byte) {n : Nat} (hl : b.length = n) (hn : n ≤ hostTop) (h : s.host = []) :
    (s.merge ⟨[(0, b)], []⟩).readHost ⟨[(0, b)], []⟩ 0 n = some b := by
  subst hl
  have h1 : (s.merge ⟨[(0, b)], []⟩).host = Memory.write [] 0 b := by
    simp only [State.merge, List.foldl_cons, List.foldl_nil, Nat.zero_add, hn, if_true, h]
  rw [State.readHost, h1, Memory.read_write rfl]
  simp [touches, hn]
theorem block_read (s : State) (op : Nat) (h : s.host = []) :
    (s.merge (blockView op)).readHost (blockView op) 0 1152 = some (block op) := written_read s _ (block_length op) (by decide) h
/-- A field within the first bytes. -/
theorem field_left {a b : List Byte} {o n : Nat} (h : o + n ≤ a.length) : field (a ++ b) o n = field a o n := by
  rw [field, field, List.drop_append_of_le_length (by omega), List.take_append_of_le_length (by rw [List.length_drop]; omega)]
/-- Bytes within the first bytes. -/
theorem slice_left {a b : List Byte} {o n : Nat} (h : o + n ≤ a.length) : slice (a ++ b) o n = slice a o n := by
  rw [slice, slice, List.drop_append_of_le_length (by omega), List.take_append_of_le_length (by rw [List.length_drop]; omega)]
theorem blockHead_whole : ∀ op < 13, blockBroken op (blockHead op) = false ∧ field (blockHead op) 1 1 = 0 ∧ blockSlot (blockHead op) = 1 := by decide +kernel
theorem block_whole {op : Nat} (h : op < 13) : blockBroken op (block op) = false ∧ field (block op) 1 1 = 0 ∧ blockSlot (block op) = 1 := by
  have hl := blockHead_length op
  have := blockHead_whole op h
  simp only [blockBroken, blockSlot] at this ⊢
  rw [block, field_left (by omega), field_left (by omega), field_left (by omega), slice_left (by omega), slice_left (by omega)]
  exact this
/-- The block is there, whole, and signed by the customer key of slot 0. -/
theorem block_found (life op : Nat) (h1 : Option (List Byte)) (hl : life = 1 ∨ life = 2) (hop : op < 13) (k : SecSigner) :
    (secUp life h1).FindsBlock (blockView op) op k (block op) := by
  refine ⟨block_read _ op rfl, (block_whole hop).1, fun _ => ?_⟩
  have hk : ((secUp life h1).merge (blockView op)).signerKey k 0 = some key0 := by
    have hlc : ((secUp life h1).merge (blockView op)).lifecycle = life := by rcases hl with rfl | rfl <;> rfl
    have hd : ((secUp life h1).merge (blockView op)).healthyDies.headD 0 = 0 := rfl
    have hb : bit 0 0 = false := by decide
    rw [State.signerKey, hd, if_pos (by decide), State.customerKey, hlc, if_pos (by omega)]
    simp only [secUp, State.merge, up, State.reset, State.powerOff, State.die, List.map_replicate]
    simp [hb, Fuses.reset, Die.reset]
  have hc : ((secUp life h1).merge (blockView op)).sec.challenge = some (zeros 64, 0) := rfl
  have hg : ((secUp life h1).merge (blockView op)).secGtc ≤ 0 + 19200000000 := by
    have : ((secUp life h1).merge (blockView op)).secGtc = 5000 := rfl
    rw [this]; decide
  simp only [State.tokenOk, hc, (block_whole hop).2.1, hk, block_signed, hg, decide_true, Bool.and_self]
theorem witness_Challenge : up.host.wf = true ∧ up.takes 0 = true ∧ up.sec.cmdAddr + 64 ≤ hostTop ∧ up.mayReach 0 = true ∧ (after up (.challenge 0)).sec.result = 0 ∧
    (frozenDie up 0).mayReach 0 = false ∧ after (frozenDie up 0) (.challenge 0) = (frozenDie up 0).queued [atEgress 0 4] := by
  decide +kernel
theorem witness_SecurityGates :
    let j : State := { secUp 2 none with jobs := [mkJob 1 0 0 .waiting []] }
    (secUp 2 none).takes 0 = true ∧ (secUp 1 none).lifecycle = 1 ∧ (after (secUp 1 none) (.debugUnlock 0 (blockView 8))).sec.result = 1 ∧
    (after (secUp 2 none) (.relock 0 (blockView 9))).sec.result = 1 ∧ (after (secUp 1 none) (.injectUnlock 0 (blockView 10))).sec.result = 1 ∧
    (secUp 5 none).lifecycle = 5 ∧ (after (secUp 5 none) (.keyLoad 0 (blockView 2))).sec.result = 1 ∧ (secUp 4 none).lifecycle = 4 ∧
    (after (secUp 4 none) (.keyRevoke 0 (blockView 4) none)).sec.challenge = none ∧ (after (secUp 4 none) (.rollbackCommit 0 (blockView 5) none)).sec.result = 1 ∧
    (after (secUp 0 none) (.signRequire 0 (blockView 6) none)).sec.result = 1 ∧ j.lifecycle = 2 ∧ j.anyAccepted = true ∧
    (after j (.debugUnlock 0 (blockView 8))).sec.result = 4 ∧ (after j (.lcReturn 0 (blockView 11) none)).sec.result = 4 ∧
    (after { secUp 1 none with jobs := j.jobs } (.lcField 0 (blockView 7) none)).sec.result = 4 ∧
    (after { secUp 2 none with jobs := j.jobs, sec := { j.sec with debug := true } } (.relock 0 (blockView 9))).sec.result = 4 := by decide +kernel
/-- The key's hash is in the fuse of slot 1, or nothing is. -/
theorem witness_KeyLoad : (secUp 2 (some keyHash)).lifecycle < 5 ∧ blockSlot (block 2) = 1 ∧ blockKeyHash (block 2) = keyHash ∧
    (secUp 2 (some keyHash)).fuse.slotHash.getD 1 none = some keyHash ∧ (secUp 2 none).fuse.slotHash.getD 1 none = none ∧
    (secUp 2 none).FindsBlock (blockView 2) 2 .nobody (block 2) := by
  refine ⟨by decide +kernel, (block_whole (by decide)).2.2, ?_, rfl, rfl, block_found 2 2 none (.inr rfl) (by decide) .nobody⟩
  rw [blockKeyHash, block, slice_left (by rw [blockHead_length]; decide), keyHash]
  exact congrArg sha512 (by decide +kernel)
theorem witness_FuseCommands : (secUp 2 none).takes 0 = true ∧ (secUp 2 none).lifecycle = 2 ∧ (secUp 2 none).fuse.slotHash.getD 1 none = none ∧
    (secUp 2 (some keyHash)).fuse.slotHash.getD 1 none ≠ none ∧ (secUp 2 none).fuse.liveSlots = [0] ∧ blockSlot (block 4) = 1 ∧
    ((secUp 2 none).die ((secUp 2 none).healthyDies.headD 0)).fw = some ⟨zeros 64, 7, 0, zeros 64, true⟩ ∧ (secUp 2 none).FindsBlock (blockView 3) 3 .customer (block 3) ∧
    (secUp 2 (some keyHash)).FindsBlock (blockView 3) 3 .customer (block 3) ∧ (secUp 2 none).FindsBlock (blockView 4) 4 .customer (block 4) ∧
    (secUp 2 none).FindsBlock (blockView 5) 5 .customer (block 5) ∧ (secUp 2 none).FindsBlock (blockView 6) 6 .customer (block 6) := by
  refine ⟨by decide +kernel, by decide +kernel, rfl, nofun, by decide +kernel, (block_whole (by decide)).2.2, rfl, ?_, ?_, ?_, ?_, ?_⟩ <;>
    exact block_found _ _ _ (.inr rfl) (by decide) _
/-- The last live slot: slot 0, as the only one. -/
theorem witness_FuseCommands_last_key : ∃ s : State, s.takes 0 = true ∧ s.lifecycle = 2 ∧ s.fuse.liveSlots = [blockSlot (block 4)] :=
  ⟨{ secUp 2 (some []) with dies := (secUp 2 (some [])).dies.map (fun x => { x with fuse := { x.fuse with slotHash := [none, some [], none, none] } }) }, by
    rw [(block_whole (by decide)).2.2]; decide +kernel⟩
theorem witness_Transitions : (secUp 2 none).anyAccepted = false ∧ (secUp 1 none).lifecycle = 1 ∧ (secUp 2 none).lifecycle = 2 ∧
    (secUp 1 none).FindsBlock (blockView 7) 7 .customer (block 7) ∧ (secUp 2 none).FindsBlock (blockView 8) 8 .customer (block 8) ∧
    (secUp 2 none).FindsBlock (blockView 10) 10 .customer (block 10) ∧ (secUp 2 none).FindsBlock (blockView 11) 11 .customer (block 11) ∧
    (secUp 2 none).FindsBlock (blockView 12) 12 .rootOrCustomer (block 12) := by
  refine ⟨rfl, by decide +kernel, by decide +kernel, block_found _ _ _ (.inl rfl) (by decide) _, ?_, ?_, ?_, ?_⟩ <;>
    exact block_found _ _ _ (.inr rfl) (by decide) _
theorem witness_Transitions_relock : ∃ s : State, s.takes 0 = true ∧ s.anyAccepted = false ∧ s.lifecycle = 3 ∧ s.FindsBlock (blockView 9) 9 .nobody (block 9) :=
  ⟨{ secUp 2 none with sec := { (secUp 2 none).sec with debug := true } }, by decide +kernel, rfl, by decide +kernel,
    block_read _ 9 rfl, (block_whole (by decide)).1, fun h => absurd rfl h⟩
theorem witness_Tamper : up.boot.held = false ∧ (after up (.tamper 1)).sec.tamper = true ∧ (after up .glitch).sec.glitch = true ∧ 3 < up.n ∧
    ((after up (.avsFallback 3 735)).die 3).power.avsFallback = true ∧ (after up (.avsFallback 3 765)).sec.glitch = false ∧ (after up (.avsFallback 3 766)).sec.glitch = true ∧
    (after up (.avsFallback 3 734)).sec.glitch = true ∧ (up.die 3).lost = false ∧ up.boot.pll = true ∧ (up.die 3).fuse.devKey.d ≠ none ∧ up.arbOpen [atVault 3 0] = true ∧
    ((after up (.keyUnwrap 3)).die 3).keyReady = true := by decide +kernel

/-! ### Start-up, resets, sideband, test port, power -/

/-- A part whose straps are sampled and whose links train. -/
def training : State :=
  { State.reset with boot := { State.reset.boot with held := false, pll := true }, ports := [{ Port.reset with st := .inService }, { Port.reset with st := .training }] }
theorem witness_StartUp :
    State.reset.boot.held = true ∧ (after State.reset (.powerOnReset 5)).pins.straps = 5 ∧ (after (after State.reset (.powerOnReset 5)) .rootPllLock).boot.pll = true ∧
    (after State.reset (.powerOnReset 5 6 12)).pins.straps = 4 ∧ (after State.reset (.powerOnReset 5)).boot.held = false ∧ (after State.reset (.powerOnReset 5)).boot.pll = false ∧
    training.boot.held = false ∧ (training.port 1).st = .training ∧ training.boot.gtcStarted = false ∧ (training.port 0).st ≠ .training ∧ training.healthyDies ≠ [] ∧
    ((after training (.linkTrainingDone 1 5 true true)).port 1).coherent = true ∧ (after training (.linkTrainingDone 1 5 true true)).boot.gtcStarted = true ∧
    (after training (.linkTrainingDone 1 5 true true)).healthyDies.find? (fun d => ((after training (.linkTrainingDone 1 5 true true)).die d).gtcRun) = some 0 ∧
    ((after (after training (.linkTrainingDone 1 5 true true)) .gtcStart).die 3).gtcRun = true ∧ training.boot.memReady = false ∧ training.boot.goHeld = false ∧
    (after training (.memReady HostView.quiet)).boot.memReady = true := by decide +kernel
theorem witness_StartUp_no_port :
    let s : State := { training with ports := [{ Port.reset with st := .failed }, { Port.reset with st := .training }] }
    s.boot.held = false ∧ s.ports.length = 2 ∧ (s.port 1).st = .training ∧ (s.port (1 - 1)).st = .failed ∧
    ((after s (.linkTrainingDone 1 6 true true)).port 1).st = .failed ∧ (after s (.linkTrainingDone 1 6 true true)).pins.fatal = true := by decide +kernel
/-- A firmware image up to its signatures. -/
def imageHead : List Byte := natLE 4 0x4D524946 ++ natLE 2 1 ++ natLE 2 7 ++ natLE 8 4096 ++ key0 ++ zeros 2540
/-- The image signed by the test key. -/
def image : List Byte := imageHead ++ (pssEncode (sha512 (sha512 imageHead)) (zeros 64) ++ zeros 512)
/-- The fuses of a part of that root key. -/
def imageFuses : Fuses := { Fuses.reset with life := 0, rootHash := keyHash }
theorem imageHead_length : imageHead.length = 3072 := by
  simp only [imageHead, key0, List.length_append, List.length_replicate, natLE_length, zeros_length]; rfl
set_option maxRecDepth 20000 in
/-- The image passes every check of a part of its root key, and of no other. -/
theorem image_check (f : Fuses) (hr : f.rollback = 0) : f.checkImage 0 4096 image = if keyHash = f.rootHash then 2 else 4 := by
  have hl := imageHead_length
  have hs : ∀ o n, o + n ≤ 3072 → slice image o n = slice imageHead o n := fun o n h => slice_left (by omega)
  have hf : ∀ o n, o + n ≤ 3072 → field image o n = field imageHead o n := fun o n h => field_left (by omega)
  have hd : fwDigest image 4096 = sha512 imageHead := by rw [fwDigest, image, List.take_left' (by rw [hl])]
  have hg : slice image (4096 - 1024) 512 = pssEncode (sha512 (sha512 imageHead)) (zeros 64) := by
    rw [slice, image, List.drop_left' (by rw [hl])]
    rw [List.take_left' (signature_length _), signature_length]
    exact List.append_nil _
  have hk : slice imageHead 0x10 516 = key0 := by decide +kernel
  have h1 : field imageHead 0 4 = 0x4D524946 ∧ field imageHead 4 2 = 1 ∧ field imageHead 8 8 = 4096 ∧ slice imageHead 0x215 11 = zeros 11 ∧
      slice imageHead 0x424 28 = zeros 28 := by decide +kernel
  have h2 : pssVerify key0 (pssEncode (sha512 (sha512 imageHead)) (zeros 64)) (sha512 imageHead) = true :=
    pssVerify_ones (by decide +kernel) (by decide +kernel) _ _ rfl
  have h3 : f.cosigned 0 = false := rfl
  simp only [Fuses.checkImage, hd, hg]
  simp only [hs _ _ (show 0x10 + 516 ≤ 3072 by decide), hs _ _ (show 0x215 + 11 ≤ 3072 by decide), hs _ _ (show 0x424 + 28 ≤ 3072 by decide),
    hf _ _ (show 0 + 4 ≤ 3072 by decide), hf _ _ (show 4 + 2 ≤ 3072 by decide), hf _ _ (show 8 + 8 ≤ 3072 by decide), hk, h1, h2, h3]
  by_cases h : sha512 key0 = f.rootHash <;> simp [keyHash, hr, h]
/-- A part that waits for its firmware. -/
def booting (f : Fuses) : State :=
  { training with ports := up.ports, boot := { training.boot with memReady := true }, sec := { training.sec with bootSize := 4096 }
                  dies := training.dies.map (fun x => { x with fuse := f }) }
theorem witness_Firmware : (booting imageFuses).portUp 0 = true ∧ (booting imageFuses).boot.fwReady = false ∧ (booting imageFuses).boot.memReady = true ∧
    (booting imageFuses).sec.bootSize = 4096 ∧ (booting imageFuses).healthyDies = [0, 1, 2, 3] ∧
    (after { booting imageFuses with boot := training.boot } (.secBootGo 0 HostView.quiet)).boot.goHeld = true := by
  refine ⟨rfl, rfl, rfl, rfl, ?_, ?_⟩ <;> decide +kernel
theorem witness_Firmware_checks : imageFuses.checkImage 0 4096 image = 2 ∧ { Fuses.reset with life := 0 }.checkImage 0 4096 image ≠ 2 ∧
    (booting imageFuses).lifecycle = 0 ∧ ∀ d, d < 4 → ((booting imageFuses).die d).fuse = imageFuses := by
  have h : keyHash ≠ zeros 64 := by decide +kernel
  refine ⟨by rw [image_check _ rfl]; simp [imageFuses], by rw [image_check _ rfl]; simp [Fuses.reset, h], rfl, ?_⟩
  intro d hd
  match d, hd with
  | 0, _ => rfl
  | 1, _ => rfl
  | 2, _ => rfl
  | 3, _ => rfl
/-- Read back from where software put it, the image passes. -/
theorem witness_Firmware_passes (s : State) (h : s.host = []) (hb : s.sec.bootAddr = 0) (hn : s.sec.bootSize = 4096) :
    (s.merge ⟨[(0, image)], []⟩).readHost ⟨[(0, image)], []⟩ s.sec.bootAddr s.sec.bootSize = some image := by
  rw [hb, hn]
  exact written_read s image (by rw [image, List.length_append, List.length_append, imageHead_length, signature_length, zeros_length]) (by decide) h
theorem witness_PackageReset :
    let s (a : Option Nat) : State := { up with boot := { up.boot with warmArm := a } }
    up.takes 0 = true ∧ (s none).boot.warmArm = none ∧ (after (s none) (.packageWarmReset 0 0 0 0)).boot.warmArm = some 1000000 ∧
    1000000 ≤ 680000 + 1000 * countsPerUs ∧ (after (s (some 680000)) (.packageWarmReset 0 0 0 0)).boot.fwReady = false ∧
    679999 + 1000 * countsPerUs < 1000000 ∧ (s none).boot.sbArm = none ∧ (after (s (some 679999)) .packageResetArmExpiry).boot.warmArm = none ∧
    after (s (some 680000)) .packageResetArmExpiry = s (some 680000) ∧ (after up .porstNAssert).boot.held = true := by decide +kernel
theorem witness_SidebandReset :
    let s (a : Option Nat) : State := { up with boot := { up.boot with sbArm := a } }
    up.sidebandUp = true ∧ 0x1A4 % 256 ≠ 0xA5 ∧ (after (s (some 5)) (.sbReset 0x1A4)).boot.sbArm = none ∧ up.armedAt (some 679999) = false ∧
    (after (s (some 679999)) (.sbReset 0xA5)).boot.sbArm = some 1000000 ∧ (after (s (some 680000)) (.sbReset 0xA5)).boot.fwReady = false ∧
    0x33 ≠ 0x30 + bitsOf up.pins.straps 3 2 ∧ up.pins.dynAddr ≠ some 0x33 ∧ after (s (some 680000)) (.sbReset 0xA5 (some 0x33)) = s (some 680000) := by decide +kernel
theorem witness_Sideband : up.sidebandUp = true ∧ (after up (.sidebandWrite [7])).sideband.index = 7 ∧ (after up (.sidebandWrite [0x30, 9])).sideband.logIndex = 9 ∧
    (after (after up (.sidebandWrite [250])) (.sidebandRead 10)).sideband.index = 4 ∧ (after (after up (.sidebandWrite [250])) .sidebandBusTimeout).sideband.index = 0 ∧
    ({ up with now := 639999 } : State).sidebandUp = false ∧
    (after up (.sidebandWrite [] none (some 0x88))).pins.dynAddr = some 8 ∧ (after (after up (.sidebandWrite [] none (some 8))) (.sidebandWrite [7] (some 8))).sideband.index = 7 ∧
    0x30 = 0x30 + bitsOf up.pins.straps 3 2 ∧ (after up (.sidebandWrite [7] (some 0x30))).sideband.index = 7 ∧ after up (.sidebandWrite [7] (some 8)) = up ∧
    (after (after up (.sidebandWrite [] none (some 8))) .sidebandBusTimeout).pins.dynAddr = none := by decide +kernel
theorem witness_TestPort : State.reset.boot.held = true ∧ up.boot.held = false ∧ (after up (.testPortCycle false true false)).testPort.tap = .idle ∧
    (after (after up (.testPortCycle false true false)) (.testPortCycle true true true)).testPort.tap = .reset ∧ up.lifecycle = 2 ∧ up.pins.healthy = false ∧
    up.healthyBall = false := by decide +kernel
/-- Die 3, lost with two failed GQUs. -/
def gqusLost : State := withDie dieLost 3 (fun x => { x with units := [1, 2].map (fun i => (gquUnit i, { TestUnit.fresh with failed := true })) })
/-- Die 3, lost, its key fuses others than those of the rest. -/
def unfused : State := withDie dieLost 3 (fun x => { x with fuse := { x.fuse with rootHash := keyHash } })
/-- Die 3, lost, its rollback counter above the version that runs. -/
def unsigned : State :=
  { withDie dieLost 3 (fun x => { x with fuse := { x.fuse with rollback := 9 } }) with
    dies := (withDie dieLost 3 (fun x => { x with fuse := { x.fuse with rollback := 9 } })).dies.map (fun x => { x with fw := some ⟨zeros 64, 7, 0, zeros 64, true⟩ }) }
theorem witness_NarrowResets :
    up.takes 0 = true ∧ ((qUp .disabled []).queue 1).st = .disabled ∧ ((qUp .disabled []).queue 1).recovered = [] ∧ (after (qUp .disabled []) (.queueReset 0 1 0 0)).queue 1 = Queue.reset ∧
    ((qUp .enabled []).queue 1).st ≠ .disabled ∧ (after (qUp .enabled []) (.queueReset 0 1 0 0)).regs.rstResult = 1 ∧ up.healthy 2 = true ∧ up.jobsOnCluster 2 4 = [] ∧
    up.dies.all (fun x => x.power.change.isNone && x.clusters.all (fun k => !k.draining)) = true ∧ (after up (.clusterReset 0 2 4 0)).regs.rstResult = 0 ∧
    (after up (.clusterReset 0 4 0 0)).regs.rstResult = 2 ∧ (after up (.clusterReset 0 0 5 0)).regs.rstResult = 2 ∧ (dieLost.die 3).lost = true ∧ dieLost.takes 0 = true ∧
    (dieLost.die 3).returning = false ∧ dieLost.coolEnough 3 = true ∧ dieLost.healthyDies ≠ [] ∧ dieLost.returnBar 3 = none ∧
    ((after dieLost (.dieReset 0 3 0 0)).die 3).returning = true ∧ (gqusLost.die 3).lost = true ∧ gqusLost.takes 0 = true ∧ (gqusLost.die 3).returning = false ∧
    gqusLost.coolEnough 3 = true ∧ gqusLost.healthyDies ≠ [] ∧ gqusLost.returnBar 3 = some 0x27 ∧ ((after gqusLost (.dieReset 0 3 0 0)).die 3).lost = true ∧
    (unfused.returnBar 3, unsigned.returnBar 3) = (some 0x103, some 0x104) := by decide +kernel
/-- Die `d` in power state `k`, perhaps with a change in progress. -/
def powered (d k : Nat) (c : Option (Nat × Nat × Nat)) : State := withDie up d (fun x => { x with power := { x.power with state := k, change := c } })
theorem witness_DiePower :
    up.takes 0 = true ∧ (up.die 3).lost = false ∧ (up.die 3).returning = false ∧ ((powered 3 0 (some (1, 0, 0))).die 3).power.change.isSome = true ∧
    up.arbOpen (up.overUmlin 0 3 2 3) = true ∧ ((after (powered 3 0 (some (1, 0, 0))) (.diePowerD1 0 3 0 0)).die 3).power.change = some (1, 0, 0) ∧
    (retryUp 3).arbOpen ((retryUp 3).overUmlin 0 3 2 3) = false ∧ ((after (retryUp 3) (.diePowerD3 0 3 0 0)).die 3).power.result = 0 ∧ up.lastD0 3 = false ∧
    ((after up (.diePowerD1 0 3 0 0)).die 3).power.state = 1 ∧ ((after up (.diePowerD3 0 3 0 0)).die 3).power.result = 1 ∧ ((powered 3 1 none).die 3).power.state = 1 ∧
    (powered 3 1 none).queues = [] ∧ (powered 3 1 none).jobs = [] ∧ (powered 3 1 none).storeWrites = [] ∧ (powered 3 3 none).returnBar 3 = none ∧ { powered 3 1 none with regs := { up.regs with ldgStarted := true } }.supReaches = true ∧ (powered 3 1 none).onlyPort 3 = false ∧ (powered 3 1 none).lastD0 3 = false ∧ ((after (powered 3 1 none) (.diePowerD3 0 3 0 0)).die 3).power.state = 3 ∧
    ((after (powered 3 3 none) (.diePowerD0 0 3 0 0)).die 3).returning = true ∧ ((after up (.clusterDisable 0 3 0 0x24)).die 3).power.clDisable = 4 ∧
    ((after (powered 3 1 none) (.clusterDisable 0 3 0 0)).die 3).power.result = 1 := by decide +kernel
theorem witness_DiePower_last :
    let l : State := { up with dies := (powered 1 1 none).dies.take 2 ++ (powered 1 1 none).dies.drop 2 |>.mapIdx (fun d x => if 1 < d then { x with power := { x.power with state := 1 } } else x) }
    let p : State := { powered 1 1 none with ports := [Port.reset, { Port.reset with st := .inService }] }
    l.lastD0 0 = true ∧ (l.die 0).power.state = 0 ∧ ((after l (.diePowerD1 0 0 0 0)).die 0).power.result = 2 ∧ p.takes 1 = true ∧ p.lastD0 1 = false ∧ p.onlyPort 1 = true ∧
    ((after p (.diePowerD3 1 1 0 0)).die 1).power.result = 3 := by decide +kernel
theorem witness_PowerShares : up.healthy 2 = true ∧ ((after up (.powerEstimate 2 9 true)).die 2).power.lastMs = 9 ∧ up.sup.die ≠ none ∧ up.sup.owes = none ∧
    up.healthyDies.length * 60 ≤ up.regs.pwrCap ∧ ((after up .powerDivision).die 2).power.share ≥ 480 ∧ up.boot.pll = true ∧ tempOf 380 < up.shutdownAt ∧
    up.throttleAt ≤ tempOf 380 ∧ ((after up (.thermalSample 2 380)).die 2).power.throttled = true ∧ tempOf 371 < up.throttleEnd ∧
    ((after (after up (.thermalSample 2 380)) (.thermalSample 2 371)).die 2).power.throttled = false ∧ up.shutdownAt ≤ tempOf 460 ∧
    ((after up (.thermalSample 2 460)).die 2).power.thermalStop = true := by decide +kernel

/-! ### The Ledger, peers, links, ports -/

/-- Segments 4 MiB apart; every die's Ledger in use. -/
def ledgerUp : State :=
  { up with regs := { up.regs with segBase := (List.range 8).map (fun d => 0x1000000 * (d + 1)) }
            dies := up.dies.map (fun x => { x with ldg := { x.ldg with inUse := true, lease := some 2000000 } }) }
theorem witness_LedgerStarts :
    ledgerUp.sup.fence = none ∧ ledgerUp.sup.fenceQueue = [] ∧ ledgerUp.sup.recovering = [] ∧ ledgerUp.host.wf = true ∧ ledgerUp.takes 0 = true ∧ ledgerUp.regs.ldgStarted = false ∧ (∀ e, e < ledgerUp.n → (ledgerUp.die e).lost = false) ∧
    (∀ e, e < 4 → (ledgerUp.merge HostView.quiet).segReadable HostView.quiet e = true ∧
      (ledgerUp.merge HostView.quiet).host.readLE (ledgerUp.regs.segBase.getD e 0) 4 ≠ 0x4744454C) ∧
    (∀ e, e < 4 → ∀ f, f < 4 → e ≠ f → ledgerUp.regs.segBase.getD e 0 + 64 ≤ ledgerUp.regs.segBase.getD f 0 ∨
      ledgerUp.regs.segBase.getD f 0 + 64 ≤ ledgerUp.regs.segBase.getD e 0) ∧
    (after ledgerUp (.ldgCtlStart 0 HostView.quiet)).regs.ldgReady = true ∧
    after (after ledgerUp (.ldgCtlStart 0 HostView.quiet)) (.ldgCtlStart 0 HostView.quiet) = after ledgerUp (.ldgCtlStart 0 HostView.quiet) := by decide +kernel
theorem witness_LedgerRetries :
    let s (k : Nat) : State := withDie ledgerUp 2 (fun x => { x with ldg := { x.ldg with retries := some k } })
    ((s 2).die 2).ldg.retries = some 2 ∧ ((s 2).die 2).ldg.segRetries = none ∧ ((after (s 2) (.ledgerIoRetry 2 false)).die 2).ldg.retries = some 1 ∧
    0 + 100 * countsPerUs ≤ (s 2).now ∧ ((s 2).die 2).ldg.retryAt = 0 ∧ ((s 2).die 2).ldg.inUse = true ∧
    after { s 2 with now := 31999 } (.ledgerIoRetry 2 true) = { s 2 with now := 31999 } ∧
    (after (s 1) (.ledgerIoRetry 2 false)).pins.fatal = true ∧ ((after (s 1) (.ledgerIoRetry 2 false)).die 2).unacked.map (·.code) = [0x40] ∧
    ((after (s 1) (.ledgerIoRetry 2 true)).die 2).ldg.retries = none ∧ (after (s 1) (.ledgerIoRetry 2 true)).pins.fatal = false := by decide +kernel
theorem witness_OrderingRead :
    let s : State := { withDie ledgerUp 0 (fun x => { x with ldg := { x.ldg with unstable := [(.accept 1 0 1 0, 0, [])] } }) with
      queues := [(1, mkQueue .enabled)], jobs := [mkJob 1 0 0 .accepting []] }
    let dead : HostView := ⟨[(0x1000005, [1])], []⟩
    let bad : HostView := ⟨[], [(0x1000000, 64)]⟩
    s.arbOpen [atEgress 0 0] = true ∧ s.healthy 0 = true ∧ (s.die 0).ldg.inUse = true ∧ (s.portOf 0).isSome = true ∧ (s.die 0).ldg.stopped = false ∧
    (s.merge HostView.quiet).readHost HostView.quiet (s.regs.segBase.getD 0 0) 64 = some (zeros 64) ∧ field (zeros 64) 5 1 = 0 ∧ (s.die 0).ldg.reclaim = none ∧
    (s.die 0).ldg.held = [] ∧ s.sup.recovering = [] ∧ s.sup.fenceQueue = [] ∧ s.sup.log = [] ∧ (∀ x ∈ s.dies, x.returning = false) ∧ (∀ i ∈ s.jobs, i.st ≠ .finished) ∧
    (∀ e ∈ s.queues, e.2.moving = none ∧ e.2.recovered = []) ∧ (s.queue 1).st = .enabled ∧ (∀ i ∈ s.jobs, i.st = .accepting ∧ i.outcome = none ∧ i.suspending = false) ∧
    (after s (.orderingReadComplete 0 HostView.quiet)).jobs.map (fun j => (j.st, j.acceptedAt)) = [(.waiting, 5000)] ∧
    ((after s (.orderingReadComplete 0 HostView.quiet)).die 0).ldg.lease = some (1000000 + 150 * countsPerUs) ∧
    (∃ h, (s.merge dead).readHost dead (s.regs.segBase.getD 0 0) 64 = some h ∧ field h 5 1 ≠ 0) ∧ ((after s (.orderingReadComplete 0 dead)).die 0).returning = true ∧
    (s.merge bad).readHost bad (s.regs.segBase.getD 0 0) 64 = none ∧ s.pins.fatal = false ∧ ((after s (.orderingReadComplete 0 bad)).die 0).ldg.retries = some 3 := by
  intro s dead bad
  refine ⟨?_, ?_, ?_, ?_, ?_, ?_, ?_, ?_, ?_, ?_, ?_, ?_, ?_, ?_, ?_, ?_, ?_, ?_, ?_, ⟨(zeros 64).set 5 1, ?_, ?_⟩, ?_, ?_, ?_, ?_⟩ <;> decide +kernel
theorem witness_Lease :
    let s (e : Nat) : State := withDie ledgerUp 0 (fun x => { x with ldg := { x.ldg with lease := some e } })
    ((s 1000000).die 0).ldg.lease = some 1000000 ∧ 1000000 ≤ (s 1000000).now ∧ (after (s 1000000) (.leaseExpiry 0)).mayWrite 0 = false ∧
    after (s 1000001) (.leaseExpiry 0) = s 1000001 := by decide +kernel
/-- Die 0 looks at die 1 as given. -/
def peerUp (p : Peer) : State := withDie ledgerUp 0 (fun x => { x with peers := x.peers.set 1 p, gtc := 96000 })
theorem witness_Peers :
    let v (a : Nat) : State := withDie (peerUp ⟨0, some 3, 7⟩) 1 (fun x => { x with ldg := { x.ldg with liveFrom := a } })
    let m : State := { peerUp ⟨0, some 3, 0⟩ with ctrl := [⟨1, 0, .heartbeat, false⟩, ⟨1, 0, .go 1 0 0, false⟩] }
    ledgerUp.healthy 0 = true ∧ ledgerUp.boot.fwReady = true ∧ (ledgerUp.spread 4 [0]).contains 1 = true ∧ 0 < (ledgerUp.die 1).peers.length ∧
    (after ledgerUp (.heartbeatSend 0)).ctrl = [⟨0, 1, .heartbeat, false⟩, ⟨0, 2, .heartbeat, false⟩, ⟨0, 3, .heartbeat, false⟩] ∧ m.firstCtrl 1 0 = some .heartbeat ∧
    m.arbOpen (m.umlinPorts 1 0 0 0) = true ∧ ledgerUp.arbOpen [atEgress 0 0] = true ∧
    (after m (.heartbeat 1 0)).peer 0 1 = ⟨1000000, none, 0⟩ ∧ (after m (.heartbeat 1 0)).ctrl = [⟨1, 0, .go 1 0 0, false⟩] ∧
    (peerUp ⟨984000, none, 0⟩).anyPort = true ∧ (after (peerUp ⟨984000, none, 0⟩) (.heartbeatAbsence 0 1)).peer 0 1 = ⟨984000, some 1000000, 0⟩ ∧
    (v 904001).livenessWord 1 = 0 ∧ (v 904001).livenessStale 0 1 = false ∧ (v 904000).livenessStale 0 1 = true ∧ ((after (v 904001) (.heartbeatAbsence 0 1)).die 1).lost = true ∧
    ((peerUp ⟨0, some 3, 0⟩).die 1).ldg.inUse = true ∧ ((peerUp ⟨0, some 3, 0⟩).die 1).ldg.liveFrom + 300 * countsPerUs ≤ (peerUp ⟨0, some 3, 0⟩).now ∧ ((after (peerUp ⟨0, some 3, 0⟩) (.livenessStall 0 1)).die 1).lost = true ∧
    ledgerUp.mayWrite 0 = true ∧ ledgerUp.regs.segBase.getD 0 0 + 64 ≤ hostTop ∧ (after ledgerUp (.livenessAdvance 0)).livenessWord 0 = 5000 := by decide +kernel
theorem witness_Fence :
    let s (w : Nat) : State := { ledgerUp with sup := { ledgerUp.sup with fence := some (3, w, true) } }
    let way := ((s 0).healthyDies.filter (fun e => ((s 0).die e).ldg.inUse)).map (fun e => atEgress e 0)
    let g : State := ((s 0).merge HostView.quiet).granted way
    let bad : HostView := ⟨[], [(0x2000000, 64)]⟩
    (s 1000000).sup.fence = some (3, 1000000, true) ∧ (s 1000000).sup.die = some 0 ∧ 1000000 ≤ (s 1000000).now ∧
    way.length = 4 ∧ (s 0).arbOpen way = true ∧ g.fenceRead HostView.quiet = true ∧ (g.fenceReads HostView.quiet).sup.die = some 0 ∧
    (g.fenceReads HostView.quiet).segReadable HostView.quiet 3 = true ∧ (after (s 0) (.fenceWaitEnd HostView.quiet)).sup.fence = none ∧
    (((s 0).merge bad).granted way).fenceRead bad = false ∧ (after (s 0) (.fenceWaitEnd bad)).sup.fence = some (3, 0, true) ∧
    (frozenDie (s 0) 1).arbOpen way = false ∧ (after (frozenDie (s 0) 1) (.fenceWaitEnd HostView.quiet)).sup.fence = some (3, 0, true) ∧
    (s 1000001).now < 1000001 ∧
    after (s 1000001) (.fenceWaitEnd HostView.quiet) = s 1000001 := by decide +kernel
theorem witness_Ports :
    let f : State := { up with ports := [{ Port.reset with st := .inService }, { Port.reset with st := .failed, trained := true }] }
    let v : State := { up with ports := up.ports.map (fun x => { x with downSince := some 0, vec := [(3, (1, 1000000))] }), now := 320000000 }
    up.ports.length = 2 ∧ (up.port 1).st = .inService ∧ (up.port 1).downSince = none ∧ ((after up (.linkDown 1)).port 1).downSince = some 1000000 ∧
    (f.port 1).st = .failed ∧ ((after f (.linkDown 1)).port 1).trained = false ∧ up.portKilled 1 = false ∧ ((after f (.linkRetrained 1 5 true true)).port 1).trained = true ∧
    (after (after up (.linkDown 1)) (.linkRetrained 1 4 false true)).port 1 = { up.port 1 with trained := true, rate := 4 } ∧
    ((v.port 1).downSince.any (fun t => decide (t + v.regs.retrainLimit * countsPerUs ≤ v.now))) = true ∧ ((after v (.retrainLimitExpiry 1 HostView.quiet)).port 1).st = .failed ∧
    ((after up (.completionTimeout 1 HostView.quiet)).port 1).trained = true ∧ (after f (.linkError 0 HostView.quiet)).pins.fatal = true ∧ f.portUp 0 = true ∧
    ((after f (.portEnable 0 1)).port 1).st = .inService ∧ v.portUp 1 = true ∧ (v.port 1).vec.get 3 = some (1, 1000000) ∧ 1000000 + v.regs.vecHoldoff 3 ≤ v.now ∧
    ((after v (.msixHoldoff 1 3)).port 1).vec = [] := by decide +kernel
theorem witness_Lanes :
    let r : State := { qUp .enabled [mkJob 1 0 1 .running []] with dies := ledgerUp.dies }
    up.portUp 1 = true ∧ after up (.laneRepair true 0 1 64) = up ∧ ((after up (.laneRepair true 0 1 32)).port 1).x32 = true ∧
    ((after up (.laneRepair true 0 1 63)).die 1).unacked.map (fun r => (r.code, r.detail)) = [(0x23, 32)] ∧ ((after up (.laneRepair true 0 1 31)).port 1).st = .failed ∧
    up.healthy 0 = true ∧ (up.die 0).linksUp.getD 3 false = true ∧ after up (.laneRepair false 0 3 64) = up ∧ linkPeer up.n 0 3 ≠ (0, 3) ∧ (up.die 0).lanesUmlin.length = 4 ∧
    ((after up (.laneRepair false 0 3 32)).die 0).lanesUmlin = [64, 64, 64, 32] ∧ ((after up (.umlinLinkLost 0 3)).die 0).linksUp = [true, true, true, false] ∧
    (r.job 1 0).isSome = true ∧ (mkJob 1 0 1 .running []).kind = 1 ∧ (mkJob 1 0 1 .running []).cancelBy = none ∧ (after r (.hostReadError 0 0 1 0)).jobs = [] ∧
    (r.die 0).ldg.inUse = true ∧ (r.die 0).ldg.retries = none ∧ ((after r (.hostReadError 0 3 1 0)).die 0).ldg.retries = some 3 ∧ r.watchPort 1 = some 1 ∧
    ((after r (.hostReadError 0 2 1 0)).die 1).unacked.map (·.code) = [4] := by decide +kernel

/-! ### Units, tests, injection, memory -/

theorem witness_TestSlices :
    let u := arrayUnit 4
    let s (y : TestUnit) : State := withDie { up with regs := { up.regs with tnkInitDone := true } } 1 (fun x => { x with units := [(arrayUnit 4, y)] })
    let f : TestUnit := TestUnit.fresh
    up.healthy 1 = true ∧ dieUnits.contains u = true ∧ ((up.die 1).unit u).running = none ∧ 3 < slicesOf u ∧ (up.die 1).passDone = false ∧ (up.die 1).runningUnits = [] ∧
    ((up.die 1).cluster (unitCluster u)).off = false ∧ ((after up (.tinkerSliceStart 1 u 3)).die 1).unit u = { f with running := some (3, 5000) } ∧
    ((up.die 1).unit u).failed = false ∧ ((up.die 1).unit u).suspect = none ∧ ((up.die 1).unit u).since = none ∧ up.domainBusy 1 u = false ∧
    up.boot.fwReady = true ∧ ((up.die 1).unit u).passed.contains 3 = false ∧ up.windowsClear 1 u = true ∧ up.jobWindowCovers 1 u = false ∧ gquUnit 5 / 4096 = 6 ∧ up.arbOpen [atPortB 1 ((up.die 1).latticeOf 5) 2] = true ∧
    (up.die 1).latticeOf 5 ∈ ((after up (.tinkerSliceStart 1 (gquUnit 5) 0)).die 1).lattices ∧ bankUnit 4 7 / 4096 = 5 ∧ up.bankFree 1 (bankUnit 4 7) = true ∧
    up.dies.all (fun x => x.spares.remap.isNone && x.spares.waiting.isEmpty) = true ∧ testUnitOf u = some u ∧ (((after (s { f with running := some (3, 0) }) (.tinkerSliceEnd 1 u true 0)).die 1).unit u).passed = [3] ∧
    (((after (s { f with running := some (3, 0), passed := [0, 1, 2] }) (.tinkerSliceEnd 1 u true 0)).die 1).unit u).tested = true ∧
    (((after (s { f with running := some (3, 0) }) (.tinkerSliceEnd 1 u false 9)).die 1).unit u).running = none ∧
    (s f).regs.tnkInitDone = true ∧ 0 + up.regs.tnkInterval.getD (testKind u) 0 = 16000000 ∧
    (((after (withDie (s { f with since := some 0 }) 1 (fun x => { x with gtc := 16000000 })) (.testOverdue 1 u)).die 1).unit u).overdue = true := by decide +kernel
theorem witness_FaultyUnits :
    let u := arrayUnit 4
    let s : State := withDie up 1 (fun x => { x with units := [(arrayUnit 4, { TestUnit.fresh with suspect := some 0 })], arbs := [(31, { Arb.reset with lock := some (64, 999360) }), (32, { Arb.reset with lock := some (worldOwners, 0) })] })
    let m : State := withDie up 1 (fun x => { x with units := [(bankUnit 4 7, { TestUnit.fresh with suspect := some (unitCode 5 57 + 1) })] })
    (up.die 1).remapping = false ∧ s.dies.all (fun x => x.spares.remap.isNone && x.spares.waiting.isEmpty) = true ∧ (m.die 1).remapping = true ∧
    ((after m (.unitFault 1 (unitCode 6 5) 4)).die 1).spares.waiting = [(unitCode 6 5, 0x0019, false, false)] ∧
    up.healthy 1 = true ∧ ((after up (.partitionMismatch 1 3 true 7)).die 1).unacked.map (·.code) = [0x0B] ∧ ((after up (.partitionMismatch 1 3 false 7)).die 1).lost = true ∧
    ((after up (.partitionMismatch 1 3 true 7 5 true)).part 1 3).differs = some (7, 5) ∧ 64 < worldOwners ∧
    (up.die 1).spares.columns.length = 5 ∧ ((up.die 1).spares.columns.getD 4 []).length < 8 ∧
    ((after up (.unitFault 1 (unitCode 2 (529 * 4 + 527)) 4)).die 1).spares.columns.getD 4 [] = [527] ∧ unitCode 6 0 / 4096 ≠ 0 ∧
    ((s.die 1).unit u).suspect = some 0 ∧ (((after s (.suspectTest 1 u true)).die 1).unit u).suspect = none ∧ ((s.die 1).arb 31).lock = some (64, 999360) ∧
    ((s.die 1).arb 31).lockMax ≤ 2 * (s.now - 999360) ∧ ((after s (.lockMaxHold 1 31)).die 1).arb 31 = { Arb.reset with orphans := 1 } ∧
    ((s.die 1).arb 32).lockMax ≤ 4 * (s.now - 0) ∧ worldOwners ≠ vaultOwner 2 ∧ ((after s (.lockMaxHold 1 32)).die 1).arb 32 = { Arb.reset with orphans := 1 } := by decide +kernel
theorem witness_Injection :
    let s : State := withDie (qUp .enabled []) 1 (fun x => { x with injUnlocked := true })
    let g : State := s.modQueue 1 (fun x => { x with entry := { x.entry with group := 0 } })
    let a (k : Nat) : State := withDie s 1 (fun x => { x with inj := x.inj.set 7 { InjSlot.reset with target := k, arm := true, atGtc := true, at_ := 5000, left := 1 } })
    s.takes 0 = true ∧ s.arbOpen (s.overUmlin 0 1 2 1) = true ∧ s.injAvailable 1 = true ∧ (s.die 1).inj[7]? = some InjSlot.reset ∧ s.lifecycle = 2 ∧ (∀ e ∈ s.queues, e.2.st = .enabled → e.2.entry.group ≠ 0) ∧
    ((after s (.injectArm 0 1 7 0x30006)).die 1).inj[7]? = some { InjSlot.reset with target := 6, op := 0, count := 0, atGtc := true, arm := true, left := 1 } ∧
    (∃ e ∈ g.queues, e.2.st = .enabled ∧ e.2.entry.group = 0) ∧ ((after g (.injectArm 0 1 7 0x30006)).die 1).injRefused = true ∧
    (((after (a 6) (.injectArm 0 1 7 0)).die 1).inj.getD 7 InjSlot.reset).arm = false ∧ ((a 6).die 1).healthy = true ∧ 5000 ≤ (a 6).gtc 1 ∧
    (((after (a 3) (.atGtcInjection 1 7)).die 1).inj.getD 7 InjSlot.reset).arm = false ∧ (((after (a 6) (.atGtcInjection 1 7)).die 1).inj.getD 7 InjSlot.reset).live = true := by
  decide +kernel
theorem witness_HbmLines :
    let l := (0, 0)
    let p := lineOffset (0, 0)
    let pool : State := { up with regs := { up.regs with worldSize := 0, jobPool := 720, corrDepth := 1 } }
    up.healthy 1 = true ∧ up.boot.memReady = true ∧ (up.die 1).poison.contains l = false ∧ (∀ i ∈ (up.die 1).inj, i.arm = false) ∧
    rsDecode up.regs.corrDepth (flipSymbols ((up.die 1).codeword 0 0) []) = .clean ∧ ((after up (.hbmReadOutcome 1 0 0 [] 0 none)).die 1).hbm = (up.die 1).hbm ∧
    up.arbOpen [atPc 1 0 2] = true ∧ (up.die 1).repairs = [] ∧ { up with regs := { up.regs with worldSize := 0 } }.inStructures p = false ∧ p < up.regs.poolBase ∧ up.inStructures p = true ∧ pool.inStructures p = false ∧
    rsDecode up.regs.corrDepth (flipSymbols ((up.die 1).codeword 0 0) [(5, 3)]) = .corrected (zeros 68) ∧ (up.die 1).corrLogged.contains l = false ∧
    ((after up (.hbmReadOutcome 1 0 0 [(5, 3)] 0 none)).die 1).unacked.map (·.code) = [2] ∧
    ((up.scrubTurn 1).die 1).scrubbed.contains l = false ∧ up.lineWanted 1 l = false ∧ ((after up (.scrub 1 0 0 [] 0)).die 1).scrubbed = [l] ∧
    ((after up (.scrub 1 0 0 [(5, 3)] 0)).die 1).unacked.map (·.code) = [2] ∧ (((after up (.scrub 1 0 0 [] 0)).scrubTurn 1).die 1).scrubbed.contains l = true ∧
    after (after up (.scrub 1 0 0 [] 0)) (.scrub 1 0 0 [(5, 3)] 0) = (after up (.scrub 1 0 0 [] 0)).scrubTurn 1 ∧
    rsDecode pool.regs.corrDepth (flipSymbols ((up.die 1).codeword 0 0) [(5, 3), (6, 1)]) = .uncorrectable ∧ pool.regs.poolBase ≤ p ∧ p < pool.regs.traceBase ∧
    ((after pool (.hbmReadOutcome 1 0 0 [(5, 3), (6, 1)] 0 none)).die 1).poison = [(0, 0)] := by decide +kernel
theorem witness_HbmRepaired :
    let s : State := withDie up 1 (fun x => { x with repairs := [((0, 0), none)] })
    (s.die 1).repairs.find? (fun k => decide (k.1 = (0, 0))) = some ((0, 0), none) ∧ s.copyOf 1 (0, 0) = some 0 ∧ ((after s (.hbmRepaired 1 0 0)).die 1).repairs = [] := by
  decide +kernel
theorem witness_Banks :
    let c : Cluster := { Cluster.reset with banks := List.replicate 66 0 }
    let z (j : List Job) : State := { withDie up 1 (fun x => { x with clusters := x.clusters.set 4 c }) with jobs := j, now := 3200000 }
    let r : RunData := { slot := 0, params := [], bufs := [], lcs := [⟨1, 4, true, [], [], ⟨0, 0, 0⟩⟩], work := ⟨0, 0, 0⟩, carried := none, diverse := [], shares := [], stages := [],
                         placed := true, gquFail := [], disputed := [], primary := [], forced := [], inputs := [], chans := [], numeric := false, numericStage := 0, waitsDiverse := false, checkFail := none }
    let j : Job := { mkJob 1 0 1 .running [] with run := some r }
    let e : State := withDie up 1 (fun x => { x with clusters := x.clusters.set 4 { c with banks := c.banks.set 65 3 } })
    (z []).clusterBusy 1 4 = false ∧ (z []).clusterHeld 1 4 = false ∧ (z []).regs.offIdle * countsPerUs ≤ (z []).now - 0 ∧
    ((after (z []) (.bankIdle 1 4)).die 1).clusters[4]? = some Cluster.reset ∧ (z [j]).clusterHeld 1 4 = true ∧ (z [j]).clusterBusy 1 4 = false ∧
    (((after (z [j]) (.bankIdle 1 4)).die 1).cluster 4).banks[0]? = some 1 ∧ ((e.die 1).cluster 4).banks.getD 65 2 = 3 ∧ (((after e (.bankExit 1 4 65)).die 1).cluster 4).banks.getD 65 2 = 0 := by
  decide +kernel

/-! ### Waits, dispatch -/

theorem witness_Waits :
    let s (j : Job) : State := qUp .enabled [j]
    let w : Job := mkJob 1 0 1 .waiting [(4, natLE 4 4000)]
    let m : Job := mkJob 1 0 1 .waiting [(4, natLE 4 4000), (0x10, [2])]
    let e : Job := mkJob 1 0 1 .waiting [(0x10, [2]), (0x18, natLE 8 4999)]
    let b : Job := { m with binds := [⟨1, 1, 0, 5000, false, false⟩, ⟨2, 1, 0, 5001, false, false⟩] }
    let f : Job := mkJob 1 0 1 .waiting [(2, [5])]
    let x : Job := mkJob 1 0 1 .waiting [(4, natLE 4 4000), (0x10, [2]), (0x18, natLE 8 3999)]
    (s w).job 1 0 = some w ∧ w.waitHolds = true ∧ w.flow = 0 ∧ w.moved = false ∧ w.owner < (s w).n ∧ (s w).group 1 = 1 ∧ ((s w).die 0).parts.length = 4 ∧
    (∀ x ∈ ((s w).die 0).parts, x.ready.length = 16) ∧ (after (s w) (.waitMet 1 0)).jobs.map (fun j => (j.st, j.met)) = [(.ready, true)] ∧
    (1, 0) ∈ ((after (s w) (.waitMet 1 0)).part 0 (partOf 1)).ready.getD 1 [] ∧ (m.dueBy 4000).waitHolds = false ∧ m.acceptedAt + m.f 4 4 = 4000 ∧ (x.dueBy 4000).waitHolds = false ∧ x.f 0x18 8 < 4000 ∧
    ((after (s m) (.waitTimeout 1 0)).host.get 0, (after (s x) (.waitTimeout 1 0)).jobs.length) = (0, 0) ∧
    (after (s m) (.waitTimeout 1 0)).jobs.length = 0 ∧ e.f 0x18 8 < (s e).gtc 0 ∧ (after (s e) (.deadlineExpiry 1 0)).jobs.length = 0 ∧
    (after (s b) (.gtcBinding 1 0)).jobs.map (fun j => (j.flags, j.st)) = [(2, .waiting)] ∧ f.flow ≠ 0 ∧
    (after (s f) (.waitMet 1 0)).jobs.map (·.st) = [.flowWait] := by decide +kernel
theorem witness_Notices :
    let x : SyncObj := ⟨0, 7, false, 0, [], (0, 1), true⟩
    let b : Bind := ⟨3, 0, 9, 7, false, false⟩
    let s (b : Bind) : State := { qUp .enabled [{ mkJob 1 0 1 .waiting [] with binds := [b] }] with syncs := [(9, x)] }
    let c : Chan := ⟨⟨none, none, none⟩, ⟨none, none, none⟩, (0, 1), true⟩
    let z : State := { up with chans := [(9, c)] }
    let p (l : List CtrlMsg) : State := { up with syncs := [(9, x)], ctrl := l }
    (s b).syncHolds b = true ∧ (after (s b) (.syncWatch 1 0)).jobs.map (·.binds) = [[{ b with watched := true, notice := true }]] ∧
    (s b).arbOpen ((s b).overUmlin 0 ((s b).holdersOf 9).1 0 9) = true ∧ (s b).arbOpen ((s b).overUmlin ((s b).holdersOf 9).1 0 0 9) = true ∧
    (∀ j ∈ (s { b with watched := true, notice := true }).jobs, j.st ≠ .running ∧ j.owner = 0) ∧
    (after (s { b with watched := true, notice := true }) (.syncNotify 9 0)).jobs.map (fun j => (j.flags, j.binds)) = [(8, [{ b with watched := true }])] ∧
    (∀ m ∈ (s b).ctrl, m.body ≠ .notify 9) ∧ ((s b).holdersOf 9).1 ≠ 3 ∧ (p [⟨1, 3, .notify 9, false⟩, ⟨1, 3, .go 1 0 0, false⟩]).firstCtrl 1 3 = some (.notify 9) ∧ ((s b).holdersOf 9).1 = 1 ∧
    (p [⟨1, 3, .notify 9, false⟩]).arbOpen ((p []).umlinPorts 1 3 0 0) = true ∧ (after (p [⟨1, 3, .notify 9, false⟩, ⟨1, 3, .go 1 0 0, false⟩]) (.syncNotify 9 3)).ctrl = [⟨1, 3, .go 1 0 0, false⟩] ∧
    (p [⟨1, 3, .go 1 0 0, false⟩, ⟨1, 3, .notify 9, false⟩]).firstCtrl 1 3 ≠ some (.notify 9) ∧
    after (p [⟨1, 3, .go 1 0 0, false⟩, ⟨1, 3, .notify 9, false⟩]) (.syncNotify 9 3) = p [⟨1, 3, .go 1 0 0, false⟩, ⟨1, 3, .notify 9, false⟩] ∧
    (s b).syncs.get 9 = some x ∧ (s b).healthy x.holders.1 = true ∧ ((after (s b) (.syncHolderCopy 9)).syncs.get 9).map (·.exposed) = some false ∧
    z.syncs.get 9 = none ∧ z.chans.get 9 = some c ∧ ((after z (.syncHolderCopy 9)).chans.get 9).map (·.exposed) = some false := by decide +kernel
theorem witness_Flows :
    let j : Job := { mkJob 1 0 1 .flowWait [(2, [5])] with met := true }
    let s (w : List (Nat × Nat × Nat)) (h : Option (Nat × Nat)) (l : Bool) : State := { qUp .enabled [j] with flows := [(5, ⟨h, w, l⟩)] }
    let g := s [(1, 0, 9), (2, 0, 9), (3, 0, 10)] none false
    (s [] none false).flowState 5 = ⟨none, [], false⟩ ∧ j.flow = 5 ∧ (after (s [] none false) (.flowReq 1 0)).flowState 5 = ⟨none, [(1, 0, 5000)], false⟩ ∧
    (∀ v ∈ (g.flowState 5).waiting, v ≠ (1, 0, 9) → flowBefore (1, 0, 9) v = true) ∧ (after g (.flowGrant 5)).flowState 5 = ⟨some (1, 0), [(2, 0, 9), (3, 0, 10)], false⟩ ∧
    g.arbOpen (g.overUmlin 0 (g.holderAt 5) 0 5) = true ∧ g.arbOpen (g.overUmlin (g.holderAt 5) 0 0 5) = true ∧ j.dispatched = false ∧
    (after g (.flowGrant 5)).jobs.map (·.st) = [.ready] ∧ ((s [(1, 0, 9)] (some (2, 0)) false).flowState 5).holder.isSome = true ∧
    (after (s [(3, 0, 10), (1, 0, 9)] none true) (.flowHomeRebuild 5)).flowState 5 = ⟨none, [(1, 0, 9), (3, 0, 10)], false⟩ := by decide +kernel
/-- Every unit of a die, tested at count 0. -/
def testedUnits : KMap TestUnit :=
  ((List.range 5).map arrayUnit ++ (List.range 5).map lanesUnit ++ (List.range 66).flatMap (fun b => (List.range 5).map (bankUnit · b)) ++
    (List.range 33).map gquUnit ++ (List.range 5).map selectUnit).map (fun u => (u, { TestUnit.fresh with since := some 0 }))
/-- A part whose units are all tested, job `j` at the head of group `g` of its partition. -/
def headUp (g : Nat) (j : Job) : State :=
  let z : State := withDie (qUp .enabled [j]) 0 (fun x =>
    { x with
      units := testedUnits
      parts := x.parts.set 1 { Partition.reset with ready := Partition.reset.ready.set g [(1, 0)] } })
  z.modQueue 1 (fun x => { x with entry := { x.entry with group := g } })
theorem witness_GroupZero :
    let q := HostView.quiet
    let j : Job := mkJob 1 0 0 .ready [(0x18, natLE 8 5000)]
    let w : Job := mkJob 1 0 1 .ready []
    let e : Job := mkJob 1 0 0 .ready [(0x18, natLE 8 4999)]
    (headUp 0 j).healthy 0 = true ∧ (headUp 0 j).job 1 0 = some j ∧ partOf 1 = 1 ∧ ((headUp 0 j).die 0).passDone = true ∧ (headUp 0 j).pins.fatal = false ∧ ((headUp 0 j).part 0 1).differs = none ∧
    (∀ i ∈ (headUp 0 j).jobs, i.run.map (·.waitsDiverse) ≠ some true) ∧ ((headUp 0 j).part 0 1).head 0 = some (1, 0) ∧ (headUp 0 j).gtc 0 ≤ j.f 0x18 8 ∧
    (((headUp 0 j).merge q).attempt q 1 0).1 = .dispatched ∧ (((headUp 0 e).merge q).attempt q 1 0).1 = .completed ∧
    (after (headUp 0 j) (.nextDispatch 0 1 q)).jobs.map (fun j => (j.st, j.dispatched, j.order)) = [(.running, true, 1)] ∧
    ((headUp 1 j).part 0 1).head 0 = none ∧ ((headUp 1 j).part 0 1).cur = 1 ∧ ((headUp 1 j).part 0 1).head 1 = some (1, 0) ∧
    (headUp 1 w).asks w = true ∧ ((headUp 0 j).part 0 1).decided ≠ some (headUp 0 j).now ∧
    ((after (headUp 0 j) (.nextDispatch 0 1 q)).part 0 1).decided = some 1000000 ∧
    after (after (headUp 0 j) (.nextDispatch 0 1 q)) (.nextDispatch 0 1 q) = after (headUp 0 j) (.nextDispatch 0 1 q) ∧
    ((((headUp 0 j).merge q).modPart 0 1 (fun x => { x with decided := some 1000000 })).attempt q 1 0).1 = .dispatched ∧
    ((((headUp 0 e).merge q).modPart 0 1 (fun x => { x with decided := some 1000000 })).attempt q 1 0).1 = .completed ∧
    (headUp 1 w).reservedElse 1 0 2 = false ∧ ((headUp 1 w).touches w).contains 2 = false ∧ after (headUp 1 w) (.reservationRequest 2 1 0) = headUp 1 w := by decide +kernel

/-! ### Plans -/

/-- A plan image of one stage with one operation, digest of tensor 0 into tensor 1; signed when `sg` is 2. -/
def planImage (sg : Nat) : List Byte :=
  natLE 4 0x4E414C50 ++ natLE 2 1 ++ natLE 2 256 ++ natLE 8 (if sg = 0 then 512 else 1088) ++ natLE 4 sg ++ [0, 1, 0, 0] ++ natLE 8 0 ++
  natLE 8 256 ++ natLE 8 64 ++ natLE 8 320 ++ natLE 8 64 ++ natLE 8 384 ++ natLE 8 64 ++ natLE 8 448 ++ natLE 8 16 ++ natLE 8 512 ++ zeros 8 ++
  natLE 8 512 ++ natLE 8 (if sg = 0 then 0 else 520) ++ sha512 [] ++ zeros 64 ++
  natLE 8 4096 ++ natLE 8 0 ++ natLE 8 0 ++ natLE 8 4096 ++ natLE 8 0 ++ [128, 0, 0] ++ zeros 21 ++
  (zeros 8 ++ [0, 0xFF, 1, 0, 1, 0, 0, 0] ++ natLE 8 32 ++ zeros 8) ++
  (natLE 2 0x0704 ++ [1, 1] ++ natLE 2 0 ++ List.replicate 6 0xFF ++ natLE 2 1 ++ [0xFF, 0xFF] ++ natLE 4 0 ++ natLE 4 16 ++ zeros 8) ++
  ([0, 1, 0, 0] ++ natLE 4 8 ++ (List.replicate 4 (natLE 4 1)).flatten ++ natLE 8 0) ++
  ([0, 1, 0, 0] ++ natLE 4 16 ++ (List.replicate 4 (natLE 4 1)).flatten ++ natLE 8 64) ++ zeros 64
/-- The signed image with its signature section. -/
def signedImage : List Byte := planImage 2 ++ (zeros 8 ++ (pssEncode (sha512 (sha512 (planImage 2))) (zeros 64) ++ zeros 56))
/-- A part with LOAD_PLAN job 1.0 in a phase, slot 0 as given. -/
def loadUp (kind : Nat) (j : Job → Job) (sl : Option PlanSlot) : State :=
  { qUp .enabled [j (mkJob 1 0 kind .running [(0x50, natLE 8 512), (0x58, natLE 8 1024)])] with plans := (sl.map (fun x => (0, x))).toList }
def loading (k : Nat) : PlanSlot := { PlanSlot.empty with st := .loading, owner := (1, 0), progress := k, image := planImage 0, plan := some (parsePlan (planImage 0)) }
theorem witness_PlanLoads_checks : imageFault (planImage 0) = none ∧ signatureFault (planImage 0) false = none ∧ (parsePlan (planImage 0)).signed = false ∧
    (parsePlan (planImage 0)).structureFault (planImage 0) up.regs.warmSlotBytes = none ∧ (parsePlan (planImage 0)).weightFault (planImage 0) [] = none ∧
    up.resourceFault (parsePlan (planImage 0)) = none ∧ imageFault (zeros 512) = some (LoadFault.at_ 2 noIndex 0) := by decide +kernel
theorem witness_PlanLoads_signed : imageFault signedImage = none ∧ signatureFault signedImage true = none ∧ (parsePlan signedImage).signed = true ∧
    (parsePlan signedImage).structureFault signedImage up.regs.warmSlotBytes = none ∧ (imgSection signedImage 0x70).1 = 512 ∧
    slice signedImage 520 512 = pssEncode (sha512 (sha512 (planImage 2))) (zeros 64) := by decide +kernel
theorem witness_PlanLoads_verified : let k := some key0
    let s : State := { secUp 2 none with plans := [(0, { PlanSlot.empty with st := .loading, owner := (1, 0), progress := 2, keySlot := some 0 })]
                                         jobs := [{ mkJob 1 0 2 .running [] with phase := 1 }] }
    (s.loader 0 2).isSome = true ∧ s.arbOpen [atVault 0 2] = true ∧ s.customerKey 0 0 = k ∧ pssVerify key0 (pssEncode (sha512 (sha512 (planImage 2))) (zeros 64)) (sha512 (planImage 2)) = true ∧
    pssVerify key0 [] [] = false :=
  ⟨by decide +kernel, by decide +kernel, by decide +kernel, pssVerify_ones (by decide +kernel) (by decide +kernel) _ _ rfl, by decide +kernel⟩
theorem witness_PlanLoads_steps :
    let id : Job → Job := fun j => j
    let p1 : Job → Job := fun j => { j with phase := 1 }
    (loadUp 2 id none).waitingDrops 0 = [] ∧ ((loadUp 2 id none).inPhase 1 0 2 0).map (·.f 0x40 1) = some 0 ∧ ((loadUp 2 id none).planSlot 0).st = .free ∧
    ((after (loadUp 2 id none) (.loadPlan 1 0)).planSlot 0).progress = 1 ∧ ((loadUp 2 id (some { loading 1 with owner := (2, 0) })).planSlot 0).owner ≠ (1, 0) ∧
    (after (loadUp 2 id (some { loading 1 with owner := (2, 0) })) (.loadPlan 1 0)).jobs = [] ∧ ((loadUp 2 p1 (some (loading 1))).loader 0 1).isSome = true ∧
    ((loadUp 2 p1 (some (loading 1))).merge ⟨[], [(0, 1)]⟩).readHost ⟨[], [(0, 1)]⟩ 0 512 = none ∧
    ((after (loadUp 2 p1 (some (loading 1))) (.planImageFetched 0 ⟨[], [(0, 1)]⟩)).planSlot 0).st = .free := by decide +kernel
theorem witness_PlanLoads_read (s : State) (h : s.host = []) :
    (s.merge ⟨[(0, planImage 0)], []⟩).readHost ⟨[(0, planImage 0)], []⟩ 0 512 = some (planImage 0) := written_read s _ (by decide +kernel) (by decide) h
theorem witness_PlanLoads_ends :
    let id : Job → Job := fun j => j
    let p1 : Job → Job := fun j => { j with phase := 1 }
    let w : State := loadUp 2 p1 (some (loading 3))
    let r : State := solo (loadUp 2 p1 (some { loading 5 with base := some w.regs.planBase }))
    let d (x : SlotState) : State := loadUp 3 id (some { loading 3 with st := x, dropper := (1, 0) })
    let q : State := loadUp 3 p1 (some { loading 3 with st := .dropping, dropper := (1, 0) })
    (loadUp 2 p1 (some (loading 1))).arbOpen [atEgress 0 2] = true ∧ ((loadUp 2 p1 (some (loading 1))).loader 0 1).map (fun j => (j.owner, j.f 0x68 8)) = some (0, 0) ∧ w.arbOpen [atEgress 0 2] = true ∧ r.mayReach 0 = true ∧
    (w.loader 0 3).isSome = true ∧ (w.merge HostView.quiet).readHost HostView.quiet 1024 0 = some [] ∧
    ((after w (.weightBlobFetched 0 HostView.quiet)).planSlot 0).progress = 5 ∧ (r.loader 0 5).isSome = true ∧ (r.planSlot 0).base.isSome = true ∧ r.healthyDies = [0] ∧
    r.arbOpen (r.overUmlin 0 0 1 r.regs.planBase ++ atHbm 0 r.regs.planBase 4096 2) = true ∧
    ((after r (.planReplicated 0)).planSlot 0).st = .ready ∧ ((d .ready).inPhase 1 0 3 0).map (·.f 0x40 1) = some 0 ∧ ((d .ready).planSlot 0).st = .ready ∧
    ((after (d .ready) (.dropPlan 1 0)).planSlot 0).st = .dropping ∧ ((loadUp 3 id none).planSlot 0).st = .free ∧ (after (loadUp 3 id none) (.dropPlan 1 0)).jobs = [] ∧
    (q.planSlot 0).st = .dropping ∧ q.planPinned 0 = false ∧ (q.inPhase 1 0 3 1).isSome = true ∧ q.waitingDrops 0 = [(1, 0)] ∧
    ((after q (.dropPlanUnpinned 0)).planSlot 0).st = .free ∧ (after q (.dropPlanUnpinned 0)).jobs = [] ∧
    ({ q with jobs := q.jobs ++ [{ mkJob 2 0 1 .ready [] with pinPlan := some 0 }] } : State).planPinned 0 = true := by decide +kernel

/-! ### Worlds, bodies -/

/-- A body model of one joint and one primitive. -/
def bodyRec : List Byte := [1, 1] ++ zeros 0x77 ++ [0xFF] ++ zeros 0x3C7 ++ [0xFF] ++ zeros 2046
/-- A world header of one cell. -/
def worldHead : List Byte := [0, 1, 0, 4] ++ natLE 2 1 ++ natLE 2 1 ++ natLE 2 1 ++ zeros 14 ++ natLE 4 32 ++ zeros 36
/-- A part with world job 1.0 of a kind and fields in a phase, world slot 0 as given. -/
def worldUp (kind phase : Nat) (l : List (Nat × List Byte)) (w : Option World) : State :=
  { qUp .enabled [{ mkJob 1 0 kind .running l with phase := phase }] with
    worlds := (w.map (fun x => (0, x))).toList
    regs := { (qUp .enabled []).regs with worldSize := 10, coarseRes := 32 } }
def aWorld (st : WorldState) : World := ⟨st, worldHead, 3, [2], none, (1, 0), none⟩
theorem witness_Bodies : bodyRec.length = bodyBytes ∧ bodyValid bodyRec = true ∧ bodyValid (zeros bodyBytes) = false ∧
    (∀ s : State, s.host = [] → (s.merge ⟨[(0, bodyRec)], []⟩).readHost ⟨[(0, bodyRec)], []⟩ 0 bodyBytes = some bodyRec) ∧
    ((worldUp 4 0 [(0x40, [1]), (0x50, [1])] none).worldJob 1 0 4 1 0).map (fun j => (j.f 0x42 2, j.f 0x50 8)) = some (0, 1) ∧
    ((worldUp 4 0 [(0x40, [1])] none).body 0).loading = none ∧ ((worldUp 4 0 [(0x40, [1])] none).body 0).record = [] ∧
    (after (worldUp 4 0 [(0x40, [1]), (0x50, [1])] none) (.bodyLoad 1 0 HostView.quiet)).jobs = [] ∧
    (let s : State := { solo (worldUp 4 1 [(0x40, [1])] none) with bodies := [(0, ⟨0, [], some ((1, 0), 1, bodyRec)⟩)] }
     (s.worldJob 1 0 4 1 1).isSome = true ∧ s.arbOpen (s.healthyDies.flatMap (fun d => s.overUmlin 0 d 1 0)) = true ∧ (after s (.bodyReplicated 0)).jobs = [] ∧ ((after s (.bodyReplicated 0)).body 0).version = 1) :=
  have h : bodyRec.length = bodyBytes := by decide +kernel
  ⟨h, by decide +kernel, by decide +kernel, fun s hs => written_read s _ h (by decide) hs, by decide +kernel, by decide +kernel, by decide +kernel,
    by decide +kernel, by decide +kernel⟩
theorem witness_Releases :
    let s (w : Option World) : State := worldUp 4 0 [(0x40, [2])] w
    let r : State := worldUp 4 1 [(0x40, [2])] (some (aWorld .releasing))
    let p : State := { r with jobs := r.jobs ++ [{ mkJob 2 0 1 .running [] with pinWorld := some (0, 3) }] }
    ((s none).worldJob 1 0 4 2 0).isSome = true ∧ ((s (some (aWorld .ready))).world 0).st = .ready ∧ ((s (some (aWorld .ready))).world 0).update = none ∧
    ((after (s (some (aWorld .ready))) (.release 1 0)).world 0).st = .releasing ∧ ((s none).world 0).st = .empty ∧ (after (s none) (.release 1 0)).jobs = [] ∧
    (r.worldJob 1 0 4 2 1).isSome = true ∧ (r.world 0).owner = (1, 0) ∧ r.pinnedVersions 0 = [] ∧ ((after r (.releaseUnpinned 0)).world 0).st = .empty ∧
    (after r (.releaseUnpinned 0)).jobs = [] ∧
    (after (s (some (aWorld .loading))) (.release 1 0)).jobs = [] ∧ p.pinnedVersions 0 ≠ [] ∧ after p (.releaseUnpinned 0) = p := by decide +kernel
theorem witness_WorldLoads :
    let hv : HostView := ⟨[(0, worldHead)], []⟩
    let s (v : Nat) (w : Option World) : State := worldUp 4 0 [(0x50, [v]), (0x64, [0xFF, 0xFF, 0xFF, 0xFF])] w
    ((s 1 none).worldJob 1 0 4 0 0).map (fun j => (j.f 0x42 2, j.f 0x50 8)) = some (0, 1) ∧ ((s 1 none).world 0).st = .empty ∧
    ((s 1 none).merge hv).readHost hv 0 64 = some worldHead ∧ headerOk worldHead = true ∧ badRecord worldHead [] = none ∧
    ((s 1 none).worldJob 1 0 4 0 0).bind (((s 1 none).merge hv).emptyWorld 0 |>.readWorldData hv) = some ([], []) ∧
    (((s 1 none).merge hv).emptyWorld 0).worldFits 0 worldHead = true ∧ ((after (s 1 none) (.latticeLoad 1 0 hv)).world 0).st = .loading ∧
    ((s 3 (some (aWorld .ready))).world 0).visible = 3 ∧ (after (s 3 (some (aWorld .ready))) (.latticeLoad 1 0 hv)).jobs = [] ∧
    ((after (s 4 (some (aWorld .ready))) (.latticeLoad 1 0 hv)).world 0).update.map (fun u => (u.version, u.base, u.load)) = some (4, 3, true) := by decide +kernel
theorem witness_WorldUpdates :
    let q := HostView.quiet
    let s (b v : Nat) (w : WorldState) : State := worldUp 5 0 [(0x48, [b]), (0x50, [v]), (0x64, [0xFF, 0xFF, 0xFF, 0xFF])] (some (aWorld w))
    let d (n : Nat) : State := worldUp 5 0 [(0x48, [3]), (0x50, [4]), (0x60, [n]), (0x64, [0xFF, 0xFF, 0xFF, 0xFF])] (some (aWorld .ready))
    let bad : HostView := ⟨[(0, List.replicate 16 0xFF)], []⟩
    let u : WorldUpdate := ⟨(1, 0), 3, 4, false, worldHead, [], [], 0, [], none, false⟩
    let r : State := worldUp 5 1 [] (some { aWorld .ready with update := some u, waitRoom := some (1, 0) })
    ((s 3 4 .loading).worldJob 1 0 5 0 0).isSome = true ∧ (after (s 3 4 .loading) (.worldUpdate 1 0 q)).jobs = [] ∧
    (after (s 3 3 .ready) (.worldUpdate 1 0 q)).jobs = [] ∧ (after (s 2 4 .ready) (.worldUpdate 1 0 q)).jobs = [] ∧
    ((s 3 4 .ready).merge q).readWorldData q (mkJob 1 0 5 .running [(0x64, [0xFF, 0xFF, 0xFF, 0xFF])]) = some ([], []) ∧
    ((after (s 3 4 .ready) (.worldUpdate 1 0 q)).world 0).update.map (fun u => (u.version, u.base, u.load)) = some (4, 3, false) ∧
    badRecord worldHead (List.replicate 16 0xFF) ≠ none ∧ (after (d 16) (.worldUpdate 1 0 bad)).jobs = [] ∧
    (r.world 0).waitRoom = some (1, 0) ∧ r.homeLives u = true ∧ (withDie r 0 (fun x => { x with lost := true })).homeLives u = false ∧ r.versionRoom 0 4 = true ∧ ((after r (.worldVersionRoom 0)).world 0).waitRoom = none := by decide +kernel
/-- World slot 0 with version 4 under way, its dies as given, one record; die 2 with its copy. -/
def versionUp (ds : KMap Nat) (ref : Option (Nat × Nat × Nat)) (lost : Bool) (applied : Nat) : State :=
  let u : WorldUpdate := ⟨(1, 0), 3, 4, false, worldHead, [3, 0, 5, 0] ++ zeros 12, [], 0, ds, ref, lost⟩
  withDie (worldUp 5 1 [] (some { aWorld .ready with update := some u })) 2 (fun x =>
    { x with worlds := [(0, ⟨⟨worldHead, [], [], [], [], []⟩, Coarse.empty, applied, PrepErr.none, none, 3⟩)], arbs := [(brickHome 0 0, { Arb.reset with lock := some (0, 5) })], units := testedUnits })
theorem witness_Versions :
    let a (k : Nat) : KMap Nat := [(0, k), (1, k), (2, k), (3, k)]
    let s (k : Nat) : State := versionUp (a k) none false 0
    let l : KMap Nat := [(0, 5), (1, 6), (2, 6), (3, 6)]
    let up (s : State) : Option WorldUpdate := (s.world 0).update
    let w : WorldUpdate := ⟨(1, 0), 3, 4, false, worldHead, [3, 0, 5, 0] ++ zeros 12, [], 0, a 3, none, false⟩
    let f (r : Option (Nat × Nat × Nat)) (l : Bool) : State := withDie (versionUp (a 3) r l 0) 2 (fun x => { x with arbs := [] })
    let dead : State := withDie (s 3) 0 (fun x => { x with lost := true })
    let line := (((s 1).die 2).worlds.get 0).elim [] (fun y => w.records.flatMap (y.lat.recordLines 0 4))
    (s 0).arbOpen ((s 0).overUmlin 0 2 1 0) = true ∧ (s 3).arbOpen ((s 3).overUmlin 0 2 0 0) = true ∧ (s 3).versionRoom 0 4 = true ∧
    (s 3).homeLives w = true ∧ (f (some (7, 0, 0)) false).arbOpen ((f (some (7, 0, 0)) false).abandonWay 0 w) = true ∧ dead.homeLives w = false ∧ after dead (.commit 2 0) = dead ∧ after dead (.abandon 0) = dead ∧
    line ≠ [] ∧ line.any ((s 1).lineWaits 2) = false ∧ line.any ((s 1).linePoisoned 2) = false ∧ (s 0).healthy 2 = true ∧ (up (s 0)).bind (fun u => u.dies.get 2) = some 0 ∧ (up (after (s 0) (.worldDataReceived 2 0))).bind (fun u => u.dies.get 2) = some 1 ∧
    (up (s 1)).map (fun u => u.records.map (fun r => (r.op, r.bound, r.home 0))) = some [(3, 5, brickHome 0 0)] ∧
    (((s 1).die 2).arb (brickHome 0 0)).lock = some (0, 5) ∧ ((s 1).die 2).passDone = true ∧
    (withDie (s 1) 2 (fun x => { x with units := [] }) |> fun z => (z.die 2).passDone = false ∧ after z (.worldRecordApply 2 0) = z) ∧ (((after (s 1) (.worldRecordApply 2 0)).die 2).worlds.get 0).map (·.applied) = some 1 ∧
    (up (after (versionUp (a 1) none false 1) (.prepared 2 0))).bind (fun u => u.dies.get 2) = some 3 ∧
    (up (after (s 2) (.prepareLost 2 0))).map (fun u => (u.dies.get 2, u.lost)) = some (some 3, true) ∧
    (versionUp (a 3) (some (7, 0, 0)) false 0).allApplied ⟨(1, 0), 3, 4, false, worldHead, [], [], 0, a 3, none, false⟩ 3 = true ∧
    up (after (solo (f (some (7, 0, 0)) false)) (.abandon 0)) = none ∧ (after (solo (f (some (7, 0, 0)) false)) (.abandon 0)).jobs = [] ∧
    up (after (f none true) (.abandon 0)) = none ∧ (f none true).arbOpen ((f none true).abandonWay 0 w) = true ∧ after (versionUp (a 3) none true 0) (.commit 2 0) = versionUp (a 3) none true 0 ∧
    (up (after (s 3) (.commit 2 0))).bind (fun u => u.dies.get 2) = some 4 ∧ (up (after (s 4) (.commitAck 2 0))).bind (fun u => u.dies.get 2) = some 5 ∧
    ((after (s 5) (.visible 2 0)).world 0).visible = 3 ∧ (up (after (s 5) (.visible 2 0))).bind (fun u => u.dies.get 2) = some 6 ∧
    ((after (versionUp l none false 0) (.visible 0 0)).world 0).visible = 4 ∧ up (after (versionUp l none false 0) (.visible 0 0)) = none := by decide +kernel

/-! ### Signals, control jobs -/

theorem witness_Signals :
    let x : SyncObj := ⟨0, 2 ^ 64 - 2, false, 0, [], (0, 1), false⟩
    let s (op v : Nat) (x : SyncObj) : State :=
      { qUp .enabled [mkJob 1 0 6 .running [(0x40, [op]), (0x42, [9]), (0x48, [v]), (0x50, natLE 8 (1 + 256 * 5))]] with syncs := [(9, x)] }
    let y : SyncObj := { x with keys := [⟨1, 0, 77⟩] }
    let w (s : State) : Option (Nat × Bool × Nat) := (s.syncs.get 9).map (fun x => (x.value, x.fired, x.keys.length))
    let n : State := qUp .enabled [mkJob 1 0 0 .running [(0x42, [9])]]
    let a (k : Bool) : State := withDie (qUp .enabled [mkJob 1 0 10 .running [(0x42, [9]), (0x60, natLE 8 0x80000)]]) 0 (fun x => { x with keyReady := k })
    n.job 1 0 = some (mkJob 1 0 0 .running [(0x42, [9])]) ∧ (after n (.nop 1 0)).jobs = [] ∧ (s 0 5 x).syncs.get 9 = some x ∧
    x.keys.find? (fun k => k.q = 1 && k.s = 0) = none ∧ y.keys.find? (fun k => k.q = 1 && k.s = 0) = some ⟨1, 0, 77⟩ ∧
    ((s 0 5 x).signalJob 1 0 0).map (fun j => (j.f 0x42 2, j.f 0x48 8)) = some (9, 5) ∧ ((s 1 5 x).signalJob 1 0 1).isSome = true ∧ ((s 2 5 x).signalJob 1 0 2).isSome = true ∧
    w (after (s 0 5 x) (.signalPost 1 0)) = some (2 ^ 64 - 1, false, 1) ∧ w (after (s 0 5 y) (.signalPost 1 0)) = some (2 ^ 64 - 2, false, 1) ∧
    w (after (s 1 0 x) (.signalFire 1 0)) = some (2 ^ 64 - 2, true, 1) ∧ w (after (s 1 0 y) (.signalFire 1 0)) = some (2 ^ 64 - 2, false, 1) ∧
    ((after (s 2 5 x) (.signalInit 1 0)).syncs.get 9).map (fun x => (x.typ, x.value, x.world)) = some (1, 0, 5) ∧
    ((after { s 2 5 x with syncs := [] } (.signalInit 1 0)).syncs.get 9).map (fun x => (x.typ, x.value, x.world)) = some (1, 0, 5) ∧
    (after (s 2 5 y) (.signalInit 1 0)).jobs = [] ∧ ((a true).inPhase 1 0 10 0).isSome = true ∧ ((a true).die 0).keyReady = true ∧ (a true).arbOpen [atVault 0 2] = true ∧
    (a false).sec.tamper = false ∧ (a false).sec.glitch = false ∧ after (a false) (.attest 1 0) = a false := by decide +kernel
theorem witness_Controls :
    let c (kind : Nat) : Job := mkJob 1 0 kind .running [(0x40, [2])]
    let s (kind : Nat) (l : List Job) : State :=
      { qUp .enabled (c kind :: l) with queues := [(1, mkQueue .enabled), (2, mkQueue .enabled)] }
    let k (st : JState) : Job := mkJob 2 0 1 st []
    let at_ (t : State) : List (JState × Nat × Bool) := t.jobs.map (fun j => (j.st, j.phase, j.suspending))
    let slot : State := withDie (s 9 [k .running]) 0 (fun x => { x with slots := [(0, ⟨some ⟨2, 0, 0, 0, 0, 0⟩, none⟩)] })
    (c 7).target = (2, 0) ∧ (s 7 []).job 2 0 = none ∧ (∀ e ∈ ((s 7 []).queue 2).recovered, e.serial ≠ 0) ∧ (s 7 [k .running]).job 2 0 = some (k .running) ∧
    at_ (after (s 7 [k .running]) (.suspend 1 0)) = [(.running, 1, false), (.running, 0, true)] ∧
    at_ (after (s 7 [k .waiting]) (.suspend 1 0)) = [(.running, 2, false), (.suspended, 0, false)] ∧ (after (s 7 []) (.suspend 1 0)).jobs = [] ∧
    (after (s 7 [k .suspended]) (.suspend 1 0)).jobs = [k .suspended] ∧ at_ (after (s 8 [k .suspended]) (.resume 1 0)) = [(.running, 1, false), (.waiting, 0, false)] ∧
    at_ (after (s 8 [{ k .suspended with dispatched := true }]) (.resume 1 0)) = [(.running, 1, false), (.ready, 0, false)] ∧
    (after (s 8 [k .waiting]) (.resume 1 0)).jobs = [k .waiting] ∧ (after (s 8 []) (.resume 1 0)).jobs = [] ∧ (s 9 [k .waiting]).expired (k .waiting) = false ∧
    (after (s 9 [k .waiting]) (.cancel 1 0)).jobs = [] ∧ slot.opUnderWay 2 0 = true ∧
    (after slot (.cancel 1 0)).jobs.map (fun j => (j.phase, j.cancelBy.isSome)) = [(1, false), (0, true)] ∧ (after (s 9 []) (.cancel 1 0)).jobs = [] := by decide +kernel

/-! ### Stages and operations -/

/-- A plan of one stage on one logical cluster: an operation with a parameter block on tensors 0 and 1 (FP32 [8]) into 2 and 3. -/
def aPlan (code placement n : Nat) (param : List Byte) : Plan :=
  let t (o : Nat) : TensorEnt := ⟨0, 1, 0, 0, [8, 1, 1, 1, 1], o⟩
  let op : OpRec := ⟨code, 2, 2, [0, 1, 0xFFFF, 0xFFFF], [2, 3], 0, 48, 0, param ++ zeros (48 - param.length)⟩
  { imageSize := 512, flags := 0, log2L := 0, stageFlags := 0, spadPerLc := 4096, accPerLc := 0, wsPerSlice := 0, hbmPersist := 4096, hbmWork := 0,
    engineMask := 0, scope := 0, stages := [⟨0, 0, 0xFF, placement, 32, 0, List.replicate n op⟩], loops := [], tensors := [t 0, t 64, t 128, t 192], wrefs := [],
    weightsDigest := zeros 64 }
def anInst : Inst := ⟨0, 0, 0, [], [], true, true, false, false, [], (up.die 0).spares.gquFail⟩
def aStage (st : StageState) (i : Inst) : StageRun := ⟨st, 0, 0, some 5000, true, [i], []⟩
def aCluster (res : Bool) : LogCluster := ⟨0, 0, res, [], [], ⟨0, 0x1000000, 4096⟩⟩
def aRun (lcs : List LogCluster) (sr : List StageRun) : RunData :=
  { slot := 0, params := [], bufs := [], lcs := lcs, work := ⟨0, 0, 0⟩, carried := none, diverse := [], shares := [], stages := sr, placed := true, gquFail := [],
    disputed := [], primary := [], forced := [], inputs := [], chans := [], numeric := false, numericStage := 0, waitsDiverse := false, checkFail := none }
/-- RUN job 1.0 of a plan at work with the given run, its operations' engine slots held. -/
def runUp (p : Plan) (r : RunData) (ph : Nat) : State :=
  let ref : OpRef := ⟨1, 0, 0, 0, 0, 0⟩
  let j : Job := { mkJob 1 0 1 .running [] with run := some r, pinPlan := some 0, phase := ph, dispatched := true }
  withDie { qUp .enabled [j] with plans := [(0, { PlanSlot.empty with st := .ready, plan := some p })] } 0 (fun x =>
    { x with slots := (p.stages.flatMap (fun s => (s.ops.map (fun o => slotKey 0 (engineOf o.opcode))).eraseDups)).map (fun k =>
        (if k = 7 then slotKey 5 0 else if k = 8 then slotKey 5 2 else k, ⟨some ref, none⟩)) })
/-- One operation at work in its engine. -/
def opUp (code : Nat) (param : List Byte) : State := runUp (aPlan code 1 1 param) (aRun [aCluster true] [aStage .launched anInst]) 1
def ref0 : OpRef := ⟨1, 0, 0, 0, 0, 0⟩
theorem witness_Operations : ∀ code ∈ [0x0100, 0x0101, 0x0102, 0x0103, 0x0200, 0x0201, 0x0202, 0x0203, 0x0204, 0x0205, 0x0206, 0x0300, 0x0301, 0x0500, 0x0704, 0x0600,
      0x0601, 0x0602, 0x0603, 0x0700, 0x0701, 0x0702, 0x0703, 0x0400, 0x0401, 0x0402, 0x0403, 0x0404, 0x0501],
    ∃ c, (opUp code []).opCtx ref0 = some c ∧ c.op.opcode = code ∧ c.ins.die < (opUp code []).n ∧ c.primary = none ∧ c.j.cancelBy = none ∧
      (opUp code []).arbOpen ((opUp code []).opReqs c) = true ∧ ((opUp code []).portOf c.ins.die).isSome = true ∧ (opUp code []).mayWrite c.ins.die = true ∧
      (∀ h ∈ (opUp code []).sramHits c, h.single = true) ∧ (opUp code []).readsPoison c = false ∧
      (∀ x ∈ c.op.ins, x ≠ 0xFFFF → (((opUp code []).merge HostView.quiet).tensorBytes HostView.quiet c x).isSome = true) ∧
      (opUp code []).checksumInjection c = none ∧ ((opUp code []).chan c.channel).exposed = false ∧ (∀ u, (((opUp code []).die c.ins.die).unit u).mismatchAt = []) := by
  intro code h
  have : ((opUp code []).opCtx ref0).map (fun c => decide (c.op.opcode = code) && decide (c.ins.die < (opUp code []).n) && c.primary.isNone && c.j.cancelBy.isNone &&
    (opUp code []).arbOpen ((opUp code []).opReqs c) && ((opUp code []).portOf c.ins.die).isSome && (opUp code []).mayWrite c.ins.die &&
    ((opUp code []).sramHits c).all (fun h => h.single) && !(opUp code []).readsPoison c &&
    c.op.ins.all (fun x => decide (x = 0xFFFF) || (((opUp code []).merge HostView.quiet).tensorBytes HostView.quiet c x).isSome) &&
    ((opUp code []).checksumInjection c).isNone && !((opUp code []).chan c.channel).exposed && ((opUp code []).die c.ins.die).units.isEmpty) = some true := by
    revert code; decide +kernel
  obtain ⟨c, hc, e⟩ := Option.map_eq_some_iff.mp this
  simp only [Bool.and_eq_true, Bool.or_eq_true, decide_eq_true_eq, Option.isNone_iff_eq_none, List.all_eq_true, Bool.not_eq_true', List.isEmpty_iff] at e
  obtain ⟨⟨⟨⟨⟨⟨⟨⟨⟨⟨⟨⟨h1, h2⟩, h3⟩, h4⟩, h5⟩, h6⟩, h7⟩, h8⟩, h9⟩, h10⟩, h11⟩, h12⟩, h13⟩ := e
  exact ⟨c, hc, h1, h2, h3, h4, h5, h6, h7, h8, h9, fun x hx hn => (h10 x hx).resolve_left hn, h11, h12, fun u => by rw [Die.unit, h13]; rfl⟩
theorem witness_Operations_ends :
    let p := aPlan 0x0200 1 1 []
    let hb : Plan := { p with tensors := p.tensors.set 0 ⟨0, 1, 2, 0, [8, 1, 1, 1, 1], 0⟩ }
    let s : State := withDie (runUp hb (aRun [aCluster true] [aStage .launched anInst]) 1) 0 (fun x => { x with poison := [(0, 0)] })
    let u : State := { s with plans := [(0, { PlanSlot.empty with st := .ready, plan := some hb, base := some 0 })] }
    ((u.opCtx ref0).map (fun c => ((u.merge HostView.quiet).opData HostView.quiet c).isNone && (u.checksumInjection c).isNone && (u.sramHits c).isEmpty)) = some true ∧
    (after u (.elementwise ref0 HostView.quiet none none)).jobs = [] ∧ ((after (opUp 0x0200 []) (.elementwise ref0 HostView.quiet none none)).opCtx ref0).isNone = true ∧
    (((opUp 0x0200 []).die 0).unit 0).mismatchAt = [] ∧
    (after (opUp 0x0200 []) (.elementwise ref0 HostView.quiet (some 3) none)).jobs.map (fun j => (j.st, j.run.isNone)) = [(.waiting, true)] := by decide +kernel
/-- A matrix product of [1,1] and [1,1] of INT8, and what an array whose first column is struck finds (R150 to R155). -/
def matPlan : Plan := let p := aPlan 0x0100 1 1 []
  { p with tensors := [⟨5, 2, 0, 0, [1, 1, 1, 1, 1], 0⟩, ⟨5, 2, 0, 0, [1, 1, 1, 1, 1], 64⟩, ⟨0, 2, 0, 0, [1, 1, 1, 1, 1], 128⟩] }
def matUp : State := runUp matPlan (aRun [aCluster true] [aStage .launched anInst]) 1
/-- The checksums of every array operation agree where no fault is given. -/
theorem witness_Operations_agree : ([0x0100, 0x0101, 0x0102, 0x0103].map (fun code =>
    let s : State := runUp { matPlan with stages := (aPlan code 1 1 []).stages } (aRun [aCluster true] [aStage .launched anInst]) 1
    do let c ← s.opCtx ref0
       let d ← (s.merge HostView.quiet).opData HostView.quiet c
       pure (decide (c.op.opcode = code) && ((if code = 0x0102 then attentionBody else if code = 0x0103 then convolutionBody else matrixBody)
         (s.merge HostView.quiet) c d []).bad.isNone))) = [some true, some true, some true, some true] := by
  decide +kernel
theorem witness_Operations_faults :
    let q := HostView.quiet
    let bad (m : Nat) : Option Bool := do
      let c ← matUp.opCtx ref0
      let d ← (matUp.merge q).opData q c
      pure (matrixBody (matUp.merge q) c d [⟨0, 0, 0, m⟩]).bad.isSome
    let back (t : State) : List (JState × Bool) := t.jobs.map (fun j => (j.st, j.run.isNone))
    bad 0x40000000 = some true ∧ (matUp.die 0).units = [] ∧
    back (after matUp (.matrixMultiply ref0 q [] (some ⟨false, 0, 0⟩))) = [(.waiting, true)] ∧
    ((after matUp (.matrixMultiply ref0 q [] (some ⟨false, 0, 0⟩))).die 0).unacked.map (·.code) = [0x12] := by decide +kernel
theorem witness_SolverAndCheck :
    let q := HostView.quiet
    let far : State := runUp (aPlan 0x0501 1 1 [0, 0, 1, 1]) (aRun [aCluster true, { aCluster true with die := 1, cl := 2 }] [aStage .launched anInst]) 1
    let w : State := { up with storeWrites := [⟨5, 1, 0, [7], [0, 2]⟩] }
    let n (l : List Byte) : Option (Nat × Nat × Nat) := (((opUp 0x0700 l).opCtx ref0)).map (fun c => (c.op.par 2 1, c.op.inp 0, ((opUp 0x0700 l).regionOf c 0).toList.length))
    n [0, 0, 0xFF] = some (0xFF, 0, 1) ∧ n [] = some (0, 0, 1) ∧ (far.opCtx ref0).map (fun c => (c.op.par 3 1, c.remote 0)) = some (1, true) ∧
    ((after far (.listArrival ref0 0)).opCtx ref0).map (fun c => c.ins.lists) = some [(0, 0)] ∧ after far (.merge ref0 q) = far ∧
    ((opUp 0x0701 []).chan 0).exposed = false ∧ ((after (opUp 0x0701 []) (.checkValueWrap ref0 q)).chan 0).tx.ctr = some 1 ∧
    ((after (opUp 0x0702 []) (.checkValueUnwrap ref0 q)).chan 0).tx = ((opUp 0x0702 []).chan 0).tx ∧
    w.nextStoreWrite 2 = some ⟨5, 1, 0, [7], [0, 2]⟩ ∧ w.healthy 2 = true ∧ ((after w (.warmStoreWrite 2 5)).die 2).warm.get 5 = some ⟨some ⟨1, 0, [7]⟩, none⟩ ∧
    (after w (.warmStoreWrite 2 5)).nextStoreWrite 2 = none ∧ far.arbOpen (far.overUmlin 0 0 1 0) = true ∧ far.arbOpen (far.overUmlin 1 0 1 0) = true ∧
    w.arbOpen (w.overUmlin 0 2 1 5 ++ atHbm 2 (w.regs.warmRange 5).1 1 3) = true := by decide +kernel
theorem witness_Geometry :
    let t (ph : Nat) (v : Bool) (fr : List Nat) (wt : List (Nat × Nat)) (ps : List Nat) : GeoTest :=
      ⟨ref0, 0, 0, v, 0, 0, (up.die 1).spares.gquFail, 3, 0, [], fr, wt, ps, ph⟩
    let s (l : List GeoTest) : State := withDie up 1 (fun x => { x with tests := l })
    let line := windowLine 0 3 5
    let key := (List.range 64).findSome? (fun k => if gquOf (up.die 1).spares.gquFail (brickHome 0 k) = 3 then some k else none) |>.getD 0
    let f : State := withDie (s [t 2 false [] [(0, line)] []]) 1 (fun x => { x with fills := [line] })
    let ph (s : State) : List (Nat × List Nat × List (Nat × Nat) × List Nat) := (s.die 1).tests.map (fun t => (t.phase, t.frags, t.waits, t.parts))
    (∀ x : GeoTest, x ∈ ((s [t 1 false [] [] []]).die 1).tests → (s []).cellsWait 1 x.world x.version x.cells = false ∧ (s []).cellsPoisoned 1 x.world x.version x.cells = false) ∧
    (s []).gquServes 1 3 ref0 = true ∧ (withDie (s []) 1 (fun x => { x with units := [(gquUnit 3, { TestUnit.fresh with running := some (0, 0) })] })).gquServes 1 3 ref0 = true ∧
    ((s [t 0 false [] [] []]).die 1).tests.find? (fun t => t.phase = 0 && t.cl = 0 && t.gqu = 3) = some (t 0 false [] [] []) ∧
    (ph (after (s [t 0 false [] [] []]) (.queryPacketSend 1 0 3))).map Prod.fst = [1] ∧
    0 < ((s [t 1 false [] [] []]).die 1).windowRoom 3 false ∧
    (ph (after (s [t 1 false [] [] [], t 1 true [] [] []]) (.queryPacketArrival 1 3 0))).map Prod.fst = [1, 3] ∧
    gquOf (up.die 1).spares.gquFail (brickHome 0 key) = 3 ∧ (t 2 false [key] [] []).fragFor 3 = some key ∧
    (ph (after (s [t 2 false [key] [] []]) (.fragment 1 3 0))).map (fun t => t.2.1) = [[]] ∧
    0 < ((s [t 2 false [key] [] []]).die 1).windowRoom 3 false ∧ (0 < f.regs.cacheLines) ∧
    (ph (after (s [t 2 false [] [] [9]]) (.partialResult 1 0))).map (fun t => t.2.2.2) = [[]] ∧
    (ph (s [t 3 false [] [] []])).map Prod.fst = [3] ∧ (s [t 3 false [] [] []]).arbOpen [atBanks 1 0 5] = true ∧
    (after (s [t 3 false [] [] []]) (.resultRecord 1 0 none)).dies.map (fun x => x.tests.length) = [0, 0, 0, 0] ∧
    (after { s [t 3 false [] [] []] with jobs := [mkJob 1 0 1 .running []] } (.resultRecord 1 0 (some ⟨false, 0, 0⟩))).jobs.map (·.st) = [.waiting] ∧
    lineSlice line = 3 ∧ f.arbOpen [atPc 1 3 0, atPortB 1 3 1] = true ∧ f.lineWaits 1 line = false ∧ f.linePoisoned 1 line = false ∧
    ((after f (.lineFill 1 3)).die 1).fills = [] ∧ (ph (after f (.lineFill 1 3))).map (fun t => t.2.2.1) = [[]] ∧
    ((after f (.lineFill 1 3)).die 1).holdsLine line = true := by decide +kernel
theorem witness_Patterns : (f32.decode 0x3F800000).isNan = false ∧ f32.encode (f32.decode 0x80000001) = 0x80000001 ∧ (fe4m3.decode 0x7F).isNan = true ∧
    ((f16.round .rdn false (1 / 3)).runFlags.1).isNan = false := by decide +kernel
theorem witness_Intervals : let a : Iv := ⟨.zero false, f32.decode 0x3F800000⟩
    a.valid = true ∧ Val.le a.lo (Val.ofRat (1 / 2)) = true ∧ Val.le (Val.ofRat (1 / 2)) a.hi = true := by decide +kernel
/-- A stage of one instance; the flags of every instance of a state's stages; their launch counts. -/
def stageUp (ph : Nat) (i : Inst) (st : StageState) : State := runUp (aPlan 0x0200 1 2 []) (aRun [aCluster true] [aStage st i]) ph
def idleInst : Inst := { anInst with launched := false, launchSent := false }
def twoUp (a b : Inst) (go : Bool) : State :=
  { runUp (aPlan 0x0200 1 2 []) (aRun [aCluster true, { aCluster true with die := 1 }]
      [{ aStage .eligible a with insts := [a, { b with lc := 1, die := 1 }], launchAt := if go then some 4999 else none, go := go }]) 1 with
    ctrl := [⟨0, 1, if go then .go 1 0 0 else .launch 1 0 0, false⟩] }
def stagesOf (t : State) : List StageRun := t.jobs.flatMap (fun j => ((j.run.map (·.stages)).getD []))
def instsOf (t : State) : List (Bool × Bool × Bool × Bool) := (stagesOf t).flatMap (fun x => x.insts.map (fun i => (i.launchSent, i.arrived, i.go, i.launched)))
theorem witness_Stages :
    ((stageUp 0 idleInst .pending).runJob 1 0).map (fun e => (e.1.phase, stageReady e.1 e.2.1 e.2.2 0, e.2.2.stages.length)) = some (0, true, 1) ∧
    (stagesOf (after (stageUp 0 idleInst .pending) (.run 1 0))).map (·.st) = [.eligible] ∧ (stageUp 1 idleInst .eligible).healthy 0 = true ∧
    after (twoUp idleInst idleInst true) (.stageLaunchMessage 1 1 0 0) = twoUp idleInst idleInst true ∧
    instsOf (after (stageUp 1 idleInst .eligible) (.stageLaunchMessage 0 1 0 0)) = [(true, false, false, false)] ∧
    instsOf (after (stageUp 1 { idleInst with launchSent := true } .eligible) (.stageLaunch 0 1 0 0)) = [(true, false, false, true)] ∧
    (stagesOf (after (stageUp 1 { anInst with ran := [0] } .launched) (.operationComplete ref0 HostView.quiet))).map (fun x => x.insts.map (·.completed)) = [[[0]]] := by
  decide +kernel
theorem witness_Stages_go :
    let b : Inst := { idleInst with launchSent := true }
    let a : Inst := { b with arrived := true }
    let v (a b : Inst) : State := { twoUp a b false with ctrl := [⟨1, 0, .arrive 1 0 0, false⟩] }
    (twoUp a b false).arbOpen ((twoUp a b false).overUmlin 1 0 0 0) = true ∧ (twoUp idleInst idleInst true).arbOpen ((twoUp idleInst idleInst true).overUmlin 0 1 0 0) = true ∧
    (twoUp idleInst idleInst true).firstCtrl 0 1 = some (.go 1 0 0) ∧ (twoUp a b false).firstCtrl 0 1 = some (.launch 1 0 0) ∧
    instsOf (after (twoUp a idleInst false) (.stageLaunchMessage 1 1 0 0)) = [(true, true, false, false), (true, false, false, false)] ∧
    (v a b).firstCtrl 1 0 = some (.arrive 1 0 0) ∧ (v a b).arbOpen ((v a b).umlinPorts 1 0 0 0) = true ∧ (twoUp idleInst idleInst true).arbOpen ((twoUp idleInst idleInst true).umlinPorts 0 1 0 0) = true ∧
    instsOf (after (v a b) (.bugleArrive 1 1 0 0)) = [(true, true, false, false), (true, true, false, false)] ∧
    (stagesOf (after (v a b) (.bugleArrive 1 1 0 0))).map (·.launchAt) = [some (5000 + up.regs.bugleLead)] ∧
    (stagesOf (after (v idleInst b) (.bugleArrive 1 1 0 0))).map (·.launchAt) = [none] ∧
    instsOf (after (twoUp idleInst idleInst true) (.bugleGo 1 1 0 0)) = [(false, false, false, false), (false, false, true, false)] ∧
    ((after (twoUp idleInst idleInst true) (.bugleGo 1 1 0 0)).die 1).unacked.map (·.code) = [8] := by decide +kernel
theorem witness_Stages_copies :
    let p := aPlan 0x0200 2 1 []
    let i : Inst := { anInst with die := 1, completed := [0] }
    let d (res : Bool) (st : StageState) (lc : Bool) : State := runUp p { aRun [aCluster lc] [aStage st i] with diverse := [(0, { aCluster res with die := 1 })] } 1
    let k : State := (runUp p (aRun [aCluster true] [aStage .pending i]) 1).modJob 1 0 (fun j => { j with suspending := true })
    let o : Plan := aPlan 0x0200 0 1 []
    let w : State := runUp o (aRun [aCluster true, aCluster false] [{ aStage .launched anInst with insts := [{ anInst with completed := [0] }, { anInst with lc := 1 }] }]) 1
    (after (d false .eligible true) (.diverseRegionCopy 1 0 0 false)).jobs.map (fun j => j.run.map (fun r => r.diverse.map (fun e => e.2.resident))) = [some [true]] ∧
    stageComplete (aStage .launched i) (p.stages.getD 0 ⟨0, 0, 0, 0, 0, 0, []⟩) = true ∧ p.copiesBack 0 ≠ [] ∧
    ((d true .launched true).runJob 1 0).isSome = true ∧ (k.runJob 1 0).map (fun e => e.1.suspending) = some true ∧
    (after k (.checkpointWritten 1 0)).jobs.map (fun j => (j.st, j.run.map (·.placed))) = [(.suspended, some false)] ∧
    (d false .eligible true).arbOpen ([atBanks 0 0 6, atBanks 1 0 6] ++ (d false .eligible true).overUmlin 0 1 1 0) = true ∧
    (d true .launched true).arbOpen ([atBanks 1 0 6, atBanks 0 0 6] ++ (d true .launched true).overUmlin 1 0 1 0) = true ∧
    k.arbOpen (atBanks 0 0 6 :: atHbm 0 0x1000000 4096 1) = true ∧ (w.runJob 1 0).bind (fun e => w.swapOut e.1 e.2.1 e.2.2 1) = some 0 ∧
    w.arbOpen ([atBanks 0 0 6] ++ atHbm 0 0x1000000 4096 1 ++ atHbm 0 0x1000000 4096 1) = true ∧
    (w.runJob 1 0).map (fun e => (e.2.1.busyLc o 0, e.2.1.busyLc o 1)) = some (false, true) ∧ (w.die 0).unread 0x1000000 4096 = false ∧
    (w.die 0).poisoned 0x1000000 4096 = false ∧ (after w (.logicalClusterSwap 0 0 1 0 1)).jobs.map (fun j => j.run.map (fun r => r.lcs.map (·.resident))) = [some [false, true]] := by
  decide +kernel
theorem witness_Banks_dma :
    let s : State := withDie (opUp 0x0700 []) 0 (fun x => { x with clusters := x.clusters.set 0 { Cluster.reset with dmaWaits := [(.op ref0, 0)] } })
    s.healthy 0 = true ∧ ((s.die 0).cluster 0).dmaWaits = [(.op ref0, 0)] ∧ 0 + 1024 ≤ s.now ∧ ((after s (.dmaAge 0 0)).die 0).clusters.map (·.dmaBlock) = [true, false, false, false, false] := by
  decide +kernel
theorem witness_Waits_stage :
    let p := aPlan 0x0200 1 1 []
    let s (t : Nat) : State := runUp { p with stages := p.stages.map (fun x => { x with waitMask := 4, timeout := t }) } (aRun [aCluster true] [aStage .pending anInst]) 1
    ((s 4000).runJob 1 0).map (fun e => (stageReady (e.1.dueBy 4000) e.2.1 e.2.2 0, (e.2.1.stage 0).since, e.1.cancelBy)) = some (false, 0, none) ∧ 4000 ≤ (s 4000).gtc 0 ∧
    (after (s 4000) (.stageTimeout 1 0 0)).jobs = [] ∧ after (s 5001) (.stageTimeout 1 0 0) = s 5001 := by decide +kernel
theorem witness_GroupZero_reservation :
    let w : Job := mkJob 1 0 1 .ready []
    let s : State := { headUp 1 w with plans := [(0, { PlanSlot.empty with st := .ready, plan := some (aPlan 0x0200 1 1 []) })] }
    s.asks w = true ∧ s.reservedElse 1 0 0 = false ∧ (s.touches w).contains 0 = true ∧ ((after s (.reservationRequest 0 1 0)).die 0).reserved = [(1, 0)] := by decide +kernel
/-- A SUSPEND that comes once a stage is launched on one die holds none of its other instances back (R520), nor does a later boundary change its mapping (R22). -/
theorem witness_Stages_launch :
    let b : Inst := { idleInst with launchSent := true, go := true }
    let r : RunData := aRun [aCluster true, { aCluster true with die := 1 }] [{ aStage .launched anInst with insts := [anInst, { b with lc := 1, die := 1 }] }]
    let s : State := (runUp (aPlan 0x0200 1 2 []) r 1).modJob 1 0 (fun j => { j with suspending := true })
    (s.runJob 1 0).map (fun e => (e.1.suspending, e.1.phase, e.1.cancelBy, e.2.1.checkFail)) = some (true, 1, none, none) ∧ (stagesOf s).map (·.st) = [.launched] ∧
    (instsOf (after s (.stageLaunch 1 1 0 0))).map (fun x => x.2.2.2) = [true, true] := by decide +kernel

/-! ### Known answers -/

/-- SHA-512 of the empty message begins with these bytes (FIPS 180-4). -/
theorem test_sha512_empty : (sha512 []).take 8 = [0xCF, 0x83, 0xE1, 0x35, 0x7E, 0xEF, 0xB8, 0xBD] := by decide +kernel
/-- One in each floating-point format (R95). -/
theorem test_one_in_every_format : [f32, f16, fbf16, fe4m3, fe5m2].map (fun f => f.encode (Val.ofRat 1)) = [0x3F800000, 0x3C00, 0x3F80, 0x38, 0x3C] := by decide +kernel
end Sys2Proof.Tests
end

/-! ### Every step keeps the part (O5) -/

namespace Sys2Proof.Machine

/-- Every command keeps what the relation of Laws/Keeps says, with the board's own fields where it is work only. The arms are those of
`exec`. -/
theorem exec_keeps (c : Instr) (s : State) : State.KeepsOut (workOnly c) s (exec c s) :=
  match c with
  | .queueEnable .. => execQueueEnable_keeps (.refl ..)
  | .queueDrain .. => execQueueDrain_keeps (.refl ..)
  | .queueWithdraw .. => execQueueWithdraw_keeps (.refl ..)
  | .queueMove .. => execQueueMove_keeps (.refl ..)
  | .moveTransfer .. => execMoveTransfer_keeps (.refl ..)
  | .groupEnable .. => execGroupEnable_keeps (.refl ..)
  | .groupDrain .. => execGroupDrain_keeps (.refl ..)
  | .groupWithdraw .. => execGroupWithdraw_keeps (.refl ..)
  | .secBootGo .. => execSecBootGo_keeps (.refl ..)
  | .challenge .. => execChallenge_keeps (.refl ..)
  | .keyLoad .. => execKeyLoad_keeps (.refl ..)
  | .keyFuse .. => execKeyFuse_keeps (.refl ..)
  | .keyRevoke .. => execKeyRevoke_keeps (.refl ..)
  | .rollbackCommit .. => execRollbackCommit_keeps (.refl ..)
  | .signRequire .. => execSignRequire_keeps (.refl ..)
  | .lcField .. => execLcField_keeps (.refl ..)
  | .debugUnlock .. => execDebugUnlock_keeps (.refl ..)
  | .relock .. => execRelock_keeps (.refl ..)
  | .injectUnlock .. => execInjectUnlock_keeps (.refl ..)
  | .lcReturn .. => execLcReturn_keeps (.refl ..)
  | .lcScrap .. => execLcScrap_keeps (.refl ..)
  | .queueReset .. => execQueueReset_keeps (.refl ..)
  | .clusterReset .. => execClusterReset_keeps (.refl ..)
  | .dieReset .. => execDieReset_keeps (.refl ..)
  | .packageWarmReset .. => execPackageWarmReset_keeps (.refl ..)
  | .packageResetArmExpiry => execPackageResetArmExpiry_keeps (.refl ..)
  | .diePowerD0 .. => execDiePowerD0_keeps (.refl ..)
  | .diePowerD1 .. => execDiePowerD1_keeps (.refl ..)
  | .diePowerD3 .. => execDiePowerD3_keeps (.refl ..)
  | .clusterDisable .. => execClusterDisable_keeps (.refl ..)
  | .ldgCtlStart .. => execLdgCtlStart_keeps (.refl ..)
  | .portEnable .. => execPortEnable_keeps (.refl ..)
  | .beat .. => execBeat_keeps (.refl ..)
  | .ppsArm .. => execPpsArm_keeps (.refl ..)
  | .arbFreeze .. => execArbFreeze_keeps (.refl ..)
  | .arbClear .. => execArbClear_keeps (.refl ..)
  | .gapMaxClear .. => execGapMaxClear_keeps (.refl ..)
  | .traceIndexReset .. => execTraceIndexReset_keeps (.refl ..)
  | .errConsumedAdvance .. => execErrConsumedAdvance_keeps (.refl ..)
  | .errorRingEnable .. => execErrorRingEnable_keeps (.refl ..)
  | .hbmDivisionWrite .. => execHbmDivisionWrite_keeps (.refl ..)
  | .injectArm .. => execInjectArm_keeps (.refl ..)
  | .vectorUnmask .. => execVectorUnmask_keeps (.refl ..)
  | .lowerHalfRead .. => execLowerHalfRead_keeps (.refl ..)
  | .registerWrite .. => execRegisterWrite_keeps (.refl ..)
  | .bar2Read .. => execBar2Read_keeps (.refl ..)
  | .bar2Write .. => execBar2Write_keeps (.refl ..)
  | .sidebandWrite .. => execSidebandWrite_keeps (.refl ..)
  | .sidebandRead .. => execSidebandRead_keeps (.refl ..)
  | .sbReset .. => execSbReset_keeps (.refl ..)
  | .sidebandBusTimeout => execSidebandBusTimeout_keeps (.refl ..)
  | .doorbellSnoop .. => execDoorbellSnoop_keeps (.refl ..)
  | .doorbellLineRead .. => execDoorbellLineRead_keeps (.refl ..)
  | .doorbellSweep .. => execDoorbellSweep_keeps (.refl ..)
  | .doorbellPoll .. => execDoorbellPoll_keeps (.refl ..)
  | .doorbellDelivery .. => execDoorbellDelivery_keeps (.refl ..)
  | .descriptorRead .. => execDescriptorRead_keeps (.refl ..)
  | .descriptorArrival .. => execDescriptorArrival_keeps (.refl ..)
  | .orderingReadComplete .. => execOrderingReadComplete_keeps (.refl ..)
  | .backlog .. => execBacklog_keeps (.refl ..)
  | .fetchStallUpdate .. => execFetchStallUpdate_keeps (.refl ..)
  | .waitMet .. => execWaitMet_keeps (.refl ..)
  | .gtcBinding .. => execGtcBinding_keeps (.refl ..)
  | .waitTimeout .. => execWaitTimeout_keeps (.refl ..)
  | .deadlineExpiry .. => execDeadlineExpiry_keeps (.refl ..)
  | .stageTimeout .. => execStageTimeout_keeps (.refl ..)
  | .syncWatch .. => execSyncWatch_keeps (.refl ..)
  | .syncNotify .. => execSyncNotify_keeps (.refl ..)
  | .flowReq .. => execFlowReq_keeps (.refl ..)
  | .flowGrant .. => execFlowGrant_keeps (.refl ..)
  | .flowHomeRebuild .. => execFlowHomeRebuild_keeps (.refl ..)
  | .nextDispatch .. => execNextDispatch_keeps (.refl ..)
  | .reservationRequest .. => execReservationRequest_keeps (.refl ..)
  | .nop .. => execNop_keeps (.refl ..)
  | .run .. => execRun_keeps (.refl ..)
  | .loadPlan .. => execLoadPlan_keeps (.refl ..)
  | .planImageFetched .. => execPlanImageFetched_keeps (.refl ..)
  | .signatureVerified .. => execSignatureVerified_keeps (.refl ..)
  | .weightBlobFetched .. => execWeightBlobFetched_keeps (.refl ..)
  | .planReplicated .. => execPlanReplicated_keeps (.refl ..)
  | .dropPlan .. => execDropPlan_keeps (.refl ..)
  | .dropPlanUnpinned .. => execDropPlanUnpinned_keeps (.refl ..)
  | .latticeLoad .. => execLatticeLoad_keeps (.refl ..)
  | .bodyLoad .. => execBodyLoad_keeps (.refl ..)
  | .bodyReplicated .. => execBodyReplicated_keeps (.refl ..)
  | .release .. => execRelease_keeps (.refl ..)
  | .releaseUnpinned .. => execReleaseUnpinned_keeps (.refl ..)
  | .worldUpdate .. => execWorldUpdate_keeps (.refl ..)
  | .worldVersionRoom .. => execWorldVersionRoom_keeps (.refl ..)
  | .worldDataReceived .. => execWorldDataReceived_keeps (.refl ..)
  | .worldRecordApply .. => execWorldRecordApply_keeps (.refl ..)
  | .prepared .. => execPrepared_keeps (.refl ..)
  | .prepareLost .. => execPrepareLost_keeps (.refl ..)
  | .abandon .. => execAbandon_keeps (.refl ..)
  | .commit .. => execCommit_keeps (.refl ..)
  | .commitAck .. => execCommitAck_keeps (.refl ..)
  | .visible .. => execVisible_keeps (.refl ..)
  | .signalPost .. => execSignalPost_keeps (.refl ..)
  | .signalFire .. => execSignalFire_keeps (.refl ..)
  | .signalInit .. => execSignalInit_keeps (.refl ..)
  | .suspend .. => execSuspend_keeps (.refl ..)
  | .resume .. => execResume_keeps (.refl ..)
  | .cancel .. => execCancel_keeps (.refl ..)
  | .attest .. => execAttest_keeps (.refl ..)
  | .stageLaunchMessage .. => execStageLaunchMessage_keeps (.refl ..)
  | .bugleArrive .. => execBugleArrive_keeps (.refl ..)
  | .bugleGo .. => execBugleGo_keeps (.refl ..)
  | .stageLaunch .. => execStageLaunch_keeps (.refl ..)
  | .logicalClusterSwap .. => execLogicalClusterSwap_keeps (.refl ..)
  | .matrixMultiply .. => execMatrixMultiply_keeps (.refl ..)
  | .batchedMatrixMultiply .. => execBatchedMatrixMultiply_keeps (.refl ..)
  | .fusedAttention .. => execFusedAttention_keeps (.refl ..)
  | .temporalConvolution .. => execTemporalConvolution_keeps (.refl ..)
  | .elementwise .. => execElementwise_keeps (.refl ..)
  | .normalisation .. => execNormalisation_keeps (.refl ..)
  | .activation .. => execActivation_keeps (.refl ..)
  | .reduction .. => execReduction_keeps (.refl ..)
  | .gather .. => execGather_keeps (.refl ..)
  | .scatter .. => execScatter_keeps (.refl ..)
  | .randomGeneration .. => execRandomGeneration_keeps (.refl ..)
  | .pointForwardKinematics .. => execPointForwardKinematics_keeps (.refl ..)
  | .intervalForwardKinematics .. => execIntervalForwardKinematics_keeps (.refl ..)
  | .pointDistance .. => execPointDistance_keeps (.refl ..)
  | .distanceWithGradient .. => execDistanceWithGradient_keeps (.refl ..)
  | .sphereTest .. => execSphereTest_keeps (.refl ..)
  | .capsuleTest .. => execCapsuleTest_keeps (.refl ..)
  | .sweptSphereTest .. => execSweptSphereTest_keeps (.refl ..)
  | .topK .. => execTopK_keeps (.refl ..)
  | .merge .. => execMerge_keeps (.refl ..)
  | .listArrival .. => execListArrival_keeps (.refl ..)
  | .factor .. => execFactor_keeps (.refl ..)
  | .solve .. => execSolve_keeps (.refl ..)
  | .riccatiSweep .. => execRiccatiSweep_keeps (.refl ..)
  | .refine .. => execRefine_keeps (.refl ..)
  | .warmStoreWrite .. => execWarmStoreWrite_keeps (.refl ..)
  | .copy .. => execCopy_keeps (.refl ..)
  | .checkValueWrap .. => execCheckValueWrap_keeps (.refl ..)
  | .checkValueUnwrap .. => execCheckValueUnwrap_keeps (.refl ..)
  | .checkValueScan .. => execCheckValueScan_keeps (.refl ..)
  | .digest .. => execDigest_keeps (.refl ..)
  | .operationComplete .. => execOperationComplete_keeps (.refl ..)
  | .checkpointWritten .. => execCheckpointWritten_keeps (.refl ..)
  | .queryPacketSend .. => execQueryPacketSend_keeps (.refl ..)
  | .queryPacketArrival .. => execQueryPacketArrival_keeps (.refl ..)
  | .fragment .. => execFragment_keeps (.refl ..)
  | .partialResult .. => execPartialResult_keeps (.refl ..)
  | .resultRecord .. => execResultRecord_keeps (.refl ..)
  | .lineFill .. => execLineFill_keeps (.refl ..)
  | .hbmReadOutcome .. => execHbmReadOutcome_keeps (.refl ..)
  | .hbmRepaired .. => execHbmRepaired_keeps (.refl ..)
  | .scrub .. => execScrub_keeps (.refl ..)
  | .bankIdle .. => execBankIdle_keeps (.refl ..)
  | .bankExit .. => execBankExit_keeps (.refl ..)
  | .dmaAge .. => execDmaAge_keeps (.refl ..)
  | .lockMaxHold .. => execLockMaxHold_keeps (.refl ..)
  | .linkDown .. => execLinkDown_keeps (.refl ..)
  | .retrainLimitExpiry .. => execRetrainLimitExpiry_keeps (.refl ..)
  | .completionTimeout .. => execCompletionTimeout_keeps (.refl ..)
  | .linkError .. => execLinkError_keeps (.refl ..)
  | .laneRepair .. => execLaneRepair_keeps (.refl ..)
  | .hostReadError .. => execHostReadError_keeps (.refl ..)
  | .msixHoldoff .. => execMsixHoldoff_keeps (.refl ..)
  | .umlinLinkLost .. => execUmlinLinkLost_keeps (.refl ..)
  | .heartbeatSend .. => execHeartbeatSend_keeps (.refl ..)
  | .heartbeat .. => execHeartbeat_keeps (.refl ..)
  | .livenessAdvance .. => execLivenessAdvance_keeps (.refl ..)
  | .heartbeatAbsence .. => execHeartbeatAbsence_keeps (.refl ..)
  | .livenessStall .. => execLivenessStall_keeps (.refl ..)
  | .leaseExpiry .. => execLeaseExpiry_keeps (.refl ..)
  | .fenceWaitEnd .. => execFenceWaitEnd_keeps (.refl ..)
  | .ledgerIoRetry .. => execLedgerIoRetry_keeps (.refl ..)
  | .partitionMismatch .. => execPartitionMismatch_keeps (.refl ..)
  | .unitFault .. => execUnitFault_keeps (.refl ..)
  | .suspectTest .. => execSuspectTest_keeps (.refl ..)
  | .tinkerSliceStart .. => execTinkerSliceStart_keeps (.refl ..)
  | .tinkerSliceEnd .. => execTinkerSliceEnd_keeps (.refl ..)
  | .testOverdue .. => execTestOverdue_keeps (.refl ..)
  | .errorRecord .. => execErrorRecord_keeps (.refl ..)
  | .powerEstimate .. => execPowerEstimate_keeps (.refl ..)
  | .powerDivision => execPowerDivision_keeps (.refl ..)
  | .thermalSample .. => execThermalSample_keeps (.refl ..)
  | .alertRelease => execAlertRelease_keeps (.refl ..)
  | .heartbeatLost => execHeartbeatLost_keeps (.refl ..)
  | .healthyRise => execHealthyRise_keeps (.refl ..)
  | .powerOnReset .. => execPowerOnReset_keeps (.refl ..)
  | .rootPllLock => execRootPllLock_keeps (.refl ..)
  | .linkTrainingDone .. => execLinkTrainingDone_keeps (.refl ..)
  | .gtcStart => execGtcStart_keeps (.refl ..)
  | .memReady .. => execMemReady_keeps (.refl ..)
  | .ppsEdge => execPpsEdge_keeps (.refl ..)
  | .ppsLost => execPpsLost_keeps (.refl ..)
  | .tamper .. => execTamper_keeps (.refl ..)
  | .glitch => execGlitch_keeps (.refl ..)
  | .keyUnwrap .. => execKeyUnwrap_keeps (.refl ..)
  | .traceMemoryInit .. => execTraceMemoryInit_keeps (.refl ..)
  | .rpReadTimeout => execRpReadTimeout_keeps (.refl ..)
  | .avsFallback .. => execAvsFallback_keeps (.refl ..)
  | .porstNAssert => execPorstNAssert_keeps (.refl ..)
  | .linkRetrained .. => execLinkRetrained_keeps (.refl ..)
  | .testPortCycle .. => execTestPortCycle_keeps (.refl ..)
  | .atGtcInjection .. => execAtGtcInjection_keeps (.refl ..)
  | .safetyWindowClose .. => execSafetyWindowClose_keeps (.refl ..)
  | .timeRecord .. => execTimeRecord_keeps (.refl ..)
  | .syncHolderCopy .. => execSyncHolderCopy_keeps (.refl ..)
  | .diverseRegionCopy .. => execDiverseRegionCopy_keeps (.refl ..)

/-- A CCLK period without a command keeps the part, whatever its trace records do. -/
theorem State.tick_keeps (s : State) : State.KeepsOut false s s.tick := by
  unfold State.tick
  split
  · intro t ht
    cases ht
  · have hdrain : State.Keeps false s ((List.range s.n).foldl State.drainTrace s) :=
      State.Keeps.foldl (fun _ _ h => State.drainTrace_keeps h) (.refl ..)
    apply State.KeepsOut.next
    apply State.Keeps.modRegs
    exact hdrain.trans
      { ident := rfl, ports := id, host := id, fatal := id, pending := rfl, frame := nofun
        dies := Die.KeepsAll.map (fun x => Die.tick_keeps (.refl x)) _ }

/-- Whether or not the board's fields are kept, the rest is. -/
theorem State.Keeps.withoutBoard {o : Bool} {s t : State} (h : State.Keeps o s t) : State.Keeps false s t :=
  { h with frame := nofun }

/-- A step takes the front command off the queue, where there is one, and keeps what every command and every CCLK period keeps. -/
theorem step_keeps {s t : State} (h : step s = .next t) : State.Keeps false { s with pending := s.pending.tail } t := by
  unfold step at h
  split at h
  · next hp =>
    have hs : { s with pending := s.pending.tail } = s := by rw [hp, List.tail_nil, ← hp]
    rw [hs]
    exact State.tick_keeps s t h
  · next c rest hp =>
    rw [hp]
    exact (exec_keeps c { s with pending := rest } t h).withoutBoard

/-- What is kept includes the identity of the part, its dies and their fuses. -/
theorem State.Keeps.samePart {o : Bool} {s t : State} (h : State.Keeps o s t) : s.SamePart t :=
  ⟨h.ident, h.dies.length, fun d _ => (h.dies.getD d Die.absent).fuse⟩

/-- Settles O5: what a step keeps includes the part and the order of its fuses, of which the command queue is no part. -/
theorem noStepUndoesAFuse : Obligations.NoStepUndoesAFuse := by
  unfold Obligations.NoStepUndoesAFuse
  intro s t h
  exact (step_keeps h).samePart

end Sys2Proof.Machine

/-! ### The way of a register access (R386) -/

namespace Sys2Proof.Machine

/-- An erased key, read. -/
theorem KMap.get_erase {α : Type} (m : KMap α) (a : Nat) : (m.erase a).get a = none := by
  induction m with
  | nil => rfl
  | cons e m ih =>
    by_cases h : e.1 = a
    · simpa [KMap.erase, h] using ih
    · simpa [KMap.erase, KMap.get, h, Ne.symm h] using fun _ => ih

/-- Grants on a way change the arbiters of dies and nothing else. -/
theorem State.granted_eq (l : List ArbReq) (s : State) : s.granted l = { s with dies := (s.granted l).dies } := by
  induction l generalizing s with
  | nil => rfl
  | cons r l ih => exact ih _

@[simp] theorem State.granted_regs (s : State) (l : List ArbReq) : (s.granted l).regs = s.regs := by rw [State.granted_eq]
@[simp] theorem State.granted_boot (s : State) (l : List ArbReq) : (s.granted l).boot = s.boot := by rw [State.granted_eq]
@[simp] theorem State.granted_now (s : State) (l : List ArbReq) : (s.granted l).now = s.now := by rw [State.granted_eq]
@[simp] theorem State.n_granted (s : State) (l : List ArbReq) : (s.granted l).n = s.n :=
  (State.granted_keeps (.refl true s)).dies.length

/-- An arbiter changed leaves every die as lost or present as it was. -/
@[simp] theorem State.modArb_lost (s : State) (d n e : Nat) (f : Arb → Arb) : ((s.modArb d n f).die e).lost = (s.die e).lost := by
  by_cases he : e = d
  · subst he
    by_cases hn : e < s.n
    · simp [State.modArb, hn]
    · have hlen : s.dies.length ≤ e := Nat.le_of_not_lt hn
      simp [State.modArb, State.modDie, State.die, hlen]
  · simp [State.modArb, he]

@[simp] theorem State.granted_lost (s : State) (l : List ArbReq) (e : Nat) : ((s.granted l).die e).lost = (s.die e).lost := by
  induction l generalizing s with
  | nil => rfl
  | cons r l ih => exact (ih _).trans (State.modArb_lost ..)

/-- The offset lies in the window of a lost die (R388). -/
def State.lostAt (s : State) (off : Nat) : Bool :=
  decide (off < 0x08000000) && decide (off / 0x1000000 < s.n) && (s.die (off / 0x1000000)).lost

@[simp] theorem State.granted_lostAt (s : State) (l : List ArbReq) (off : Nat) : (s.granted l).lostAt off = s.lostAt off := by
  simp [State.lostAt]

@[simp] theorem State.granted_overtaken (s : State) (l : List ArbReq) (p off : Nat) : (s.granted l).overtaken p off = s.overtaken p off := by
  simp [State.overtaken]

/-- A register of a die window is there only where the part has the die. -/
theorem State.lt_n_of_lookReg {s : State} {off : Nat} {v : RegView} (h : s.lookReg off = some v) (hdie : off < 0x08000000) :
    off / 0x1000000 < s.n := by
  by_cases hn : off / 0x1000000 < s.n
  · exact hn
  · simp [State.lookReg, hdie, hn] at h

/-- R386: an access to a die's window takes effect once the Umlin ports on its way grant it; one to the package-common window where it arrives. -/
theorem State.atOffset_granted {s : State} {p off : Nat} {v : RegView} {way : List ArbReq}
    (hway : way = if off < 0x08000000 then s.overUmlin p (off / 0x1000000) 2 (off / 0x1000000) else [])
    (hopen : s.arbOpen way = true) (hlook : (s.granted way).lookReg off = some v) (hlost : s.lostAt off = false) (f : State → State) :
    s.atOffset p off f = f (s.granted way) := by
  by_cases hdie : off < 0x08000000
  · have hn : off / 0x1000000 < s.n := by simpa using State.lt_n_of_lookReg hlook hdie
    simp only [State.lostAt, hdie, hn, decide_true, Bool.true_and] at hlost
    simp only [hdie, if_true] at hway
    subst hway
    simp [State.atOffset, State.toWindow, hdie, hn, hlost, hopen]
  · subst hway
    simp [State.atOffset, State.granted, hdie]

/-- Both words of an aligned 64-bit register are accessed on the same way. -/
theorem State.atOffset_upper (s : State) (p : Nat) {off : Nat} (halign : off % 8 = 0) (f : State → State) :
    s.atOffset p (off + 4) f = s.atOffset p off f := by
  have hdie : off + 4 < 0x08000000 ↔ off < 0x08000000 := by omega
  have hwin : (off + 4) / 0x1000000 = off / 0x1000000 := by omega
  simp only [State.atOffset, hdie, hwin]

/-- Both words of an aligned 64-bit register lie in the same window. -/
theorem State.lostAt_upper (s : State) {off : Nat} (halign : off % 8 = 0) : s.lostAt (off + 4) = s.lostAt off := by
  have hdie : off + 4 < 0x08000000 ↔ off < 0x08000000 := by omega
  have hwin : (off + 4) / 0x1000000 = off / 0x1000000 := by omega
  simp only [State.lostAt, hdie, hwin]

/-- R382: a register write of 4 or 8 aligned bytes, in no lost die's window, goes its way. -/
theorem exec_registerWrite {s : State} {p off width : Nat} (v : Nat) (hport : s.portUp p = true) (hfw : s.boot.fwReady = true)
    (hoff : off < 0x09000000) (hwidth : width = 4 ∨ width = 8) (halign : off % width = 0) (hlost : s.lostAt off = false) :
    exec (.registerWrite p off width v) s = .next (s.atOffset p off (fun s => s.regWrite p off width v)) := by
  have hcfg : off ≠ msixControl := by unfold msixControl; omega
  have hbar : off < 0x10000000 := by omega
  have hw : (decide (width = 4) || decide (width = 8)) = true := by simpa using hwidth
  unfold State.lostAt at hlost
  show execRegisterWrite p off width v s = _
  simp [execRegisterWrite, hport, hcfg, hbar, hw, halign, hlost, hfw]

/-- R382: a register read of 4 or 8 aligned bytes goes its way. -/
theorem exec_lowerHalfRead {s : State} {p off width : Nat} (hport : s.portUp p = true) (hoff : off < 0x09000000)
    (hwidth : width = 4 ∨ width = 8) (halign : off % width = 0) :
    exec (.lowerHalfRead p off width) s =
      .next (s.atOffset p off (fun s => if width = 8 then s.regRead64 off else s.regRead p off)) := by
  have hcfg : off ≠ msixControl := by unfold msixControl; omega
  have hbar : off < 0x10000000 := by omega
  have hw : (decide (width = 4) || decide (width = 8)) = true := by simpa using hwidth
  show execLowerHalfRead p off s width = _
  simp [execLowerHalfRead, hport, hcfg, hbar, hw, halign]

end Sys2Proof.Machine

/-! ### The halves of a 64-bit register (R12, R13) -/

namespace Sys2Proof.Machine
section WideRegister

/-- The register at an offset is found there. -/
theorem findReg_at {look : Nat → Option RegView} {o : Nat} {v : RegView} (h : look o = some v) : findReg look o = some (v, false) := by
  simp [findReg, h]

/-- The upper half of a 64-bit register is found above its lower half. -/
theorem findReg_upper {look : Nat → Option RegView} {o w : Nat} (h : look o = some (.r64 w)) (hup : look (o + 4) = none) :
    findReg look (o + 4) = some (.r64 w, true) := by
  simp [findReg, h, hup]

variable {s : State} {p off w : Nat}

/-! #### Writes -/

/-- A write of the lower half is held (R13). -/
theorem State.regWrite_lower (hoff : off < 0x09000000) (hlook : s.lookReg off = some (.r64 w)) (v : Nat) :
    s.regWrite p off 4 v = s.modRegs (fun r => { r with staged := r.staged.insert (halfKey p off) (v % 2 ^ 32) }) := by
  simp [State.regWrite, Nat.not_le.mpr hoff, findReg_at hlook]

/-- A 64-bit write gives the register its value (R12). -/
theorem State.regWrite_whole (hoff : off < 0x09000000) (hlook : s.lookReg off = some (.r64 w)) (v : Nat) :
    s.regWrite p off 8 v = s.commitFrom p off (v % 2 ^ 64) := by
  simp [State.regWrite, Nat.not_le.mpr hoff, findReg_at hlook]

/-- A write of the upper half gives the register both halves (R13). -/
theorem State.regWrite_upper {lo : Nat} (halign : off % 8 = 0) (hoff : off < 0x09000000) (hlook : s.lookReg off = some (.r64 w))
    (hup : s.lookReg (off + 4) = none) (hheld : s.regs.staged.get (halfKey p off) = some lo) (v : Nat) :
    s.regWrite p (off + 4) 4 v =
      (s.modRegs (fun r => { r with staged := r.staged.erase (halfKey p off) })).commitFrom p off (lo + v % 2 ^ 32 * 2 ^ 32) := by
  have hoff4 : ¬ 0x09000000 ≤ off + 4 := by omega
  simp [State.regWrite, hoff4, findReg_upper hlook hup, hheld]

/-- R734: a write that none of H1 overtook takes effect and is noted. -/
theorem State.commitFrom_of_first (h : s.overtaken p off = false) (v : Nat) :
    s.commitFrom p off v = (s.commitWrite off v).noteWrite p off := by
  simp [State.commitFrom, h]

/-- R734: a write that one of H1 overtook has no effect. -/
theorem State.commitFrom_of_overtaken (h : s.overtaken p off = true) (v : Nat) : s.commitFrom p off v = s := by
  simp [State.commitFrom, h]

/-! #### Reads -/

/-- A word read at a 64-bit register's offset is its lower half, and finds the whole value to capture (R13). -/
theorem State.readWord_lower (hoff : off < 0x09000000) (hlook : s.lookReg off = some (.r64 w)) :
    s.readWord off = (w % 2 ^ 32, some w) := by
  by_cases hdie : off < 0x08000000
  · have hn : off / 0x1000000 < s.n := State.lt_n_of_lookReg hlook hdie
    simp only [State.lookReg, hdie, hn, if_true] at hlook
    simp [State.readWord, hdie, Nat.not_le.mpr hn, findReg_at hlook, RegView.half]
  · simp only [State.lookReg, hdie, hoff, if_true, if_false] at hlook
    simp [State.readWord, hdie, hoff, findReg_at hlook, RegView.half]

/-- A word read above a 64-bit register's offset is its upper half. -/
theorem State.readWord_upper (halign : off % 8 = 0) (hoff : off < 0x09000000) (hlook : s.lookReg off = some (.r64 w))
    (hup : s.lookReg (off + 4) = none) : s.readWord (off + 4) = (w / 2 ^ 32, none) := by
  by_cases hdie : off < 0x08000000
  · have hn : off / 0x1000000 < s.n := State.lt_n_of_lookReg hlook hdie
    have hdie4 : off + 4 < 0x08000000 := by omega
    have hwin : (off + 4) / 0x1000000 = off / 0x1000000 := by omega
    have hin : (off + 4) % 0x1000000 = off % 0x1000000 + 4 := by omega
    simp only [State.lookReg, hdie, hdie4, hwin, hin, hn, if_true] at hlook hup
    simp [State.readWord, hdie4, hwin, hin, Nat.not_le.mpr hn, findReg_upper hlook hup, RegView.half]
  · have hdie4 : ¬ off + 4 < 0x08000000 := by omega
    have hoff4 : off + 4 < 0x09000000 := by omega
    have hin : off + 4 - 0x08000000 = off - 0x08000000 + 4 := by omega
    simp only [State.lookReg, hdie, hdie4, hoff, hoff4, hin, if_true, if_false] at hlook hup
    simp [State.readWord, hdie4, hoff4, hin, findReg_upper hlook hup, RegView.half]

/-- A 64-bit read returns the whole value (R12). -/
theorem State.regRead64_wide (hfw : s.boot.fwReady = true) (hoff : off < 0x09000000) (hlost : s.lostAt off = false)
    (hlook : s.lookReg off = some (.r64 w)) : s.regRead64 off = s.modRegs (fun r => { r with readData := natLE 8 w }) := by
  unfold State.lostAt at hlost
  simp [State.regRead64, hlost, hfw, Nat.not_le.mpr hoff, State.readWord_lower hoff hlook]

/-- A 32-bit read of the lower half returns it and captures the upper half (R13). -/
theorem State.regRead_lower (hfw : s.boot.fwReady = true) (hoff : off < 0x09000000) (hlost : s.lostAt off = false)
    (hlook : s.lookReg off = some (.r64 w)) :
    s.regRead p off = s.modRegs (fun r =>
      { r with readData := natLE 4 (w % 2 ^ 32), captured := r.captured.insert (halfKey p (off + 4)) (w / 2 ^ 32) }) := by
  unfold State.lostAt at hlost
  simp [State.regRead, hlost, hfw, State.readWord_lower hoff hlook]

/-- A 32-bit read of the upper half returns the captured half, which serves it alone (R13; log entry 74). -/
theorem State.regRead_upper {hi : Nat} (hfw : s.boot.fwReady = true) (halign : off % 8 = 0) (hoff : off < 0x09000000)
    (hlost : s.lostAt off = false) (hlook : s.lookReg off = some (.r64 w)) (hup : s.lookReg (off + 4) = none)
    (hcap : s.regs.captured.get (halfKey p (off + 4)) = some hi) :
    s.regRead p (off + 4) =
      s.modRegs (fun r => { r with readData := natLE 4 hi, captured := r.captured.erase (halfKey p (off + 4)) }) := by
  have hlost4 : s.lostAt (off + 4) = false := (s.lostAt_upper halign).trans hlost
  unfold State.lostAt at hlost4
  simp [State.regRead, hlost4, hfw, State.readWord_upper halign hoff hlook hup, hcap]

end WideRegister

/-- Settles O7: each access goes its way (`atOffset_granted`), and meets the register there in halves or whole. -/
theorem wideRegistersAreReadAndWrittenInHalves : Obligations.WideRegistersAreReadAndWrittenInHalves := by
  unfold Obligations.WideRegistersAreReadAndWrittenInHalves
  intro s u p off w lo hi way hport hfw halign hoff hway hopen hu hlook hup hpresent hlo hhi
  subst hu
  have hlost : s.lostAt off = false := by
    rw [Bool.eq_false_iff]
    intro hl
    simp only [State.lostAt, Bool.and_eq_true, decide_eq_true_eq] at hl
    obtain ⟨⟨hdie, _⟩, hgone⟩ := hl
    exact hpresent ⟨hdie, hgone⟩
  have hlost4 : s.lostAt (off + 4) = false := (s.lostAt_upper halign).trans hlost
  have hlostU : (s.granted way).lostAt off = false := by simpa using hlost
  have hfwU : (s.granted way).boot.fwReady = true := by simpa using hfw
  have halign4 : off % 4 = 0 := by omega
  have halignUp : (off + 4) % 4 = 0 := by omega
  have hoff4 : off + 4 < 0x09000000 := by omega
  have hmeets := State.atOffset_granted hway hopen hlook hlost
  have hwhole : (lo + hi * 2 ^ 32) % 2 ^ 64 = lo + hi * 2 ^ 32 := by omega
  have hwrite8 : exec (.registerWrite p off 8 (lo + hi * 2 ^ 32)) s = .next ((s.granted way).commitFrom p off (lo + hi * 2 ^ 32)) := by
    rw [exec_registerWrite _ hport hfw hoff (.inr rfl) halign hlost, hmeets, State.regWrite_whole hoff hlook, hwhole]
  refine ⟨?lowerWrite, fun hfirst => ⟨?upperWrite, ?wholeWrite⟩, ?overtakenWrite, ?wholeRead, ?lowerRead, ?upperRead⟩
  case lowerWrite =>
    have hexec := exec_registerWrite lo hport hfw hoff (.inl rfl) halign4 hlost
    rw [hmeets, State.regWrite_lower hoff hlook, Nat.mod_eq_of_lt hlo] at hexec
    exact ⟨_, hexec, by simp [KMap.get_insert], rfl⟩
  case upperWrite =>
    intro hheld
    rw [exec_registerWrite hi hport hfw hoff4 (.inl rfl) halignUp hlost4, State.atOffset_upper s p halign, hmeets,
      State.regWrite_upper halign hoff hlook hup (by simpa using hheld), Nat.mod_eq_of_lt hhi,
      State.commitFrom_of_first (by simpa [State.overtaken] using hfirst)]
  case wholeWrite => rw [hwrite8, State.commitFrom_of_first (by simpa using hfirst)]
  case overtakenWrite =>
    intro hlate
    rw [hwrite8, State.commitFrom_of_overtaken (by simpa using hlate)]
  case wholeRead =>
    rw [exec_lowerHalfRead hport hoff (.inr rfl) halign, hmeets, if_pos rfl, State.regRead64_wide hfwU hoff hlostU hlook]
  case lowerRead =>
    have hexec := exec_lowerHalfRead hport hoff (.inl rfl) halign4
    rw [hmeets, if_neg (by decide), State.regRead_lower hfwU hoff hlostU hlook] at hexec
    exact ⟨_, hexec, rfl, by simp [KMap.get_insert], by simp [State.modRegs]⟩
  case upperRead =>
    intro hcap
    have hexec := exec_lowerHalfRead hport hoff4 (.inl rfl) halignUp
    rw [State.atOffset_upper s p halign, hmeets, if_neg (by decide),
      State.regRead_upper hfwU halign hoff hlostU hlook hup (by simpa using hcap)] at hexec
    exact ⟨_, hexec, rfl, by simp [KMap.get_erase]⟩

end Sys2Proof.Machine

/-! ### Floating-point patterns and rounding (R95, R98, R109 to R115) -/

namespace Sys2Proof.Machine

/-! #### Powers of two -/

theorem pow2_pos (e : Int) : 0 < pow2 e := by
  cases e with
  | ofNat n => exact Rat.natCast_pos.mpr (Nat.two_pow_pos n)
  | negSucc n =>
    show 0 < mkRat 1 (2 ^ (n + 1))
    rw [Rat.mkRat_eq_div, Rat.div_def]
    exact Rat.mul_pos (by decide) (Rat.inv_pos.mpr (Rat.natCast_pos.mpr (Nat.two_pow_pos _)))

theorem pow2_natCast (n : Nat) : pow2 n = (2 ^ n : Nat) := rfl

theorem pow2_add_one (e : Int) : pow2 (e + 1) = pow2 e * 2 := by
  match e with
  | .ofNat n =>
    show ((2 ^ (n + 1) : Nat) : Rat) = (2 ^ n : Nat) * 2
    rw [Nat.pow_succ, Rat.natCast_mul]
    rfl
  | .negSucc 0 => decide +kernel
  | .negSucc (n + 1) =>
    have htwo : (2 : Rat) = mkRat 2 1 := by decide +kernel
    have hne (m : Nat) : 2 ^ m ≠ 0 := Nat.ne_of_gt (Nat.two_pow_pos m)
    show mkRat 1 (2 ^ (n + 1)) = mkRat 1 (2 ^ (n + 1 + 1)) * 2
    rw [htwo, Rat.mkRat_mul_mkRat, Rat.mkRat_eq_iff (hne _) (by rw [Nat.mul_one]; exact hne _), Nat.pow_succ 2 (n + 1)]
    omega

theorem pow2_add_natCast (d : Int) (n : Nat) : pow2 (d + n) = pow2 d * (2 ^ n : Nat) := by
  induction n with
  | zero => exact (congrArg pow2 (Int.add_zero d)).trans (Rat.mul_one _).symm
  | succ n ih =>
    rw [Int.natCast_succ, ← Int.add_assoc, pow2_add_one, ih, Nat.pow_succ, Rat.natCast_mul, Rat.mul_assoc]
    rfl

theorem pow2_mono {d e : Int} (h : d ≤ e) : pow2 d ≤ pow2 e := by
  obtain ⟨n, rfl⟩ := Int.le.dest h
  have hone : ((1 : Nat) : Rat) ≤ (2 ^ n : Nat) := Rat.natCast_le_natCast.mpr Nat.one_le_two_pow
  have hmul := Rat.mul_le_mul_of_nonneg_left hone (Rat.le_of_lt (pow2_pos d))
  rwa [← pow2_add_natCast, show ((1 : Nat) : Rat) = 1 from rfl, Rat.mul_one] at hmul

theorem lt_of_pow2_lt_pow2 {d e : Int} (h : pow2 d < pow2 e) : d < e :=
  Int.not_le.mp fun hle => Rat.not_le.mpr h (pow2_mono hle)

theorem pow2_neg_mul_pow2 (e : Int) : pow2 (-e) * pow2 e = 1 := by
  have hnat (n : Nat) : pow2 (-n) * pow2 n = 1 := by
    rw [pow2_natCast, ← pow2_add_natCast, Int.add_left_neg]
    rfl
  obtain ⟨n, rfl | rfl⟩ := Int.eq_nat_or_neg e
  · exact hnat n
  · rw [Int.neg_neg, Rat.mul_comm]
    exact hnat n

theorem mul_pow2_neg_mul_pow2 (a : Rat) (e : Int) : a * pow2 (-e) * pow2 e = a := by
  rw [Rat.mul_assoc, pow2_neg_mul_pow2, Rat.mul_one]

theorem mul_pow2_mul_pow2_neg (a : Rat) (e : Int) : a * pow2 e * pow2 (-e) = a := by
  rw [Rat.mul_assoc, Rat.mul_comm (pow2 e), pow2_neg_mul_pow2, Rat.mul_one]

/-! #### The binade of a rational -/

theorem mul_den_eq_natAbs_num {q : Rat} (hq : 0 < q) : q * q.den = q.num.natAbs := by
  have hden : (q.den : Rat) ≠ 0 := fun h => q.den_nz (Rat.natCast_eq_zero_iff.mp h)
  have hquot : q = q.num / q.den := by rw [← Rat.mkRat_eq_div, Rat.mkRat_self]
  have hnum : (q.num.natAbs : Int) = q.num := Int.natAbs_of_nonneg (Rat.num_nonneg.mpr (Rat.le_of_lt hq))
  calc q * q.den = q.num / q.den * q.den := congrArg (· * (q.den : Rat)) hquot
    _ = q.num := Rat.div_mul_cancel hden
    _ = q.num.natAbs := by rw [← Rat.intCast_natCast, hnum]

/-- The lengths of a positive rational's numerator and denominator place it to within one binade on either side. -/
theorem log2_num_den_bounds {q : Rat} (hq : 0 < q) :
    pow2 (Nat.log2 q.num.natAbs - Nat.log2 q.den - 1) ≤ q ∧ q < pow2 (Nat.log2 q.num.natAbs - Nat.log2 q.den + 1) := by
  have hnum : q.num.natAbs ≠ 0 := fun h => Rat.ne_of_gt hq (Rat.num_eq_zero.mp (Int.natAbs_eq_zero.mp h))
  have hden : (0 : Rat) < q.den := Rat.natCast_pos.mpr q.den_pos
  constructor
  · apply Rat.le_of_mul_le_mul_right _ hden
    have hexp : (Nat.log2 q.num.natAbs : Int) - Nat.log2 q.den - 1 + (Nat.log2 q.den + 1 : Nat) = Nat.log2 q.num.natAbs := by omega
    calc pow2 (Nat.log2 q.num.natAbs - Nat.log2 q.den - 1) * q.den
        ≤ pow2 (Nat.log2 q.num.natAbs - Nat.log2 q.den - 1) * (2 ^ (Nat.log2 q.den + 1) : Nat) :=
          Rat.mul_le_mul_of_nonneg_left (Rat.natCast_le_natCast.mpr (Nat.le_of_lt Nat.lt_log2_self)) (Rat.le_of_lt (pow2_pos _))
      _ = (2 ^ Nat.log2 q.num.natAbs : Nat) := by rw [← pow2_add_natCast, hexp, pow2_natCast]
      _ ≤ q.num.natAbs := Rat.natCast_le_natCast.mpr (Nat.log2_self_le hnum)
      _ = q * q.den := (mul_den_eq_natAbs_num hq).symm
  · apply Rat.lt_of_mul_lt_mul_right _ (Rat.le_of_lt hden)
    have hexp : (Nat.log2 q.num.natAbs : Int) - Nat.log2 q.den + 1 + Nat.log2 q.den = (Nat.log2 q.num.natAbs + 1 : Nat) := by omega
    have hnumlt : q * q.den < (2 ^ (Nat.log2 q.num.natAbs + 1) : Nat) := by
      rw [mul_den_eq_natAbs_num hq]
      exact Rat.natCast_lt_natCast.mpr Nat.lt_log2_self
    apply Std.lt_of_lt_of_le hnumlt
    rw [← pow2_natCast, ← hexp, pow2_add_natCast]
    exact Rat.mul_le_mul_of_nonneg_left (Rat.natCast_le_natCast.mpr (Nat.log2_self_le q.den_nz)) (Rat.le_of_lt (pow2_pos _))

/-- `ilog2` places a positive rational in its binade: of the two that its estimate leaves, one comparison takes the right one. -/
theorem ilog2_bounds {q : Rat} (hq : 0 < q) : pow2 (ilog2 q) ≤ q ∧ q < pow2 (ilog2 q + 1) := by
  obtain ⟨hlow, hhigh⟩ := log2_num_den_bounds hq
  unfold ilog2
  dsimp only
  split
  · next h => exact ⟨h, hhigh⟩
  · next h =>
    rw [Int.sub_add_cancel]
    exact ⟨hlow, Rat.not_le.mp h⟩

/-- No rational lies in two binades. -/
theorem ilog2_eq_of_bounds {q : Rat} {e : Int} (hlow : pow2 e ≤ q) (hhigh : q < pow2 (e + 1)) : ilog2 q = e := by
  obtain ⟨hlow', hhigh'⟩ := ilog2_bounds (Std.lt_of_lt_of_le (pow2_pos e) hlow)
  have hle := lt_of_pow2_lt_pow2 (Std.lt_of_le_of_lt hlow hhigh')
  have hge := lt_of_pow2_lt_pow2 (Std.lt_of_le_of_lt hlow' hhigh)
  omega

/-- An integer times a power of two lies in the integer's binade, moved. -/
theorem ilog2_natCast_mul_pow2 {k : Nat} (hk : 0 < k) (e : Int) : ilog2 (k * pow2 e) = e + Nat.log2 k := by
  apply ilog2_eq_of_bounds
  · rw [pow2_add_natCast, Rat.mul_comm (k : Rat)]
    exact Rat.mul_le_mul_of_nonneg_left (Rat.natCast_le_natCast.mpr (Nat.log2_self_le (Nat.ne_of_gt hk))) (Rat.le_of_lt (pow2_pos e))
  · rw [Int.add_assoc, ← Int.natCast_succ, pow2_add_natCast, Rat.mul_comm (k : Rat)]
    exact Rat.mul_lt_mul_of_pos_left (Rat.natCast_lt_natCast.mpr Nat.lt_log2_self) (pow2_pos e)

/-! #### Magnitudes -/

theorem ratAbs_of_nonneg {q : Rat} (h : 0 ≤ q) : ratAbs q = q := if_neg (Rat.not_lt.mpr h)

theorem ratAbs_of_neg {q : Rat} (h : q < 0) : ratAbs q = -q := if_pos h

theorem neg_pos_of_neg {q : Rat} (h : q < 0) : 0 < -q := Rat.lt_neg_iff.mpr (by rwa [Rat.neg_zero])

theorem neg_neg_of_pos {q : Rat} (h : 0 < q) : -q < 0 := Rat.neg_lt_iff.mpr (by rwa [Rat.neg_zero])

theorem neg_eq_zero_iff {q : Rat} : -q = 0 ↔ q = 0 :=
  ⟨fun h => by rw [← Rat.neg_neg q, h, Rat.neg_zero], fun h => by rw [h, Rat.neg_zero]⟩

theorem ratAbs_nonneg (q : Rat) : 0 ≤ ratAbs q := by
  by_cases h : q < 0
  · rw [ratAbs_of_neg h]
    exact Rat.le_of_lt (neg_pos_of_neg h)
  · rw [ratAbs_of_nonneg (Rat.not_lt.mp h)]
    exact Rat.not_lt.mp h

/-- The sign of a value that is not 0 turns with it. -/
theorem decide_neg_lt_zero {q : Rat} (hq : q ≠ 0) : decide (-q < 0) = !decide (q < 0) := by
  by_cases h : q < 0
  · rw [decide_eq_true h, decide_eq_false (Rat.not_lt.mpr (Rat.le_of_lt (neg_pos_of_neg h)))]
    rfl
  · have hpos : 0 < q := Rat.lt_of_le_of_ne (Rat.not_lt.mp h) hq.symm
    rw [decide_eq_false h, decide_eq_true (neg_neg_of_pos hpos)]
    rfl

theorem ratAbs_neg (q : Rat) : ratAbs (-q) = ratAbs q := by
  by_cases h : q < 0
  · rw [ratAbs_of_neg h, ratAbs_of_nonneg (Rat.le_of_lt (neg_pos_of_neg h))]
  · by_cases h0 : q = 0
    · rw [h0, Rat.neg_zero]
    · have hpos : 0 < q := Rat.lt_of_le_of_ne (Rat.not_lt.mp h) (Ne.symm h0)
      rw [ratAbs_of_nonneg (Rat.le_of_lt hpos), ratAbs_of_neg (neg_neg_of_pos hpos), Rat.neg_neg]

/-! #### Rounding to an integer (R109) -/

theorem natCast_floor_toNat {a : Rat} (ha : 0 ≤ a) : (a.floor.toNat : Rat) = a.floor := by
  rw [← Rat.intCast_natCast, Int.toNat_of_nonneg (Rat.le_floor_iff.mpr ha)]

theorem floor_natCast_toNat (k : Nat) : (k : Rat).floor.toNat = k := by
  rw [← Rat.intCast_natCast, Rat.floor_intCast, Int.toNat_natCast]

/-- An integer stays itself in every mode. -/
theorem roundMag_natCast (mode : RMode) (neg : Bool) (k : Nat) : roundMag mode neg k = k := by
  have hhalf : decide ((1 : Rat) / 2 < 0) = false := by decide +kernel
  have htie : decide ((0 : Rat) = 1 / 2) = false := by decide +kernel
  unfold roundMag
  simp only [floor_natCast_toNat, Rat.sub_self]
  cases mode with
  | rne => simp only [hhalf, htie, Bool.false_and, Bool.or_false, Bool.false_eq_true, if_false]
  | rtz => rfl
  | rdn => cases neg <;> rfl
  | rup => cases neg <;> rfl

/-- Rounding up a magnitude is rounding down one of the other sign. -/
theorem roundMag_rup (neg : Bool) (a : Rat) : roundMag .rup neg a = roundMag .rdn (!neg) a := rfl

theorem roundMag_rdn_le {a : Rat} (ha : 0 ≤ a) : (roundMag .rdn false a : Rat) ≤ a := by
  show (a.floor.toNat : Rat) ≤ a
  rw [natCast_floor_toNat ha]
  exact Rat.floor_le a

theorem le_roundMag_rdn {a : Rat} (ha : 0 ≤ a) : a ≤ roundMag .rdn true a := by
  show a ≤ ((if decide (a - (a.floor.toNat : Rat) ≠ 0) = true then a.floor.toNat + 1 else a.floor.toNat : Nat) : Rat)
  split
  · have hlt := Rat.lt_floor_add_one a
    rw [Rat.natCast_add, natCast_floor_toNat ha]
    rw [Rat.intCast_add] at hlt
    exact Rat.le_of_lt hlt
  · next hwhole =>
    have hsub : a - (a.floor.toNat : Rat) = 0 := by simpa only [decide_eq_true_eq, Decidable.not_not] using hwhole
    have hle : a - (a.floor.toNat : Rat) ≤ 0 := Rat.le_iff_lt_or_eq.mpr (.inr hsub)
    rwa [Rat.sub_right_le_iff_le_add, Rat.zero_add] at hle

/-! #### Magnitudes with a sign -/

/-- A magnitude with a sign, as the formats hold it. -/
def signed (neg : Bool) (a : Rat) : Rat := if neg then -a else a

theorem signed_true (a : Rat) : signed true a = -a := rfl

theorem signed_false (a : Rat) : signed false a = a := rfl

theorem signed_not (neg : Bool) (a : Rat) : signed (!neg) a = -signed neg a := by
  cases neg with
  | true => exact (Rat.neg_neg a).symm
  | false => rfl

theorem ratAbs_signed (neg : Bool) {a : Rat} (ha : 0 ≤ a) : ratAbs (signed neg a) = a := by
  cases neg with
  | true => rw [signed_true, ratAbs_neg, ratAbs_of_nonneg ha]
  | false => rw [signed_false, ratAbs_of_nonneg ha]

theorem decide_signed_lt_zero (neg : Bool) {a : Rat} (ha : 0 < a) : decide (signed neg a < 0) = neg := by
  cases neg with
  | true => exact decide_eq_true (neg_neg_of_pos ha)
  | false => exact decide_eq_false (Rat.not_lt.mpr (Rat.le_of_lt ha))

theorem signed_ne_zero (neg : Bool) {a : Rat} (ha : 0 < a) : signed neg a ≠ 0 := by
  cases neg with
  | true => exact Rat.ne_of_lt (neg_neg_of_pos ha)
  | false => exact Rat.ne_of_gt ha

theorem signed_ratAbs (q : Rat) : signed (decide (q < 0)) (ratAbs q) = q := by
  by_cases hneg : q < 0
  · rw [decide_eq_true hneg, signed_true, ratAbs_of_neg hneg, Rat.neg_neg]
  · rw [decide_eq_false hneg, signed_false, ratAbs_of_nonneg (Rat.not_lt.mp hneg)]

/-- A number of quanta rounded down, with its sign, is not above the exact one. -/
theorem signed_roundMag_rdn_le (neg : Bool) {a p : Rat} (ha : 0 ≤ a) (hp : 0 ≤ p) :
    signed neg (roundMag .rdn neg a * p) ≤ signed neg (a * p) := by
  cases neg with
  | true => exact Rat.neg_le_neg (Rat.mul_le_mul_of_nonneg_right (le_roundMag_rdn ha) hp)
  | false => exact Rat.mul_le_mul_of_nonneg_right (roundMag_rdn_le ha) hp

/-! #### Significands and quanta -/

/-- The exponent of the quantum in which a format writes a magnitude: that of its last mantissa bit, and never below the smallest
subnormal. -/
def FloatFmt.quantum (f : FloatFmt) (a : Rat) : Int := Max.max (ilog2 a - (f.mant : Int)) f.qmin

theorem FloatFmt.roundUnbounded_eq (f : FloatFmt) (mode : RMode) (q : Rat) :
    f.roundUnbounded mode q = signed (decide (q < 0))
      (roundMag mode (decide (q < 0)) (ratAbs q * pow2 (-f.quantum (ratAbs q))) * pow2 (f.quantum (ratAbs q))) := by
  simp only [roundUnbounded, quantum, signed, decide_eq_true_eq]

/-- The sign bit of a pattern. -/
def FloatFmt.signBit (f : FloatFmt) (neg : Bool) : Nat := if neg then 2 ^ (f.mant + f.expBits) else 0

theorem FloatFmt.encode_fin (f : FloatFmt) (q : Rat) :
    f.encode (.fin q) = f.signBit (decide (q < 0)) + (f.quantum (ratAbs q) - f.qmin).toNat * 2 ^ f.mant +
      (ratAbs q * pow2 (-f.quantum (ratAbs q))).floor.toNat := rfl

/-- `k` quanta of exponent `e` are a non-zero magnitude as the format holds it: normal, or subnormal in the smallest quantum (R95). -/
structure FloatFmt.IsSig (f : FloatFmt) (k : Nat) (e : Int) : Prop where
  pos : 0 < k
  lt : k < 2 ^ (f.mant + 1)
  qmin_le : f.qmin ≤ e
  normal : 2 ^ f.mant ≤ k ∨ e = f.qmin

section IsSig
variable {f : FloatFmt} {k : Nat} {e : Int}

theorem FloatFmt.IsSig.mag_pos (h : f.IsSig k e) : 0 < k * pow2 e := Rat.mul_pos (Rat.natCast_pos.mpr h.pos) (pow2_pos e)

/-- A magnitude that the format holds is written in its own quantum. -/
theorem FloatFmt.IsSig.quantum_eq (h : f.IsSig k e) : f.quantum (k * pow2 e) = e := by
  have hne : k ≠ 0 := Nat.ne_of_gt h.pos
  have hlog : Nat.log2 k < f.mant + 1 := (Nat.log2_lt hne).mpr h.lt
  have hmin := h.qmin_le
  rw [quantum, ilog2_natCast_mul_pow2 h.pos]
  rcases h.normal with hnormal | hsub
  · have hge : f.mant ≤ Nat.log2 k := (Nat.le_log2 hne).mpr hnormal
    omega
  · omega

/-- R110: a value that the format holds rounds to itself. -/
theorem FloatFmt.IsSig.roundUnbounded_eq (h : f.IsSig k e) (mode : RMode) (neg : Bool) :
    f.roundUnbounded mode (signed neg (k * pow2 e)) = signed neg (k * pow2 e) := by
  rw [FloatFmt.roundUnbounded_eq, ratAbs_signed neg (Rat.le_of_lt h.mag_pos), decide_signed_lt_zero neg h.mag_pos, h.quantum_eq,
    mul_pow2_mul_pow2_neg, roundMag_natCast]

theorem FloatFmt.IsSig.encode_eq (h : f.IsSig k e) (neg : Bool) :
    f.encode (.fin (signed neg (k * pow2 e))) = f.signBit neg + (e - f.qmin).toNat * 2 ^ f.mant + k := by
  rw [encode_fin, ratAbs_signed neg (Rat.le_of_lt h.mag_pos), decide_signed_lt_zero neg h.mag_pos, h.quantum_eq,
    mul_pow2_mul_pow2_neg, floor_natCast_toNat]

end IsSig

/-! #### The patterns of a format (R95) -/

/-- The biased exponent of the largest finite magnitude: infinities take the exponent above it. -/
def FloatFmt.topExp (f : FloatFmt) : Nat := if f.hasInf then 2 ^ f.expBits - 2 else 2 ^ f.expBits - 1

/-- The significand of the largest finite magnitude: in a format without infinities NaN takes the one above it. -/
def FloatFmt.topSig (f : FloatFmt) : Nat := if f.hasInf then 2 ^ (f.mant + 1) - 1 else 2 ^ (f.mant + 1) - 2

/-- A format's parameters agree with each other, as those of R95 do. -/
structure FloatFmt.Wf (f : FloatFmt) : Prop where
  mant_pos : 0 < f.mant
  topExp_pos : 0 < f.topExp
  largest_eq : f.largest = f.topSig * pow2 (f.qmin + f.topExp - 1)

/-- R95: each format's largest finite magnitude is that of its table row. -/
theorem FloatFmt.wf_of_mem {f : FloatFmt} (hf : f ∈ [f32, f16, fbf16, fe4m3, fe5m2]) : f.Wf := by
  simp only [List.mem_cons, List.not_mem_nil, or_false] at hf
  rcases hf with rfl | rfl | rfl | rfl | rfl <;> exact ⟨by decide, by decide, by decide +kernel⟩

section Wf
variable {f : FloatFmt}

/-- The top significand is a normal one. -/
theorem FloatFmt.Wf.pow_mant_le_topSig (h : f.Wf) : 2 ^ f.mant ≤ f.topSig := by
  have hpow : 2 ^ 1 ≤ 2 ^ f.mant := Nat.pow_le_pow_right Nat.two_pos h.mant_pos
  simp only [topSig, Nat.pow_succ]
  split <;> omega

theorem FloatFmt.Wf.largest_pos (h : f.Wf) : 0 < f.largest := by
  have hsig : 0 < f.topSig := Nat.lt_of_lt_of_le (Nat.two_pow_pos _) h.pow_mant_le_topSig
  rw [h.largest_eq]
  exact Rat.mul_pos (Rat.natCast_pos.mpr hsig) (pow2_pos _)

/-- A significand at a biased exponent, below the top one or with a significand no larger than the top one's, is within the finite
range. -/
theorem FloatFmt.Wf.mag_le_largest (h : f.Wf) {k E : Nat} (hk : k < 2 ^ (f.mant + 1)) (hE : E ≤ f.topExp)
    (htop : E = f.topExp → k ≤ f.topSig) : k * pow2 (f.qmin + E - 1) ≤ f.largest := by
  rw [h.largest_eq]
  rcases Nat.eq_or_lt_of_le hE with hEq | hlt
  · rw [hEq]
    exact Rat.mul_le_mul_of_nonneg_right (Rat.natCast_le_natCast.mpr (htop hEq)) (Rat.le_of_lt (pow2_pos _))
  · have hnormal := h.pow_mant_le_topSig
    have hsig : k ≤ f.topSig * 2 := by
      rw [Nat.pow_succ] at hk
      omega
    calc (k : Rat) * pow2 (f.qmin + E - 1)
        ≤ (f.topSig * 2 : Nat) * pow2 (f.qmin + E - 1) :=
          Rat.mul_le_mul_of_nonneg_right (Rat.natCast_le_natCast.mpr hsig) (Rat.le_of_lt (pow2_pos _))
      _ = f.topSig * pow2 (f.qmin + E - 1 + 1) := by
          rw [pow2_add_one, Rat.natCast_mul, Rat.mul_assoc, Rat.mul_comm (pow2 _)]
          rfl
      _ ≤ f.topSig * pow2 (f.qmin + f.topExp - 1) :=
          Rat.mul_le_mul_of_nonneg_left (pow2_mono (by omega)) Rat.natCast_nonneg

end Wf

/-- `w` is the pattern that the format has for a value that is no NaN (R95). -/
inductive FloatFmt.PatternOf (f : FloatFmt) (w : Nat) : Val → Prop where
  | inf (neg : Bool) : f.hasInf = true → w = f.signBit neg + (2 ^ f.expBits - 1) * 2 ^ f.mant → PatternOf f w (.inf neg)
  | zero (neg : Bool) : w = f.signBit neg → PatternOf f w (.zero neg)
  | fin (neg : Bool) (k : Nat) (e : Int) : f.IsSig k e → k * pow2 e ≤ f.largest →
      w = f.signBit neg + (e - f.qmin).toNat * 2 ^ f.mant + k → PatternOf f w (.fin (signed neg (k * pow2 e)))

/-- A pattern is its sign bit, exponent field and mantissa (R95). -/
theorem FloatFmt.pattern_eq_fields (f : FloatFmt) {w : Nat} (hw : w < 2 ^ (1 + f.expBits + f.mant)) :
    w = f.signBit (decide (w / 2 ^ (f.mant + f.expBits) % 2 = 1)) + w / 2 ^ f.mant % 2 ^ f.expBits * 2 ^ f.mant + w % 2 ^ f.mant := by
  have hwidth : 1 + f.expBits + f.mant = f.mant + f.expBits + 1 := by omega
  rw [hwidth, Nat.pow_succ] at hw
  have hsign : w / 2 ^ (f.mant + f.expBits) < 2 := Nat.div_lt_of_lt_mul hw
  have hbit : w / 2 ^ (f.mant + f.expBits) = 0 ∨ w / 2 ^ (f.mant + f.expBits) = 1 := by
    generalize w / 2 ^ (f.mant + f.expBits) = b at hsign
    omega
  have htop : f.signBit (decide (w / 2 ^ (f.mant + f.expBits) % 2 = 1)) = w / 2 ^ (f.mant + f.expBits) * 2 ^ (f.mant + f.expBits) := by
    unfold signBit
    rcases hbit with h | h
    · rw [h, Nat.zero_mul]
      rfl
    · rw [h, Nat.one_mul]
      rfl
  calc w = w / 2 ^ f.mant * 2 ^ f.mant + w % 2 ^ f.mant := (Nat.div_add_mod' ..).symm
    _ = (w / 2 ^ f.mant / 2 ^ f.expBits * 2 ^ f.expBits + w / 2 ^ f.mant % 2 ^ f.expBits) * 2 ^ f.mant + w % 2 ^ f.mant := by
      rw [Nat.div_add_mod' (w / 2 ^ f.mant)]
    _ = _ := by
      rw [htop, Nat.div_div_eq_div_mul, ← Nat.pow_add, Nat.add_mul, Nat.mul_assoc, ← Nat.pow_add, Nat.add_comm f.expBits]

/-- R95: the value that a sign, an exponent field and a mantissa stand for. -/
def FloatFmt.ofFields (f : FloatFmt) (neg : Bool) (E m : Nat) : Val :=
  if f.hasInf && E = 2 ^ f.expBits - 1 then
    (if m = 0 then .inf neg else .nan)
  else if !f.hasInf && E = 2 ^ f.expBits - 1 && m = 2 ^ f.mant - 1 then .nan
  else if E = 0 then
    (if m = 0 then .zero neg else .fin (signed neg (m * pow2 f.qmin)))
  else .fin (signed neg ((2 ^ f.mant + m : Nat) * pow2 (f.qmin + E - 1)))

theorem FloatFmt.decode_eq_ofFields (f : FloatFmt) (w : Nat) :
    f.decode w = f.ofFields (decide (w / 2 ^ (f.mant + f.expBits) % 2 = 1)) (w / 2 ^ f.mant % 2 ^ f.expBits) (w % 2 ^ f.mant) := by
  have hsign (c : Prop) [Decidable c] (k p : Rat) : (if c then (-1 : Rat) else 1) * k * p = signed (decide c) (k * p) := by
    by_cases hc : c
    · rw [if_pos hc, decide_eq_true hc, signed_true, Rat.neg_mul, Rat.neg_mul, Rat.one_mul]
    · rw [if_neg hc, decide_eq_false hc, signed_false, Rat.one_mul]
  simp only [decode, ofFields, hsign]

/-- A subnormal's mantissa is its significand. -/
theorem FloatFmt.isSig_subnormal (f : FloatFmt) {m : Nat} (hpos : 0 < m) (hm : m < 2 ^ f.mant) : f.IsSig m f.qmin :=
  ⟨hpos, by rw [Nat.pow_succ]; omega, Int.le_refl _, .inr rfl⟩

/-- A normal value's mantissa has a leading one above it. -/
theorem FloatFmt.isSig_normal (f : FloatFmt) {E m : Nat} (hE : 0 < E) (hm : m < 2 ^ f.mant) :
    f.IsSig (2 ^ f.mant + m) (f.qmin + E - 1) :=
  ⟨Nat.add_pos_left (Nat.two_pow_pos _) m, by rw [Nat.pow_succ]; omega, by omega, .inl (Nat.le_add_right ..)⟩

/-- An exponent field that is not the infinities' is at most the top one. -/
theorem FloatFmt.le_topExp (f : FloatFmt) {E : Nat} (hE : E < 2 ^ f.expBits) (hinf : ¬ (f.hasInf && E = 2 ^ f.expBits - 1) = true) :
    E ≤ f.topExp := by
  unfold topExp
  split
  · next hhas =>
    have hne : E ≠ 2 ^ f.expBits - 1 := by simpa only [hhas, Bool.true_and, decide_eq_true_eq] using hinf
    omega
  · omega

/-- In the top binade a mantissa that is not NaN's is at most the top one. -/
theorem FloatFmt.normal_le_topSig (f : FloatFmt) {E m : Nat} (hm : m < 2 ^ f.mant)
    (hnan : ¬ (!f.hasInf && E = 2 ^ f.expBits - 1 && m = 2 ^ f.mant - 1) = true) (hE : E = f.topExp) : 2 ^ f.mant + m ≤ f.topSig := by
  unfold topExp at hE
  unfold topSig
  rw [Nat.pow_succ]
  by_cases hhas : f.hasInf = true
  · rw [if_pos hhas]
    omega
  · rw [if_neg hhas] at hE ⊢
    have hne : m ≠ 2 ^ f.mant - 1 := by
      simpa only [Bool.not_eq_true _ ▸ hhas, hE, Bool.not_false, decide_true, Bool.true_and, decide_eq_true_eq] using hnan
    omega

/-- Fields that stand for no NaN are those of the value's pattern. -/
theorem FloatFmt.Wf.ofFields_patternOf {f : FloatFmt} (hf : f.Wf) {neg : Bool} {E m : Nat} (hE : E < 2 ^ f.expBits) (hm : m < 2 ^ f.mant)
    (hnan : (f.ofFields neg E m).isNan = false) : f.PatternOf (f.signBit neg + E * 2 ^ f.mant + m) (f.ofFields neg E m) := by
  unfold ofFields at hnan ⊢
  by_cases hinf : (f.hasInf && E = 2 ^ f.expBits - 1) = true
  · rw [if_pos hinf] at hnan ⊢
    rw [Bool.and_eq_true, decide_eq_true_eq] at hinf
    obtain ⟨hhas, rfl⟩ := hinf
    by_cases hm0 : m = 0
    · rw [if_pos hm0, hm0]
      exact .inf neg hhas rfl
    · rw [if_neg hm0] at hnan
      cases hnan
  rw [if_neg hinf] at hnan ⊢
  by_cases htop : (!f.hasInf && E = 2 ^ f.expBits - 1 && m = 2 ^ f.mant - 1) = true
  · rw [if_pos htop] at hnan
    cases hnan
  rw [if_neg htop]
  by_cases hE0 : E = 0
  · rw [if_pos hE0, hE0]
    by_cases hm0 : m = 0
    · rw [if_pos hm0, hm0]
      exact .zero neg (by omega)
    · rw [if_neg hm0]
      have hsig := f.isSig_subnormal (Nat.pos_of_ne_zero hm0) hm
      have hexp : f.qmin + (1 : Nat) - 1 = f.qmin := by omega
      have hle := hf.mag_le_largest (E := 1) hsig.lt hf.topExp_pos (fun _ => Nat.le_trans (Nat.le_of_lt hm) hf.pow_mant_le_topSig)
      rw [hexp] at hle
      exact .fin neg m f.qmin hsig hle (by rw [Int.sub_self]; rfl)
  · rw [if_neg hE0]
    have hsig := f.isSig_normal (Nat.pos_of_ne_zero hE0) hm
    have hexp : (f.qmin + E - 1 - f.qmin).toNat = E - 1 := by omega
    have hle := hf.mag_le_largest (E := E) hsig.lt (f.le_topExp hE hinf) (f.normal_le_topSig hm htop)
    have hlead : 2 ^ f.mant ≤ E * 2 ^ f.mant := Nat.le_mul_of_pos_left _ (Nat.pos_of_ne_zero hE0)
    refine .fin neg _ _ hsig hle ?_
    rw [hexp, Nat.sub_mul]
    omega

/-- R95: a pattern that is no NaN's is that of the value it decodes to. -/
theorem FloatFmt.Wf.decode_patternOf {f : FloatFmt} (hf : f.Wf) {w : Nat} (hw : w < 2 ^ (1 + f.expBits + f.mant))
    (hnan : (f.decode w).isNan = false) : f.PatternOf w (f.decode w) := by
  rw [decode_eq_ofFields] at hnan ⊢
  have h := hf.ofFields_patternOf (Nat.mod_lt _ (Nat.two_pow_pos _)) (Nat.mod_lt _ (Nat.two_pow_pos _)) hnan
  rwa [← f.pattern_eq_fields hw] at h

/-! #### The order of values (R101, R103) -/

theorem Val.ofRat_isFinite (q : Rat) : (Val.ofRat q).isFinite = true := by
  unfold ofRat
  split <;> rfl

theorem Val.ofRat_toRat (q : Rat) : (Val.ofRat q).toRat = q := by
  unfold ofRat
  split
  · next h => exact h.symm
  · rfl

/-- Finite values are ordered as the reals they stand for: −0 and +0 are one. -/
theorem Val.lt_of_finite : ∀ {u v : Val}, u.isFinite = true → v.isFinite = true → Val.lt u v = decide (u.toRat < v.toRat)
  | .zero _, .zero _, _, _ | .zero _, .fin _, _, _ | .fin _, .zero _, _, _ | .fin _, .fin _, _, _ => rfl

theorem Val.isNan_of_finite : ∀ {u : Val}, u.isFinite = true → u.isNan = false
  | .zero _, _ | .fin _, _ => rfl

theorem Val.le_of_finite {u v : Val} (hu : u.isFinite = true) (hv : v.isFinite = true) : Val.le u v = true ↔ u.toRat ≤ v.toRat := by
  simp only [le, eq, lt_of_finite hu hv, lt_of_finite hv hu, isNan_of_finite hu, isNan_of_finite hv, Bool.not_false, Bool.true_and,
    Bool.or_eq_true, Bool.and_eq_true, Bool.not_eq_true', decide_eq_true_eq, decide_eq_false_iff_not, Rat.not_lt]
  exact ⟨fun h => h.elim Rat.le_of_lt And.right, fun h => (Rat.le_iff_lt_or_eq.mp h).imp_right fun heq =>
    (Rat.le_antisymm_iff.mp heq).symm⟩

theorem Val.infNeg_le : ∀ {v : Val}, v.isFinite = true → Val.le (.inf true) v = true ∧ Val.le v (.inf true) = false
  | .zero _, _ | .fin _, _ => ⟨rfl, rfl⟩

theorem Val.le_infPos : ∀ {v : Val}, v.isFinite = true → Val.le v (.inf false) = true ∧ Val.le (.inf false) v = false
  | .zero _, _ | .fin _, _ => ⟨rfl, rfl⟩

theorem Val.le_nan (v : Val) : Val.le v .nan = false := by
  cases v with
  | inf neg => cases neg <;> rfl
  | nan => rfl
  | zero neg => rfl
  | fin q => rfl

/-- What lies at or below a real: minus infinity, and the finite values that do not exceed it. -/
theorem Val.le_ofRat_iff (v : Val) (q : Rat) :
    Val.le v (.ofRat q) = true ↔ v = .inf true ∨ (v.isFinite = true ∧ v.toRat ≤ q) := by
  have hq := Val.ofRat_isFinite q
  have hfinite (hv : v.isFinite = true) (hne : v ≠ .inf true) :
      Val.le v (.ofRat q) = true ↔ v = .inf true ∨ (v.isFinite = true ∧ v.toRat ≤ q) := by
    rw [le_of_finite hv hq, ofRat_toRat]
    exact ⟨fun h => .inr ⟨hv, h⟩, fun h => (h.resolve_left hne).2⟩
  match v with
  | .nan => exact ⟨nofun, fun h => h.elim nofun fun h => (nomatch h.1)⟩
  | .inf true => exact ⟨fun _ => .inl rfl, fun _ => (infNeg_le hq).1⟩
  | .inf false => exact ⟨fun h => (nomatch (le_infPos hq).2.symm.trans h), fun h => h.elim nofun fun h => (nomatch h.1)⟩
  | .zero _ => exact hfinite rfl nofun
  | .fin _ => exact hfinite rfl nofun

/-- What lies at or above a real: plus infinity, and the finite values that are no less than it. -/
theorem Val.ofRat_le_iff (v : Val) (q : Rat) :
    Val.le (.ofRat q) v = true ↔ v = .inf false ∨ (v.isFinite = true ∧ q ≤ v.toRat) := by
  have hq := Val.ofRat_isFinite q
  have hfinite (hv : v.isFinite = true) (hne : v ≠ .inf false) :
      Val.le (.ofRat q) v = true ↔ v = .inf false ∨ (v.isFinite = true ∧ q ≤ v.toRat) := by
    rw [le_of_finite hq hv, ofRat_toRat]
    exact ⟨fun h => .inr ⟨hv, h⟩, fun h => (h.resolve_left hne).2⟩
  match v with
  | .nan => exact ⟨fun h => (nomatch (le_nan _).symm.trans h), fun h => h.elim nofun fun h => (nomatch h.1)⟩
  | .inf true => exact ⟨fun h => (nomatch (infNeg_le hq).2.symm.trans h), fun h => h.elim nofun fun h => (nomatch h.1)⟩
  | .inf false => exact ⟨fun _ => .inl rfl, fun _ => (le_infPos hq).1⟩
  | .zero _ => exact hfinite rfl nofun
  | .fin _ => exact hfinite rfl nofun

theorem Val.neg_isFinite (v : Val) : v.neg.isFinite = v.isFinite := by
  cases v <;> rfl

theorem Val.neg_isNan (v : Val) : v.neg.isNan = v.isNan := by
  cases v <;> rfl

theorem Val.neg_toRat : ∀ v : Val, v.neg.toRat = -v.toRat
  | .nan | .inf _ | .zero _ => Rat.neg_zero.symm
  | .fin _ => rfl

theorem Val.neg_eq_inf : ∀ (v : Val) (n : Bool), v.neg = .inf n ↔ v = .inf (!n)
  | .nan, _ | .zero _, _ | .fin _, _ => ⟨nofun, nofun⟩
  | .inf true, true | .inf false, false => ⟨nofun, nofun⟩
  | .inf true, false | .inf false, true => ⟨fun _ => rfl, fun _ => rfl⟩

/-- Negation turns the order around. -/
theorem Val.neg_le_ofRat (v : Val) (q : Rat) : Val.le v.neg (.ofRat (-q)) = true ↔ Val.le (.ofRat q) v = true := by
  simp only [le_ofRat_iff, ofRat_le_iff, neg_eq_inf, neg_isFinite, neg_toRat, Rat.neg_le_neg_iff, Bool.not_true]

theorem Val.ofRat_le_neg (v : Val) (q : Rat) : Val.le (.ofRat (-q)) v.neg = true ↔ Val.le v (.ofRat q) = true := by
  simp only [le_ofRat_iff, ofRat_le_iff, neg_eq_inf, neg_isFinite, neg_toRat, Rat.neg_le_neg_iff, Bool.not_false]

/-! #### Rounding into a format (R109, R110, R115) -/

/-- Rounding toward minus infinity, with an unbounded exponent, does not go above the value. -/
theorem FloatFmt.roundUnbounded_rdn_le (f : FloatFmt) (q : Rat) : f.roundUnbounded .rdn q ≤ q := by
  have hmag : 0 ≤ ratAbs q * pow2 (-f.quantum (ratAbs q)) :=
    Rat.mul_nonneg (ratAbs_nonneg q) (Rat.le_of_lt (pow2_pos _))
  calc f.roundUnbounded .rdn q
      = signed (decide (q < 0)) (roundMag .rdn (decide (q < 0)) (ratAbs q * pow2 (-f.quantum (ratAbs q))) * pow2 (f.quantum (ratAbs q))) :=
        f.roundUnbounded_eq .rdn q
    _ ≤ signed (decide (q < 0)) (ratAbs q * pow2 (-f.quantum (ratAbs q)) * pow2 (f.quantum (ratAbs q))) :=
        signed_roundMag_rdn_le _ hmag (Rat.le_of_lt (pow2_pos _))
    _ = q := by rw [mul_pow2_neg_mul_pow2, signed_ratAbs]

/-- A value that is not negative does not round to a negative one. -/
theorem FloatFmt.roundUnbounded_nonneg (f : FloatFmt) (mode : RMode) {q : Rat} (hq : 0 ≤ q) : 0 ≤ f.roundUnbounded mode q := by
  rw [roundUnbounded_eq, decide_eq_false (Rat.not_lt.mpr hq)]
  exact Rat.mul_nonneg Rat.natCast_nonneg (Rat.le_of_lt (pow2_pos _))

/-- Rounding up mirrors rounding down. -/
theorem FloatFmt.roundUnbounded_rup (f : FloatFmt) {q : Rat} (hq : q ≠ 0) :
    f.roundUnbounded .rup q = -f.roundUnbounded .rdn (-q) := by
  rw [roundUnbounded_eq, roundUnbounded_eq, ratAbs_neg, decide_neg_lt_zero hq, roundMag_rup, signed_not, Rat.neg_neg]

theorem FloatFmt.round_zero (f : FloatFmt) (mode : RMode) (sat zneg : Bool) : f.round mode sat 0 zneg = pure (.zero zneg) :=
  if_pos rfl

/-- R115: an overflow is written as the largest finite value of its sign or as the format writes an infinity. -/
theorem FloatFmt.overflow_cases (f : FloatFmt) (mode : RMode) (neg : Bool) :
    f.overflow mode neg = .fin (signed neg f.largest) ∨ f.overflow mode neg = if f.hasInf then .inf neg else .nan :=
  (Classical.em _).imp (fun h => if_pos h) (fun h => if_neg h)

/-- The value a non-zero rational rounds to (R110, R115). -/
theorem FloatFmt.round_value (f : FloatFmt) (mode : RMode) (sat zneg : Bool) {q : Rat} (hq : q ≠ 0) :
    (f.round mode sat q zneg).runFlags.1 =
      if f.roundUnbounded mode q = 0 then .zero (decide (q < 0))
      else if f.largest < ratAbs (f.roundUnbounded mode q) then
        if sat then .fin (signed (decide (q < 0)) f.largest) else f.overflow mode (decide (q < 0))
      else .fin (f.roundUnbounded mode q) := by
  unfold round
  rw [if_neg hq]
  dsimp only
  split
  · rfl
  split
  · split
    · simp only [signed, decide_eq_true_eq]
      rfl
    · cases (f.overflow mode (decide (q < 0))).isNan
      · rfl
      · rfl
  · rfl

/-- R109: a value rounded toward minus infinity, where it is a number, is not above the exact one. -/
theorem FloatFmt.round_rdn_le (f : FloatFmt) (q : Rat) (hnan : (f.round .rdn false q).runFlags.1.isNan = false) :
    Val.le (f.round .rdn false q).runFlags.1 (.ofRat q) = true := by
  rw [Val.le_ofRat_iff]
  by_cases hq : q = 0
  · subst hq
    rw [round_zero]
    exact .inr ⟨rfl, Rat.le_refl⟩
  have hle := f.roundUnbounded_rdn_le q
  revert hnan
  rw [round_value f .rdn false false hq]
  split
  · next hzero => exact fun _ => .inr ⟨rfl, Rat.le_trans (Rat.le_iff_lt_or_eq.mpr (.inr hzero.symm)) hle⟩
  split
  · next hover =>
    by_cases hneg : q < 0
    · rw [decide_eq_true hneg]
      cases hinf : f.hasInf with
      | true => exact fun _ => .inl (if_pos hinf)
      | false =>
        have hover : f.overflow .rdn true = .nan := if_neg (Bool.eq_false_iff.mp hinf)
        intro hnan
        rw [if_neg Bool.false_ne_true, hover] at hnan
        cases hnan
    · rw [decide_eq_false hneg]
      rw [ratAbs_of_nonneg (f.roundUnbounded_nonneg .rdn (Rat.not_lt.mp hneg))] at hover
      exact fun _ => .inr ⟨rfl, Rat.le_trans (Rat.le_of_lt hover) hle⟩
  · exact fun _ => .inr ⟨rfl, hle⟩

/-- A non-zero value's rounding up mirrors its rounding down, overflow included. -/
theorem FloatFmt.round_rup_value (f : FloatFmt) {q : Rat} (hq : q ≠ 0) :
    (f.round .rup false q).runFlags.1 = (f.round .rdn false (-q)).runFlags.1.neg := by
  have hover (neg : Bool) : f.overflow .rup neg = (f.overflow .rdn (!neg)).neg := by
    unfold overflow
    cases neg <;> cases f.hasInf <;> rfl
  rw [round_value f .rup false false hq, round_value f .rdn false false (mt neg_eq_zero_iff.mp hq), f.roundUnbounded_rup hq,
    ratAbs_neg, decide_neg_lt_zero hq, hover]
  simp only [neg_eq_zero_iff]
  split
  · rw [Val.neg, Bool.not_not]
  split
  · rfl
  · rfl

/-- R109: a value rounded toward plus infinity, where it is a number, is not below the exact one. -/
theorem FloatFmt.le_round_rup (f : FloatFmt) (q : Rat) (hnan : (f.round .rup false q).runFlags.1.isNan = false) :
    Val.le (.ofRat q) (f.round .rup false q).runFlags.1 = true := by
  by_cases hq : q = 0
  · subst hq
    rw [round_zero]
    rfl
  rw [f.round_rup_value hq] at hnan ⊢
  rw [Val.neg_isNan] at hnan
  have h := f.round_rdn_le (-q) hnan
  rwa [← Val.ofRat_le_neg, Rat.neg_neg] at h

/-- R115: a saturating rounding stays within the finite range. -/
theorem FloatFmt.Wf.round_sat {f : FloatFmt} (hf : f.Wf) (mode : RMode) (q : Rat) :
    (f.round mode true q).runFlags.1.isFinite = true ∧ ratAbs (f.round mode true q).runFlags.1.toRat ≤ f.largest := by
  have hzero : ratAbs 0 ≤ f.largest := Rat.le_of_lt hf.largest_pos
  by_cases hq : q = 0
  · subst hq
    rw [round_zero]
    exact ⟨rfl, hzero⟩
  rw [round_value f mode true false hq]
  split
  · exact ⟨rfl, hzero⟩
  split
  · exact ⟨rfl, Rat.le_iff_lt_or_eq.mpr (.inr (ratAbs_signed _ (Rat.le_of_lt hf.largest_pos)))⟩
  · next hin => exact ⟨rfl, Rat.not_lt.mp hin⟩

/-! #### Patterns and their values (R95, R98, R110) -/

section PatternOf
variable {f : FloatFmt} {w : Nat} {v : Val}

/-- The pattern of a value is the one the format writes for it. -/
theorem FloatFmt.PatternOf.encode_eq (h : f.PatternOf w v) : f.encode v = w := by
  cases h with
  | inf neg hinf hw =>
    rw [hw]
    simp only [encode, hinf, if_true]
    rfl
  | zero neg hw => exact hw.symm
  | fin neg k e hsig _ hw => rw [hsig.encode_eq, hw]

/-- A value that has a pattern rounds to itself, and raises no flag. -/
theorem FloatFmt.PatternOf.roundVal_eq (h : f.PatternOf w v) (mode : RMode) : f.roundVal mode v = pure v := by
  cases h with
  | inf neg hinf _ => exact if_pos hinf
  | zero neg _ => rfl
  | fin neg k e hsig hle _ =>
    have hmag := hsig.mag_pos
    show f.round mode false (signed neg (k * pow2 e)) = _
    simp only [round, hsig.roundUnbounded_eq, signed_ne_zero neg hmag, ratAbs_signed neg (Rat.le_of_lt hmag), Rat.not_lt.mpr hle, if_false]

end PatternOf

/-- Settles O59: a pattern is its value's own (`decode_patternOf`), a value with a pattern rounds to itself, and rounding up mirrors
rounding down. -/
theorem patternsKeepTheirValues : Obligations.PatternsKeepTheirValues := by
  unfold Obligations.PatternsKeepTheirValues
  intro f hmem
  have hf := FloatFmt.wf_of_mem hmem
  refine ⟨fun w hw hnan => ?_, fun q v => ⟨?_, ?_, ?_⟩⟩
  · have hpat := hf.decode_patternOf hw hnan
    exact ⟨hpat.encode_eq, fun m => by rw [hpat.roundVal_eq]; rfl⟩
  · rintro rfl hnan
    exact f.round_rdn_le q hnan
  · rintro rfl hnan
    exact f.le_round_rup q hnan
  · rintro m rfl
    exact hf.round_sat m q

end Sys2Proof.Machine

/-! ### Interval sums (R119, R120, R122) -/

namespace Sys2Proof.Machine

/-! #### Exact sums and zero endpoints -/

theorem rat_add_le_add {a b c d : Rat} (hab : a ≤ b) (hcd : c ≤ d) : a + c ≤ b + d :=
  Rat.le_trans (Rat.add_le_add_right.mpr hab) (Rat.add_le_add_left.mpr hcd)

/-- A sum of finite values stands for the sum of their reals. -/
theorem Val.add_of_finite (mode : RMode) : ∀ {u v : Val}, u.isFinite = true → v.isFinite = true →
    (Val.add mode u v).isFinite = true ∧ (Val.add mode u v).toRat = u.toRat + v.toRat
  | .zero _, .zero _, _, _ => ⟨rfl, (Rat.add_zero 0).symm⟩
  | .zero _, .fin q, _, _ => ⟨rfl, (Rat.zero_add q).symm⟩
  | .fin p, .zero _, _, _ => ⟨rfl, (Rat.add_zero p).symm⟩
  | .fin p, .fin q, _, _ => by
    unfold add
    dsimp only
    split
    · next hzero => exact ⟨rfl, hzero.symm⟩
    · exact ⟨rfl, rfl⟩

theorem Val.add_inf_of_finite (mode : RMode) (n : Bool) : ∀ {v : Val}, v.isFinite = true →
    Val.add mode (.inf n) v = .inf n ∧ Val.add mode v (.inf n) = .inf n
  | .zero _, _ | .fin _, _ => ⟨rfl, rfl⟩

theorem Val.add_inf_inf (mode : RMode) (n : Bool) : Val.add mode (.inf n) (.inf n) = .inf n := if_pos rfl

/-- The sum of lower bounds is a lower bound of the sum. -/
theorem Val.add_le_ofRat (mode : RMode) {u v : Val} {x y : Rat} (hu : Val.le u (.ofRat x) = true) (hv : Val.le v (.ofRat y) = true) :
    Val.le (Val.add mode u v) (.ofRat (x + y)) = true := by
  rw [le_ofRat_iff] at hu hv ⊢
  rcases hu with rfl | ⟨hu, hx⟩ <;> rcases hv with rfl | ⟨hv, hy⟩
  · exact .inl (add_inf_inf mode true)
  · exact .inl (add_inf_of_finite mode true hv).1
  · exact .inl (add_inf_of_finite mode true hu).2
  · obtain ⟨hfin, hsum⟩ := add_of_finite mode hu hv
    exact .inr ⟨hfin, hsum ▸ rat_add_le_add hx hy⟩

/-- The sum of upper bounds is an upper bound of the sum. -/
theorem Val.ofRat_le_add (mode : RMode) {u v : Val} {x y : Rat} (hu : Val.le (.ofRat x) u = true) (hv : Val.le (.ofRat y) v = true) :
    Val.le (.ofRat (x + y)) (Val.add mode u v) = true := by
  rw [ofRat_le_iff] at hu hv ⊢
  rcases hu with rfl | ⟨hu, hx⟩ <;> rcases hv with rfl | ⟨hv, hy⟩
  · exact .inl (add_inf_inf mode false)
  · exact .inl (add_inf_of_finite mode false hv).1
  · exact .inl (add_inf_of_finite mode false hu).2
  · obtain ⟨hfin, hsum⟩ := add_of_finite mode hu hv
    exact .inr ⟨hfin, hsum ▸ rat_add_le_add hx hy⟩

theorem plusZero_isFinite (v : Val) : (plusZero v).isFinite = v.isFinite := by
  cases v <;> rfl

theorem plusZero_toRat (v : Val) : (plusZero v).toRat = v.toRat := by
  cases v <;> rfl

theorem plusZero_eq_inf (v : Val) (n : Bool) : plusZero v = .inf n ↔ v = .inf n := by
  cases v with
  | zero => exact ⟨nofun, nofun⟩
  | nan => exact Iff.rfl
  | inf => exact Iff.rfl
  | fin => exact Iff.rfl

/-- R119: an endpoint written with +0 for −0 bounds the same reals. -/
theorem plusZero_le_ofRat (v : Val) (q : Rat) : Val.le (plusZero v) (.ofRat q) = true ↔ Val.le v (.ofRat q) = true := by
  simp only [Val.le_ofRat_iff, plusZero_isFinite, plusZero_toRat, plusZero_eq_inf]

theorem ofRat_le_plusZero (v : Val) (q : Rat) : Val.le (.ofRat q) (plusZero v) = true ↔ Val.le (.ofRat q) v = true := by
  simp only [Val.ofRat_le_iff, plusZero_isFinite, plusZero_toRat, plusZero_eq_inf]

/-! #### Rounding outward (R122, R123) -/

theorem Val.isNan_of_le_ofRat {v : Val} {q : Rat} (h : Val.le v (.ofRat q) = true) : v.isNan = false := by
  rcases (le_ofRat_iff v q).mp h with rfl | ⟨hfin, _⟩
  · rfl
  · exact isNan_of_finite hfin

theorem Val.isNan_of_ofRat_le {v : Val} {q : Rat} (h : Val.le (.ofRat q) v = true) : v.isNan = false := by
  rcases (ofRat_le_iff v q).mp h with rfl | ⟨hfin, _⟩
  · rfl
  · exact isNan_of_finite hfin

/-- In a format with infinities every rational rounds to a number. -/
theorem FloatFmt.round_isNan {f : FloatFmt} (hinf : f.hasInf = true) (mode : RMode) (q : Rat) :
    (f.round mode false q).runFlags.1.isNan = false := by
  have hover (neg : Bool) : (f.overflow mode neg).isNan = false := by
    rcases f.overflow_cases mode neg with h | h
    · rw [h]
      rfl
    · rw [h, if_pos hinf]
      rfl
  by_cases hq : q = 0
  · rw [hq, round_zero]
    rfl
  rw [round_value f mode false false hq]
  split
  · rfl
  split
  · exact hover _
  · rfl

/-- In a format with infinities rounding changes finite values only. -/
theorem FloatFmt.roundVal_of_ne_fin {f : FloatFmt} (hinf : f.hasInf = true) (mode : RMode) {v : Val} (h : ∀ q, v ≠ .fin q) :
    f.roundVal mode v = pure v := by
  cases v with
  | nan => rfl
  | inf n => exact if_pos hinf
  | zero n => rfl
  | fin q => exact absurd rfl (h q)

/-- A lower bound rounded down is a lower bound. -/
theorem FloatFmt.roundVal_rdn_le {f : FloatFmt} (hinf : f.hasInf = true) {v : Val} {z : Rat} (h : Val.le v (.ofRat z) = true) :
    Val.le (f.roundVal .rdn v).runFlags.1 (.ofRat z) = true := by
  by_cases hfin : ∃ q, v = .fin q
  · obtain ⟨q, rfl⟩ := hfin
    have hqz : q ≤ z := (((Val.le_ofRat_iff ..).mp h).resolve_left nofun).2
    have hround := f.round_rdn_le q (round_isNan hinf .rdn q)
    rw [Val.le_ofRat_iff] at hround ⊢
    exact hround.imp_right fun ⟨hfin, hle⟩ => ⟨hfin, Rat.le_trans hle hqz⟩
  · rw [roundVal_of_ne_fin hinf _ (not_exists.mp hfin)]
    exact h

/-- An upper bound rounded up is an upper bound. -/
theorem FloatFmt.le_roundVal_rup {f : FloatFmt} (hinf : f.hasInf = true) {v : Val} {z : Rat} (h : Val.le (.ofRat z) v = true) :
    Val.le (.ofRat z) (f.roundVal .rup v).runFlags.1 = true := by
  by_cases hfin : ∃ q, v = .fin q
  · obtain ⟨q, rfl⟩ := hfin
    have hzq : z ≤ q := (((Val.ofRat_le_iff ..).mp h).resolve_left nofun).2
    have hround := f.le_round_rup q (round_isNan hinf .rup q)
    rw [Val.ofRat_le_iff] at hround ⊢
    exact hround.imp_right fun ⟨hfin, hle⟩ => ⟨hfin, Rat.le_trans hzq hle⟩
  · rw [roundVal_of_ne_fin hinf _ (not_exists.mp hfin)]
    exact h

theorem FloatFmt.roundUnbounded_zero (f : FloatFmt) (mode : RMode) : f.roundUnbounded mode 0 = 0 := by
  have hmag : roundMag mode false 0 = 0 := roundMag_natCast mode false 0
  have hsign : decide ((0 : Rat) < 0) = false := rfl
  have habs : ratAbs 0 = 0 := ratAbs_of_nonneg Rat.le_refl
  have hcast : ((0 : Nat) : Rat) = 0 := rfl
  rw [roundUnbounded_eq, hsign, signed_false, habs, Rat.zero_mul, hmag, hcast, Rat.zero_mul]

theorem plusZero_overflow (f : FloatFmt) (mode : RMode) (neg : Bool) : plusZero (f.overflow mode neg) = f.overflow mode neg := by
  rcases f.overflow_cases mode neg with h | h
  · rw [h]
    rfl
  · rw [h]
    split
    · rfl
    · rfl

/-- A finite endpoint as `Iv.outward` rounds it is the format's own rounding, with +0 for −0. -/
theorem plusZero_roundVal_fin (f : FloatFmt) (mode : RMode) (q : Rat) : plusZero (f.roundVal mode (.fin q)).runFlags.1 =
    if f.roundUnbounded mode q = 0 then .zero false
    else if f.largest < ratAbs (f.roundUnbounded mode q) then f.overflow mode (decide (q < 0))
    else .fin (f.roundUnbounded mode q) := by
  show plusZero (f.round mode false q).runFlags.1 = _
  by_cases hq : q = 0
  · rw [hq, FloatFmt.round_zero, if_pos (f.roundUnbounded_zero mode)]
    rfl
  rw [FloatFmt.round_value f mode false false hq]
  split
  · rfl
  split
  · exact plusZero_overflow ..
  · rfl

/-- Numbers rounded outward are the two directed roundings, with +0 for −0 (R119, R120). -/
theorem Iv.outward_value {f : FloatFmt} (hinf : f.hasInf = true) (whole : Bool) {lo hi : Val} (hlo : lo.isNan = false)
    (hhi : hi.isNan = false) : (Iv.outward f whole lo hi).runFlags.1 =
      ⟨plusZero (f.roundVal .rdn lo).runFlags.1, plusZero (f.roundVal .rup hi).runFlags.1⟩ := by
  have hvalue (c : Prop) [Decidable c] (i : Iv) : (NumM.runFlags (if c then do raiseIVW; pure i else pure i)).1 = i := by
    split <;> rfl
  simp only [outward, hlo, hhi, Bool.or_false, Bool.false_eq_true, if_false]
  rw [hvalue]
  rw [Iv.mk.injEq]
  refine ⟨?_, ?_⟩
  all_goals
    split
    · exact (plusZero_roundVal_fin ..).symm
    · next hfin => rw [FloatFmt.roundVal_of_ne_fin hinf _ hfin]; rfl

/-- Endpoints that enclose a real enclose it still when they are rounded outward. -/
theorem Iv.outward_encloses {f : FloatFmt} (hinf : f.hasInf = true) (whole : Bool) {lo hi : Val} {z : Rat}
    (hlo : Val.le lo (.ofRat z) = true) (hhi : Val.le (.ofRat z) hi = true) :
    Val.le (Iv.outward f whole lo hi).runFlags.1.lo (.ofRat z) = true ∧ Val.le (.ofRat z) (Iv.outward f whole lo hi).runFlags.1.hi = true := by
  rw [Iv.outward_value hinf whole (Val.isNan_of_le_ofRat hlo) (Val.isNan_of_ofRat_le hhi)]
  exact ⟨(plusZero_le_ofRat ..).mpr (FloatFmt.roundVal_rdn_le hinf hlo), (ofRat_le_plusZero ..).mpr (FloatFmt.le_roundVal_rup hinf hhi)⟩

/-- Settles O60: the exact endpoints of R120 enclose the real result, and rounding them outward keeps it enclosed. -/
theorem intervalSumsEnclose : Obligations.IntervalSumsEnclose := by
  unfold Obligations.IntervalSumsEnclose
  intro f hmem a b x y _ _ halo hahi hblo hbhi
  have hinf : f.hasInf = true := by
    simp only [List.mem_cons, List.not_mem_nil, or_false] at hmem
    rcases hmem with rfl | rfl <;> rfl
  have hblo' := (Val.ofRat_le_neg b.lo y).mpr hblo
  have hbhi' := (Val.neg_le_ofRat b.hi y).mpr hbhi
  refine ⟨?sum, ?difference, ?negation⟩
  case sum => exact Iv.outward_encloses hinf _ (Val.add_le_ofRat .rdn halo hblo) (Val.ofRat_le_add .rup hahi hbhi)
  case difference =>
    rw [Rat.sub_eq_add_neg]
    exact Iv.outward_encloses hinf _ (Val.add_le_ofRat .rdn halo hbhi') (Val.ofRat_le_add .rup hahi hblo')
  case negation =>
    exact ⟨(plusZero_le_ofRat ..).mpr ((Val.neg_le_ofRat ..).mpr hahi), (ofRat_le_plusZero ..).mpr ((Val.ofRat_le_neg ..).mpr halo)⟩

end Sys2Proof.Machine

/-! ### A spare that faults in the midst of its own test (R627, R630, R631) -/

namespace Sys2Proof.Machine

/-- R753: on a healthy die, the fault of a unit that is no link and no port is logged, and the unit has failed. -/
theorem exec_unitFault {s : State} {d u kind : Nat} (hd : s.healthy d = true) (h0 : u / 4096 ≠ 0) (h10 : u / 4096 ≠ 10)
    (h11 : u / 4096 ≠ 11) (hkind : 1 ≤ kind ∧ kind ≤ 4) :
    exec (.unitFault d u kind) s = .next ((s.logErr d 0x0019 u kind).failUnit d u 0x0019).issueAll := by
  show execUnitFault d u kind s = _
  simp [execUnitFault, State.done, hd, h0, h10, h11, hkind]

/-- A test unit that has failed: it is under test no more. -/
def TestUnit.fail (t : TestUnit) : TestUnit := { t with failed := true, running := none, suspect := none, named := [] }

/-- A unit that fails is no spare under test any more. Where no other spare of its die is under test, no remap is left to wait for (R631),
and its failure is acted on at once. -/
theorem State.failUnit_eq_actOnFailure {s : State} {d u : Nat} (code : Nat) (hd : s.healthy d = true) (hu : testUnitOf u = some u)
    (hlanes : u / 4096 ≠ 4) (hlast : ((s.modUnit d u TestUnit.fail).die d).remapping = false) :
    s.failUnit d u code = (s.modUnit d u TestUnit.fail).actOnFailure d u code false false := by
  unfold TestUnit.fail at *
  simp [State.failUnit, hd, hu, hlanes, hlast]

/-- A part at work. -/
def State.atWork : State :=
  { State.reset with
    boot := { State.reset.boot with held := false, pll := true, memReady := true, fwReady := true, gtcStarted := true } }

/-- The part after a fault of GQU 5 of die 0. -/
def State.gquFaulted : State := ((State.atWork.logErr 0 0x0019 (gquUnit 5) 1).failUnit 0 (gquUnit 5) 0x0019).issueAll

/-- One command brings a part at work there. -/
theorem exec_unitFault_atWork : exec (.unitFault 0 (gquUnit 5) 1) State.atWork = .next State.gquFaulted :=
  exec_unitFault (by decide) (by decide) (by decide) (by decide) (by decide)

/-- R627: the spare GQU is under test before it takes over from GQU 5, so that a remap is in progress. -/
theorem State.gquFaulted_remapping : State.gquFaulted.healthy 0 = true ∧ (State.gquFaulted.die 0).remapping = true ∧
    ((State.gquFaulted.die 0).unit spareGqu).suspect = some (gquUnit 5 + 1) := by
  decide +kernel

/-- A fault of the spare GQU ends the test that the remap waits for, so the spare is spent at once (R630) and no failure waits. -/
theorem State.gquFaulted_spareGqu_fails {t : State} (ht : exec (.unitFault 0 spareGqu 1) State.gquFaulted = .next t) :
    (t.die 0).spares.gquFail = 32 ∧ (t.die 0).spares.waiting = [] := by
  obtain ⟨hd, -, -⟩ := State.gquFaulted_remapping
  rw [exec_unitFault hd (by decide) (by decide) (by decide) (by decide),
    State.failUnit_eq_actOnFailure _ (by decide +kernel) (by decide) (by decide) (by decide +kernel)] at ht
  obtain rfl := Host.Outcome.next.inj ht
  decide +kernel

/-- Refutes O42: its clause on R631 says that every failure found in the midst of a remap waits. The failure of the very spare that the
remap waits for does not: GQU 5 of a die fails, the spare GQU is tested to take over, and signals a fault of its own. -/
theorem not_faultyUnitsAreReplacedOrLost : ¬ Obligations.FaultyUnitsAreReplacedOrLost := by
  unfold Obligations.FaultyUnitsAreReplacedOrLost
  intro h
  obtain ⟨hd, hremap, -⟩ := State.gquFaulted_remapping
  obtain ⟨-, -, -, hwaits, -⟩ := h State.gquFaulted 0 spareGqu 0 0 0 0 0 false hd
  obtain ⟨t, ht, hwaiting, -⟩ := hwaits 1 (by decide) (by decide) (by decide) (by decide) (by decide) (by decide) hremap
  obtain ⟨-, hnone⟩ := State.gquFaulted_spareGqu_fails ht
  simp [hnone] at hwaiting

end Sys2Proof.Machine
